-- ==== Sys2Proof/Word.lean ====
section
/-! DEFINITION. Words of the machine: the bit-vector types of the spec's registers, lanes, tokens, frames and addresses (R1, R2,
R244, R307), with their plainest arithmetic. -/

namespace Sys2Proof

/-- A 64-bit control-core register or address operand (R238). -/
abbrev Word := BitVec 64
/-- A byte of memory. -/
abbrev Byte := BitVec 8
/-- A 32-bit lane of a C tile (R232). -/
abbrev Lane := BitVec 32
/-- The 128-byte payload of a token, lane `n` in bits [32n+31 : 32n] (R244). -/
abbrev Line := BitVec 1024
/-- A configuration frame (R307). -/
abbrev Frame := BitVec 256
/-- A control-core register number (R291). -/
abbrev Reg := BitVec 5
/-- A scope code, 0 (.lg) to 7 (.sys) (R4). -/
abbrev Scope := BitVec 3

/-- Bits [hi:lo] of `x` as a number (R2). -/
def bits {w : Nat} (x : BitVec w) (hi lo : Nat) : Nat := (x.toNat >>> lo) % 2 ^ (hi + 1 - lo)

/-- Bits [hi:lo] of a number. -/
def nbits (x hi lo : Nat) : Nat := (x >>> lo) % 2 ^ (hi + 1 - lo)

end Sys2Proof
end

