-- ==== Sys2Proof/Machine/Tab.lean ====
section
/-! DEFINITION. Tables: sparse data by a numeric key, as a list of pairs with strictly rising keys, and the byte memory built on them.
A key with no pair reads as the table's default, so equal tables are equal lists. -/

namespace Sys2Proof.Machine

/-- A sparse table: pairs with strictly rising keys. -/
abbrev Tab (α : Type) := List (Nat × α)

/-- The entry of key `k`, if the table lists one. -/
def tabFind {α : Type} : Tab α → Nat → Option α
  | [], _ => none
  | (j, a) :: t, k => if j = k then some a else tabFind t k

/-- The entry of key `k`, or the default `d`. -/
def tabGet {α : Type} (d : α) (t : Tab α) (k : Nat) : α := (tabFind t k).getD d

/-- Set the entry of key `k`, keeping the keys rising. -/
def tabPut {α : Type} : Tab α → Nat → α → Tab α
  | [], k, a => [(k, a)]
  | (j, b) :: t, k, a =>
    if k < j then (k, a) :: (j, b) :: t else if j = k then (k, a) :: t else (j, b) :: tabPut t k a

/-- Drop the entry of key `k`. -/
def tabDel {α : Type} : Tab α → Nat → Tab α
  | [], _ => []
  | (j, b) :: t, k => if j = k then tabDel t k else (j, b) :: tabDel t k

/-- The keys rise strictly from above `lo`. -/
def tabSorted {α : Type} : Tab α → Bool
  | [] => true
  | [_] => true
  | (j, _) :: (k, b) :: t => decide (j < k) && tabSorted ((k, b) :: t)

/-- Byte memory: pairs of an address and a byte, addresses strictly rising, and no byte equal to zero, which is what an unlisted address
reads as. Boot step 1 writes zeros over every SRAM and every live stack (R88). -/
abbrev Memory := List Host.Cell

/-- What an address that the memory does not list reads as (R88 step 1). -/
def memDefault : Byte := 0

/-- The byte at address `a`. -/
def memGet (m : Memory) (a : Nat) : Byte := tabGet memDefault m a

/-- Store byte `b` at address `a`; storing what an unlisted address reads as removes the entry. -/
def memPut (m : Memory) (a : Nat) (b : Byte) : Memory := if b = memDefault then tabDel m a else tabPut m a b

/-- The canonical form of a memory. -/
def Memory.wf (m : Memory) : Bool := tabSorted m && m.all (fun c => decide (c.2 ≠ memDefault))

/-- `n` bytes from address `a`, lowest address first. -/
def memBytes (m : Memory) (a : Nat) : Nat → List Byte
  | 0 => []
  | n + 1 => memGet m a :: memBytes m (a + 1) n

/-- Store bytes from address `a` upwards. -/
def memStore (m : Memory) (a : Nat) : List Byte → Memory
  | [] => m
  | b :: bs => memStore (memPut m a b) (a + 1) bs

/-- The number that bytes stand for, the first byte in the low bits (R2). -/
def leNat : List Byte → Nat
  | [] => 0
  | b :: bs => b.toNat + 256 * leNat bs

/-- The low `n` bytes of a number, low byte first (R2). -/
def leBytes : Nat → Nat → List Byte
  | 0, _ => []
  | n + 1, v => BitVec.ofNat 8 v :: leBytes n (v / 256)

/-- A big-endian number, as wire order and SHA-384 use it (R55). -/
def beNat (bs : List Byte) : Nat := bs.foldl (fun a b => a * 256 + b.toNat) 0

/-- The byte at position `i` of a list, zero past its end. -/
def byteAt (bs : List Byte) (i : Nat) : Byte := bs.getD i 0

/-- `n` bytes of a list from position `i` as a little-endian number. -/
def fieldAt (bs : List Byte) (i n : Nat) : Nat := leNat ((bs.drop i).take n)

/-- Insert a number into a strictly rising list. -/
def setIns : List Nat → Nat → List Nat
  | [], k => [k]
  | j :: t, k => if k < j then k :: j :: t else if j = k then j :: t else j :: setIns t k

/-- Drop a number from a list. -/
def setDel (t : List Nat) (k : Nat) : List Nat := t.filter (fun j => j != k)

end Sys2Proof.Machine
end

