-- ==== Sys2Proof/Syntax.lean ====
section
/-! DEFINITION. The operands and the one inductive of instructions: every row of spec/opcode_table.json is a constructor of `Instr`,
the encoded words of control cores (R291 to R302) and C tiles (R305, R306), and the package's indivisible steps and events, whose
outside data and acting unit are an `Input`. -/

namespace Sys2Proof

/-- A core of the package: die 0 to 7, core 0 to 15 (R5). -/
structure CoreId where
  die : BitVec 3
  core : BitVec 4
  deriving DecidableEq, Repr, Inhabited

/-- A place in a core's fabric: its site (R229) and the slot of R252: 0 and 1 tile nodes, 2 to 5 switch operators, 6 the M-tile role,
7 the port block. -/
structure NodeRef where
  c : CoreId
  site : BitVec 8
  slot : BitVec 4
  deriving DecidableEq, Repr, Inhabited

/-- The ordering of an access with its scope (R169): a scope stands only beside the release and acquire code. -/
inductive Ord where
  | plain
  | sync (scope : Scope)
  | sc
  | fe
  deriving DecidableEq, Repr, Inhabited

/-- Access sizes of 1, 2, 4 and 8 bytes (R297). -/
inductive Sz where
  | b | h | w | d
  deriving DecidableEq, Repr, Inhabited

/-- Spaces of a memory operand: global, vault, tile (R297). -/
inductive Sp where
  | g | v | t
  deriving DecidableEq, Repr, Inhabited

/-- Rounding modes (R282). -/
inductive Rm where
  | rne | rtz | rdn | rup | rna
  deriving DecidableEq, Repr, Inhabited

/-- The rounding choice of a micro-op: a mode it names, or the tile's mode (R283, R305). -/
inductive Mode where
  | rm (m : Rm)
  | tile
  deriving DecidableEq, Repr, Inhabited

/-- Element formats (R191). -/
inductive Fmt where
  | raw | u32 | i32 | f32 | bf16 | f16 | e4m3 | e5m2 | e2m1 | vq2 | i8 | e8m0
  deriving DecidableEq, Repr, Inhabited

/-- Conditions of FCMP (R322). -/
inductive FCond where
  | eq | lt | le | un
  deriving DecidableEq, Repr, Inhabited

/-- A micro-op source: v0 to v7, i0 to i3, k0 to k3 (R305). -/
inductive Src where
  | v (n : BitVec 3)
  | i (n : BitVec 2)
  | k (n : BitVec 2)
  deriving DecidableEq, Repr, Inhabited

/-- A micro-op destination: v0 to v7, o0 to o3, p (R305). -/
inductive Dst where
  | v (n : BitVec 3)
  | o (n : BitVec 2)
  | p
  deriving DecidableEq, Repr, Inhabited

/-- Operand types of VCMP (R372). -/
inductive CmpType where
  | f32 | i32 | u32
  deriving DecidableEq, Repr, Inhabited

/-- Combinations of VRED and VSCAN (R374). -/
inductive RedOp where
  | fadd | fmax | fmin | iadd | imax | imin | and | or | xor | umax
  deriving DecidableEq, Repr, Inhabited

/-- Element widths of VPACK and VUNPK (R377). -/
inductive PackW where
  | w16 | w8 | w4
  deriving DecidableEq, Repr, Inhabited

/-- Modes of MLDB (R391). -/
inductive LdbMode where
  | line | e4m3 | e5m2 | e2m1 | bf16
  deriving DecidableEq, Repr, Inhabited

/-- What an access does at its address (R186, R202); `feRead` and `feWrite` are an access with .fe (R184). -/
inductive Acc where
  | read | write | rmw | index | feRead | feWrite
  deriving DecidableEq, Repr, Inhabited

/-- An agent that issues memory accesses (R164): each operation of an engine and each multicast is one of its own (R222), and so is each agent of
another package, by its package, its node and its SPORT (R214). -/
inductive Agent where
  | ctl (c : CoreId)
  | port (c : CoreId) (n : BitVec 4)
  | copyEng (reticle : BitVec 2) (slot : BitVec 6)
  | gatherEng (reticle : BitVec 2) (slot : BitVec 6)
  | ckptEng (reticle : BitVec 2) (op : Nat)
  | multi (c : CoreId) (op : Nat)
  | firmware (die : BitVec 3)
  | remote (pkg : BitVec 6) (node : BitVec 8) (port : BitVec 4)
  deriving DecidableEq, Repr, Inhabited

/-- A fault record: a port block's, or one of the 64 of a reticle's copy or indirect-stream engine (R202, R341). -/
inductive FaultRef where
  | port (c : CoreId) (n : BitVec 4)
  | copyEng (reticle : BitVec 2) (slot : BitVec 6)
  | gatherEng (reticle : BitVec 2) (slot : BitVec 6)
  deriving DecidableEq, Repr, Inhabited

/-- The status of a PCIe completion: successful, unsupported request, completer abort (R46). -/
inductive PcieStatus where
  | sc | ur | ca
  deriving DecidableEq, Repr, Inhabited

/-- What self-test and training found (R15, R16, R26, R51): the outside world's input to boot step 1. `fenceCosts` are least, typical and
greatest by scope code; `podMap` the joined pod links, each a package with its link number and the package and link at the far end;
`podUnits` the live dies, cores and stacks of the other packages of the pod, each behind its package's index. Boot derives `podMask` and
`routes` from the map. -/
structure SelfTest where
  failedCores : List CoreId
  failedNets : List (BitVec 3)
  failedLateral : List (BitVec 3)
  failedDram : List (BitVec 4)
  failedBase : List (BitVec 4)
  stuckChannels : List (BitVec 4)
  untrainedEth : List (BitVec 4)
  untrainedPod : List (BitVec 4)
  hostLinkUp : Bool
  pkgId : BitVec 6
  podCount : Nat
  podMask : BitVec 64
  podMap : List (Nat × Nat × Nat × Nat)
  routes : List (Nat × Nat)
  fenceCosts : List (Nat × Nat × Nat)
  podUnits : List (Nat × Nat × Nat × Nat)
  deriving DecidableEq, Repr, Inhabited

/-- Who writes a register, and through which window (R6, R45, R94, R98). -/
inductive Window where
  | bar2
  | vsec
  | firmware
  deriving DecidableEq, Repr, Inhabited

/-- A write of `size` bytes to a register window. -/
structure RegWrite where
  window : Window
  off : BitVec 32
  size : Nat
  value : Word
  deriving DecidableEq, Repr, Inhabited

/-- What comes to a step or event of the package from outside, or names the unit that moves: an event reads the fields it needs. -/
structure Input where
  die : BitVec 3 := 0
  core : CoreId := ⟨0, 0⟩
  node : NodeRef := ⟨⟨0, 0⟩, 0, 0⟩
  site : BitVec 8 := 0
  port : BitVec 4 := 0
  core2 : BitVec 4 := 0
  queue : BitVec 10 := 0
  region : BitVec 3 := 0
  reticle : BitVec 2 := 0
  slot : BitVec 6 := 0
  asn : BitVec 16 := 0
  num : Nat := 0
  size : Nat := 0
  word : Word := 0
  data : Option Word := none
  flag : Bool := false
  temp : BitVec 16 := 0
  bytes : List Byte := []
  nonce : BitVec 256 := 0
  addr : BitVec 128 := 0
  agent : Agent := .ctl ⟨0, 0⟩
  acc : Acc := .read
  fault : FaultRef := .port ⟨0, 0⟩ 0
  status : PcieStatus := .sc
  reg : RegWrite := ⟨.bar2, 0, 0, 0⟩
  test : Option SelfTest := none
  deriving DecidableEq, Repr, Inhabited

/-- The instructions: one constructor per row of spec/opcode_table.json, with the fields the table gives the row. -/
inductive Instr where
  /- Control-core instructions (R291 to R302) -/
  | add (d a b : Reg)
  | sub (d a b : Reg)
  | and (d a b : Reg)
  | or (d a b : Reg)
  | xor (d a b : Reg)
  | shl (d a b : Reg)
  | shr (d a b : Reg)
  | sra (d a b : Reg)
  | slt (d a b : Reg)
  | sltu (d a b : Reg)
  | min (d a b : Reg)
  | max (d a b : Reg)
  | minu (d a b : Reg)
  | maxu (d a b : Reg)
  | mul (d a b : Reg)
  | mulh (d a b : Reg)
  | mulhu (d a b : Reg)
  | div (d a b : Reg)
  | divu (d a b : Reg)
  | rem (d a b : Reg)
  | remu (d a b : Reg)
  | clz (d a : Reg)
  | ctz (d a : Reg)
  | popc (d a : Reg)
  | bswap (d a : Reg)
  | lea (d a b : Reg) (k : BitVec 2)
  | addi (d a : Reg) (i : BitVec 16)
  | andi (d a : Reg) (i : BitVec 16)
  | ori (d a : Reg) (i : BitVec 16)
  | xori (d a : Reg) (i : BitVec 16)
  | slti (d a : Reg) (i : BitVec 16)
  | sltiu (d a : Reg) (i : BitVec 16)
  | shli (d a : Reg) (n : BitVec 6)
  | shri (d a : Reg) (n : BitVec 6)
  | srai (d a : Reg) (n : BitVec 6)
  | liz (d : Reg) (p : BitVec 2) (i : BitVec 16)
  | lik (d : Reg) (p : BitVec 2) (i : BitVec 16)
  | fadd (d a b : Reg) (m : Rm)
  | fsub (d a b : Reg) (m : Rm)
  | fmul (d a b : Reg) (m : Rm)
  | fdiv (d a b : Reg) (m : Rm)
  | fsqrt (d a : Reg) (m : Rm)
  | fmin (d a b : Reg) (m : Rm)
  | fmax (d a b : Reg) (m : Rm)
  | fcmp (d a b : Reg) (c : FCond) (m : Rm)
  | fcvt (d a : Reg) (src dst : Fmt) (m : Rm)
  | fclass (d a : Reg) (m : Rm)
  | scalex (d a : Reg) (f : Fmt) (m : Rm)
  | ld (d base : Reg) (o : Ord) (z : Sz) (off : BitVec 9)
  | st (s base : Reg) (o : Ord) (z : Sz) (off : BitVec 9)
  | ldx (d base : Reg) (o : Ord) (z : Sz) (sp : Sp) (off : BitVec 7)
  | stx (s base : Reg) (o : Ord) (z : Sz) (sp : Sp) (off : BitVec 7)
  | amoAdd (d base : Reg) (o : Ord) (dword : Bool) (off : BitVec 6)
  | amoAnd (d base : Reg) (o : Ord) (dword : Bool) (off : BitVec 6)
  | amoOr (d base : Reg) (o : Ord) (dword : Bool) (off : BitVec 6)
  | amoXor (d base : Reg) (o : Ord) (dword : Bool) (off : BitVec 6)
  | amoMin (d base : Reg) (o : Ord) (dword : Bool) (off : BitVec 6)
  | amoMax (d base : Reg) (o : Ord) (dword : Bool) (off : BitVec 6)
  | amoMinu (d base : Reg) (o : Ord) (dword : Bool) (off : BitVec 6)
  | amoMaxu (d base : Reg) (o : Ord) (dword : Bool) (off : BitVec 6)
  | amoXchg (d base : Reg) (o : Ord) (dword : Bool) (off : BitVec 6)
  | amoFadd (d base : Reg) (o : Ord) (off : BitVec 6)
  | amoFabsmax (d base : Reg) (o : Ord) (off : BitVec 6)
  | cas (d base : Reg) (o : Ord) (n : Reg) (dword : Bool) (off : BitVec 5)
  | cas16 (d base : Reg) (o : Ord) (n : Reg) (off : BitVec 5)
  | fenceAcq (s : Scope)
  | fenceRel (s : Scope)
  | fenceAr (s : Scope)
  | fenceFull (s : Scope)
  | beq (a b : Reg) (off : BitVec 16)
  | bne (a b : Reg) (off : BitVec 16)
  | blt (a b : Reg) (off : BitVec 16)
  | bge (a b : Reg) (off : BitVec 16)
  | bltu (a b : Reg) (off : BitVec 16)
  | bgeu (a b : Reg) (off : BitVec 16)
  | jal (d : Reg) (off : BitVec 21)
  | jalr (d a : Reg) (i : BitVec 16)
  | stream (a : Reg) (n : BitVec 4)
  | gather (a : Reg)
  | copyMem (a : Reg)
  | copyMc (a : Reg)
  | wait (l s c t : BitVec 6)
  | mark (s a : Reg) (k : BitVec 4) (i : BitVec 12)
  | markEor (s a : Reg) (l : BitVec 3)
  | bar (c a : Reg) (n : BitVec 4) (m : BitVec 2) (l : BitVec 3)
  | cfgreq (d : Reg) (r : BitVec 3)
  | sprint (d a : Reg) (c : BitVec 4) (retry : Bool) (x : BitVec 2) (id : BitVec 8)
  | sprintLsn (d : Reg) (c : BitVec 4) (id : BitVec 8)
  | send (s a : Reg) (n : BitVec 4) (c : BitVec 4)
  | cmask (n : BitVec 4) (on : Bool) (c : BitVec 4)
  | tstamp (d : Reg)
  | ckpt (a : Reg) (k : BitVec 2)
  | tinv (s a : Reg)
  | tinvAll (s a : Reg)
  | sysc (i : BitVec 16)
  | trap (a : Reg) (i : BitVec 16)
  | rte
  | mfs (d : Reg) (r : BitVec 12)
  | mts (s : Reg) (r : BitVec 12)
  | wfe (d : Reg) (m : BitVec 16)
  | halt
  | bkpt (i : BitVec 16)

  /- C-tile micro-ops (R305, R306) -/
  | vadd (d : Dst) (a b : Src) (x2 p : Bool) (m : Mode)
  | vsub (d : Dst) (a b : Src) (x2 p : Bool) (m : Mode)
  | vmul (d : Dst) (a b : Src) (x2 p : Bool) (m : Mode)
  | vfma (d : Dst) (a b c : Src) (x2 p : Bool) (m : Mode)
  | vmin (d : Dst) (a b : Src) (x2 p : Bool) (m : Mode)
  | vmax (d : Dst) (a b : Src) (x2 p : Bool) (m : Mode)
  | vabs (d : Dst) (a : Src) (x2 p : Bool) (m : Mode)
  | vneg (d : Dst) (a : Src) (x2 p : Bool) (m : Mode)
  | vrcp (d : Dst) (a : Src) (x2 p : Bool) (m : Mode)
  | vrsq (d : Dst) (a : Src) (x2 p : Bool) (m : Mode)
  | vsqrt (d : Dst) (a : Src) (x2 p : Bool) (m : Mode)
  | vexp2 (d : Dst) (a : Src) (x2 p : Bool) (m : Mode)
  | vlog2 (d : Dst) (a : Src) (x2 p : Bool) (m : Mode)
  | vrint (d : Dst) (a : Src) (x2 p : Bool) (m : Mode)
  | viadd (d : Dst) (a b : Src) (p sat : Bool)
  | visub (d : Dst) (a b : Src) (p sat : Bool)
  | vimul (d : Dst) (a b : Src) (p sat : Bool)
  | vimulh (d : Dst) (a b : Src) (p : Bool)
  | vand (d : Dst) (a b : Src) (p : Bool)
  | vor (d : Dst) (a b : Src) (p : Bool)
  | vxor (d : Dst) (a b : Src) (p : Bool)
  | vshl (d : Dst) (a b : Src) (p : Bool)
  | vshr (d : Dst) (a b : Src) (p : Bool)
  | vsra (d : Dst) (a b : Src) (p : Bool)
  | vimin (d : Dst) (a b : Src) (p : Bool)
  | vimax (d : Dst) (a b : Src) (p : Bool)
  | vclz (d : Dst) (a : Src) (p : Bool)
  | vpopc (d : Dst) (a : Src) (p : Bool)
  | vcmp (d : Dst) (a b : Src) (t : CmpType) (c : BitVec 2) (p : Bool)
  | vsel (d : Dst) (a b : Src)
  | vperm (d : Dst) (a b : Src) (p : Bool)
  | vbcast (d : Dst) (a b : Src) (p : Bool)
  | vred (d : Dst) (a : Src) (f : RedOp) (p : Bool) (m : Mode)
  | vscan (d : Dst) (a : Src) (f : RedOp) (p : Bool) (m : Mode)
  | vmov (d : Dst) (a : Src) (p : Bool)
  | vidx (d : Dst) (p : Bool)
  | vcvt (d : Dst) (a : Src) (src dst : Fmt) (p : Bool) (m : Mode)
  | vqnt (d : Dst) (a b : Src) (f : Fmt) (p : Bool) (m : Mode)
  | vdq (d : Dst) (a b : Src) (f : Fmt) (p : Bool) (m : Mode)
  | vpack (d : Dst) (a b : Src) (w : PackW) (p : Bool)
  | vunpk (d : Dst) (a b : Src) (signed : Bool) (w : PackW) (p : Bool)
  | vscale (d : Dst) (a b : Src) (p : Bool) (m : Mode)
  | mma (a b : BitVec 2) (bf af : Fmt) (bsc asc : Bool)
  | mout (d : BitVec 2) (rows base : BitVec 4) (f : Fmt) (m : Mode)
  | mldb (a b : BitVec 2) (f : LdbMode)
  | seq (d : BitVec 2) (a b c : Src) (first : Bool)
  | cnt (d : Dst) (a : Src) (p : Bool)
  | contend (d : Dst) (a b : Src) (c : BitVec 4) (retry : Bool) (x : BitVec 2)
  | crc64 (d : Dst) (a b : Src)
  | vtrn (d : Dst) (a : Src) (bytes p : Bool)
  | zpkD (d : Dst) (a : Src) (p : Bool)
  | zpkM (d : Dst) (a : Src) (p : Bool)
  | zup (d : Dst) (a b : Src) (p : Bool)
  | emit (d : BitVec 2) (a b : Src) (f : Fmt) (p : Bool)
  | rqst (d : Dst) (a : Src)

  /- Steps and events of the package: rows of the table without an encoding and without fields. What they act on is the state's input. -/
  | coldReset
  | selfTestDone
  | hostLinkRetrain
  | dhcpv6Reply
  | tftpImageReceived
  | bootAttemptTimeout
  | hubCoreReady
  | hubReadyTimeout
  | getVersion
  | getCapabilities
  | negotiateAlgorithms
  | getDigests
  | getCertificate
  | challenge
  | getMeasurements
  | warm
  | warmReset
  | warmResetDone
  | dieFirmwareRestart
  | firmwareRestartDone
  | fwdogExpiry
  | thermalThrottle
  | thermalUnthrottle
  | thermalTrip
  | registerWrite
  | submissionWrite
  | queueLoad
  | commandConsume
  | commandStart
  | launch
  | signal
  | waitCommand
  | waitTimeout
  | copyCommand
  | ckptCommand
  | restore
  | stop
  | qreset
  | qresetReport
  | completionRecord
  | poolEvaluation
  | preemptTrap
  | preemptQuiesced
  | startRelease
  | configRequestDone
  | regionComplete
  | controlCoreReport
  | frameStart
  | sprintResultLatch
  | swapInstant
  | swapDrainDone
  | swapInstall
  | routeUpdate
  | checkpointCut
  | checkpointPageCopy
  | checkpointCommit
  | atuTranslate
  | deferredLeafService
  | faultResume
  | faultAbandon
  | invalidationComplete
  | netRead
  | netWrite
  | netAmo
  | netCas
  | netCas16
  | readData
  | writeAck
  | errorResponse
  | streamToken
  | flipMarker
  | multicastRead
  | mergeWindowClose
  | multicastData
  | creditReturn
  | sysControl
  | pubDelivery
  | scTokenVisit
  | adderFire
  | podDataFlit
  | podControlFlit
  | podAckTimer
  | podLinkTimeout
  | pcieCompletion
  | pcieCompletionTimeout
  | ethFrameRx
  | directLandingSend
  | ethFrameTx
  | tmstep
  | tmrate
  | tmnowlo
  | eccstat
  | eccScrub
  | nodeFire
  | passFire
  | forkFire
  | steerTokenFire
  | steerLaneFire
  | mergeControlledFire
  | mergeFairFire
  | carryTrigger
  | carryBackEdge
  | invFire
  | mrd
  | mwr
  | macc
  | ringPush
  | ringPop
  | repeatRound
  | cacheBankAccess
  | eorMark
  | cfgMark
  | wswMark
  | modMark
  | flsMark
  | savMark
  | rstMark
  | swpMark
  | tscMark
  | fenMark
  | qscMark
  | brkMark
  | alignTimeout
  | streamStart
  | loadUnit
  | storeUnit
  | idxUnit
  | scatUnit
  | landingPop
  | streamRetire
  | copyUnit
  | gatherUnit
  | coreResume
  | coreAbandon
  | supplyLoss
  | tick
  deriving DecidableEq, Repr, Inhabited

end Sys2Proof
end

