-- ==== Sys2Proof/Machine/Arith.lean ====
section
/-! DEFINITION. Number formats and arithmetic: exact values, rounding, special values and conversions (R277 to R290). Every result is
computed exactly and rounded once. -/

namespace Sys2Proof.Machine

/-- The shape of a floating-point format: its precision, the exponent of its smallest subnormal, the code of its largest finite magnitude
and its width (R277). -/
structure FpShape where
  prec : Nat
  qmin : Int
  maxCode : Nat
  width : Nat
  deriving DecidableEq, Repr

/-- The shape of a format code; formats that are not floating-point have FP32's, and no operation asks for it (R277). -/
def fpShape : Fmt → FpShape
  | .f16 => ⟨11, -24, 0x7BFF, 16⟩
  | .bf16 => ⟨8, -133, 0x7F7F, 16⟩
  | .e4m3 => ⟨4, -9, 0x7E, 8⟩
  | .e5m2 => ⟨3, -16, 0x7B, 8⟩
  | .e2m1 => ⟨2, -1, 7, 4⟩
  | _ => ⟨24, -149, 0x7F7FFFFF, 32⟩

/-- The format code of R191. -/
def fmtCode : Fmt → Nat
  | .raw => 0 | .u32 => 1 | .i32 => 2 | .f32 => 3 | .bf16 => 4 | .f16 => 5
  | .e4m3 => 6 | .e5m2 => 7 | .e2m1 => 8 | .vq2 => 9 | .i8 => 10 | .e8m0 => 11

/-- The format of a code of R191, where one is assigned. -/
def fmtOf : Nat → Option Fmt
  | 0 => some .raw | 1 => some .u32 | 2 => some .i32 | 3 => some .f32 | 4 => some .bf16 | 5 => some .f16
  | 6 => some .e4m3 | 7 => some .e5m2 | 8 => some .e2m1 | 9 => some .vq2 | 10 => some .i8 | 11 => some .e8m0
  | _ => none

/-- Formats FCVT and VCVT take (R296, R375). -/
def fmtConvertible : Fmt → Bool
  | .raw | .vq2 | .e8m0 => false
  | _ => true

/-- The floating-point formats. -/
def fmtIsFloat : Fmt → Bool
  | .f32 | .f16 | .bf16 | .e4m3 | .e5m2 | .e2m1 => true
  | _ => false

/-- Bits an element takes in memory (R279); a VQ2 element is a codeword of 16 bits. -/
def fmtBits : Fmt → Nat
  | .raw => 8 | .u32 => 32 | .i32 => 32 | .f32 => 32 | .bf16 => 16 | .f16 => 16
  | .e4m3 => 8 | .e5m2 => 8 | .e2m1 => 4 | .vq2 => 16 | .i8 => 8 | .e8m0 => 8

/-- An exact value: not a number, an infinity, or ±n × 2^e. -/
inductive FV where
  | nan
  | inf (neg : Bool)
  | fin (neg : Bool) (n : Nat) (e : Int)
  deriving DecidableEq, Repr

/-- The canonical NaN of a format (R277); E2M1 has none and takes +0 (R284). -/
def canonNan : Fmt → Nat
  | .f32 => 0x7FC00000 | .f16 => 0x7E00 | .bf16 => 0x7FC0 | .e4m3 => 0x7F | .e5m2 => 0x7E | _ => 0

/-- The code of infinity in a format that has one (R277). -/
def infCode : Fmt → Nat
  | .f32 => 0x7F800000 | .f16 => 0x7C00 | .bf16 => 0x7F80 | .e5m2 => 0x7C | _ => 0

/-- Read a floating-point code (R277). -/
def fpVal (f : Fmt) (x : Nat) : FV :=
  let sh := fpShape f
  let c := x % 2 ^ (sh.width - 1)
  let neg := (x >>> (sh.width - 1)) % 2 == 1
  if sh.maxCode < c then
    if f != .e4m3 && f != .e2m1 && c == infCode f then .inf neg else .nan
  else
    let half := 2 ^ (sh.prec - 1)
    if c < half then .fin neg c sh.qmin else .fin neg (c % half + half) (sh.qmin + (c / half : Nat) - 1)

/-- Whether a magnitude of `m` units with remainder `rem` of `2 ^ sh` (and a further part below it when `sticky`) goes up (R282). -/
def roundsUp (mode : Rm) (neg : Bool) (m rem sh : Nat) (sticky : Bool) : Bool :=
  let part := rem != 0 || sticky
  let half := if sh = 0 then 0 else 2 ^ (sh - 1)
  match mode with
  | .rne => sh != 0 && (decide (half < rem) || (rem == half && (sticky || m % 2 == 1)))
  | .rtz => false
  | .rdn => neg && part
  | .rup => !neg && part
  | .rna => sh != 0 && decide (half ≤ rem)

/-- Step 1 of R282: the code of the magnitude n × 2^e (and a part below its last bit when `sticky`) rounded to the shape's precision,
unbounded above. The code counts units and exponents together, so a carry out of the fraction steps the exponent. -/
def roundMag (sh : FpShape) (mode : Rm) (neg : Bool) (n : Nat) (e : Int) (sticky : Bool) : Nat :=
  if n = 0 && !sticky then 0 else
  let top : Int := (Nat.log2 n : Int) + 1 + e
  let u : Int := max (top - sh.prec) sh.qmin
  let d : Int := u - e
  let steps : Nat := (u - sh.qmin).toNat * 2 ^ (sh.prec - 1)
  if d ≤ 0 then
    let m := n <<< (-d).toNat
    steps + m
  else
    let s := d.toNat
    let m := n >>> s
    let rem := n % 2 ^ s
    steps + m + (if roundsUp mode neg m rem s sticky then 1 else 0)

/-- The flags of a tile's or port's mode that overflow of a narrow format obeys (R245, R284). -/
structure OvFlags where
  e4nan : Bool
  e5inf : Bool
  deriving DecidableEq, Repr

/-- No flags: the control core's and the load value (R283, R323). -/
def ovNone : OvFlags := ⟨false, false⟩

/-- The magnitude code that overflow gives (R282 step 2, R284). -/
def overflowCode (f : Fmt) (fl : OvFlags) (mode : Rm) (neg : Bool) : Nat :=
  match f with
  | .e4m3 => if fl.e4nan then 0x7F else 0x7E
  | .e5m2 => if fl.e5inf then 0x7C else 0x7B
  | .e2m1 => 7
  | _ =>
    match mode with
    | .rne => infCode f
    | .rna => infCode f
    | .rtz => (fpShape f).maxCode
    | .rdn => if neg then infCode f else (fpShape f).maxCode
    | .rup => if neg then (fpShape f).maxCode else infCode f

/-- A magnitude code with its sign; the canonical NaN of E4M3 is unsigned (R284). -/
def withSign (f : Fmt) (neg : Bool) (c : Nat) : Nat :=
  if f = .e4m3 ∧ c = 0x7F then c else if neg then c + 2 ^ ((fpShape f).width - 1) else c

/-- Round(v, fmt, mode) of a value given as a truncated magnitude with a sticky part (R282, R284). -/
def roundSticky (f : Fmt) (fl : OvFlags) (mode : Rm) (neg : Bool) (n : Nat) (e : Int) (sticky : Bool) : Nat :=
  let c := roundMag (fpShape f) mode neg n e sticky
  if (fpShape f).maxCode < c then withSign f neg (overflowCode f fl mode neg) else withSign f neg c

/-- Round an exact value into a format, with its special values (R282, R284, R285). -/
def roundFV (f : Fmt) (fl : OvFlags) (mode : Rm) : FV → Nat
  | .nan => canonNan f
  | .inf neg =>
    match f with
    | .e4m3 => withSign f neg (overflowCode f fl mode neg)
    | .e5m2 => withSign f neg (overflowCode f fl mode neg)
    | .e2m1 => withSign f neg (overflowCode f fl mode neg)
    | _ => withSign f neg (infCode f)
  | .fin neg n e => roundSticky f fl mode neg n e false

/-- The sign of an exactly zero sum of terms of both signs: plus, but minus towards −∞ (R282). -/
def zeroSign (mode : Rm) : Bool := mode == .rdn

/-- The value n × 2^e as a multiple of 2^q, for q at or below e. -/
def atExp (n : Nat) (e q : Int) : Nat := n <<< (e - q).toNat

/-- a + b, with the signs of exact zeros (R282, R285). -/
def fvAdd (mode : Rm) : FV → FV → FV
  | .nan, _ => .nan
  | _, .nan => .nan
  | .inf s, .inf t => if s = t then .inf s else .nan
  | .inf s, .fin .. => .inf s
  | .fin .., .inf t => .inf t
  | .fin s n e, .fin t m k =>
    let q := min e k
    let a : Int := if s then -(atExp n e q : Int) else atExp n e q
    let b : Int := if t then -(atExp m k q : Int) else atExp m k q
    let z := a + b
    if z = 0 then (if s = t then .fin s 0 q else .fin (zeroSign mode) 0 q) else .fin (decide (z < 0)) z.natAbs q

/-- −a. -/
def fvNeg : FV → FV
  | .nan => .nan
  | .inf s => .inf (!s)
  | .fin s n e => .fin (!s) n e

/-- a × b, exact (R285). -/
def fvMul : FV → FV → FV
  | .nan, _ => .nan
  | _, .nan => .nan
  | .inf s, .inf t => .inf (s != t)
  | .inf s, .fin t n _ => if n = 0 then .nan else .inf (s != t)
  | .fin s n _, .inf t => if n = 0 then .nan else .inf (s != t)
  | .fin s n e, .fin t m k => .fin (s != t) (n * m) (e + k)

/-- a × 2^k, exact. -/
def fvScale (v : FV) (k : Int) : FV :=
  match v with
  | .fin s n e => .fin s n (e + k)
  | v => v

/-- Working bits kept below the point for quotients and roots: more than twice the widest precision and the subnormal range. -/
def workBits : Nat := 400

/-- Round(a ÷ b) (R285, R286). -/
def fpDiv (f : Fmt) (mode : Rm) (a b : FV) : Nat :=
  match a, b with
  | .nan, _ => canonNan f
  | _, .nan => canonNan f
  | .inf _, .inf _ => canonNan f
  | .inf s, .fin t _ _ => withSign f (s != t) (infCode f)
  | .fin s _ _, .inf t => withSign f (s != t) 0
  | .fin s n e, .fin t m k =>
    if m = 0 then (if n = 0 then canonNan f else withSign f (s != t) (infCode f))
    else if n = 0 then withSign f (s != t) 0
    else roundSticky f ovNone mode (s != t) ((n <<< workBits) / m) (e - k - workBits) (decide ((n <<< workBits) % m ≠ 0))

/-- The floor of the square root, one bit at a time from bit `k` down. -/
def isqrtFrom (n : Nat) : Nat → Nat → Nat
  | 0, r => if (r + 1) * (r + 1) ≤ n then r + 1 else r
  | k + 1, r =>
    let t := r + 2 ^ (k + 1)
    isqrtFrom n k (if t * t ≤ n then t else r)

/-- The floor of the square root. -/
def isqrt (n : Nat) : Nat := isqrtFrom n ((Nat.log2 n) / 2 + 1) 0

/-- Round(√a) (R286). -/
def fpSqrt (f : Fmt) (mode : Rm) (a : FV) : Nat :=
  match a with
  | .nan => canonNan f
  | .inf s => if s then canonNan f else infCode f
  | .fin s n e =>
    if n = 0 then withSign f s 0
    else if s then canonNan f
    else
      let odd : Nat := (e % 2).toNat
      let x := n <<< (workBits + odd)
      let r := isqrt x
      roundSticky f ovNone mode false r ((e - odd - workBits) / 2) (decide (r * r ≠ x))

/-- Round(1/√a) (R286). -/
def fpRsqrt (f : Fmt) (mode : Rm) (a : FV) : Nat :=
  match a with
  | .nan => canonNan f
  | .inf s => if s then canonNan f else 0
  | .fin s n e =>
    if n = 0 then withSign f s (infCode f)
    else if s then canonNan f
    else
      let odd : Nat := (e % 2).toNat
      let d := n <<< odd
      let x := 2 ^ (2 * workBits) / d
      let r := isqrt x
      roundSticky f ovNone mode false r (-((e - odd) / 2) - workBits) (decide (r * r * d ≠ 2 ^ (2 * workBits)))

/-- ln 2 × 2^512, rounded down. -/
def ln2Scaled : Nat :=
  9293584264128987901384440660653081117630633404975079641076009770578364573633075645167623918067512986930843040596952636663673675798576024949780480621393957

/-- Terms of the series of e^y for y = f ln 2, each rounded down at 2^-512: `t` the last term, `k` its index. -/
def expSeries (y : Nat) : Nat → Nat → Nat → Nat → Nat
  | 0, _, _, acc => acc
  | fuel + 1, k, t, acc =>
    let t' := (t * y) >>> 512
    let t'' := t' / (k + 1)
    expSeries y fuel (k + 1) t'' (acc + t'')

/-- 2^(j / 2^s) for j below 2^s, in units of 2^-320, rounded down. -/
def exp2Frac (j s : Nat) : Nat :=
  let y := (ln2Scaled * j) >>> s
  (expSeries y 110 0 (2 ^ 512) (2 ^ 512)) >>> 192

/-- Round(2^a) (R286). -/
def fpExp2 (f : Fmt) (mode : Rm) (a : FV) : Nat :=
  match a with
  | .nan => canonNan f
  | .inf s => if s then 0 else infCode f
  | .fin s n e =>
    let s2 : Nat := (-e).toNat
    let scaled : Int := if s then -((n <<< e.toNat : Nat) : Int) else ((n <<< e.toNat : Nat) : Int)
    let whole : Int := scaled / (2 ^ s2 : Nat)
    let frac : Nat := (scaled % (2 ^ s2 : Nat)).toNat
    if whole > 4096 then roundSticky f ovNone mode false 1 4096 false
    else if whole < -4096 then roundSticky f ovNone mode false 1 (-4096) true
    else if frac = 0 then roundSticky f ovNone mode false 1 whole false
    else roundSticky f ovNone mode false (exp2Frac frac s2) (whole - 320) true

/-- Fraction bits of log₂ y for y in [1, 2) at 2^-640: squaring gives a bit each time. -/
def log2Bits : Nat → Nat → Nat → Nat
  | 0, _, acc => acc
  | fuel + 1, y, acc =>
    let y2 := (y * y) >>> 640
    if 2 ^ 641 ≤ y2 then log2Bits fuel (y2 >>> 1) (2 * acc + 1) else log2Bits fuel y2 (2 * acc)

/-- Round(log₂ a) (R286). -/
def fpLog2 (f : Fmt) (mode : Rm) (a : FV) : Nat :=
  match a with
  | .nan => canonNan f
  | .inf s => if s then canonNan f else infCode f
  | .fin s n e =>
    if n = 0 then withSign f true (infCode f)
    else if s then canonNan f
    else
      let l := Nat.log2 n
      let whole : Int := (l : Int) + e
      if n = 2 ^ l then roundFV f ovNone mode (.fin (decide (whole < 0)) whole.natAbs 0)
      else
        let fr := log2Bits 256 (n <<< (640 - l)) 0
        if 0 ≤ whole then roundSticky f ovNone mode false ((whole.toNat <<< 256) + fr) (-256) true
        else
          let z := ((-whole).toNat <<< 256) - fr - 1
          roundSticky f ovNone mode true z (-256) true

/-- An exact value rounded to an integer in a mode (R284, R369). -/
def roundInt (mode : Rm) (neg : Bool) (n : Nat) (e : Int) : Int :=
  let m : Nat :=
    if 0 ≤ e then n <<< e.toNat
    else
      let s := (-e).toNat
      let q := n >>> s
      q + (if roundsUp mode neg q (n % 2 ^ s) s false then 1 else 0)
  if neg then -(m : Int) else (m : Int)

/-- Clamp to a range. -/
def clampInt (lo hi v : Int) : Int := if v < lo then lo else if hi < v then hi else v

/-- The range of an integer format (R278). -/
def intRange : Fmt → Int × Int
  | .u32 => (0, 4294967295)
  | .i8 => (-128, 127)
  | _ => (-2147483648, 2147483647)

/-- Conversion to an integer format: a NaN gives 0, infinities the ends of the range (R284). -/
def toIntFmt (f : Fmt) (mode : Rm) : FV → Int
  | .nan => 0
  | .inf neg => if neg then (intRange f).1 else (intRange f).2
  | .fin neg n e => clampInt (intRange f).1 (intRange f).2 (roundInt mode neg n e)

/-- A two's-complement number of width `w`. -/
def sInt (w x : Nat) : Int := if x % 2 ^ w < 2 ^ (w - 1) then (x % 2 ^ w : Nat) else (x % 2 ^ w : Nat) - (2 ^ w : Nat)

/-- The low `w` bits of an integer. -/
def ofInt (w : Nat) (v : Int) : Nat := (v % (2 ^ w : Nat)).toNat

/-- An integer as an exact value. -/
def fvInt (v : Int) : FV := .fin (decide (v < 0)) v.natAbs 0

/-- The exact value of an element in a convertible format (R323). -/
def elemVal (f : Fmt) (x : Nat) : FV :=
  match f with
  | .u32 => fvInt (x % 2 ^ 32 : Nat)
  | .i32 => fvInt (sInt 32 x)
  | .i8 => fvInt (sInt 8 x)
  | f => fpVal f (x % 2 ^ (fpShape f).width)

/-- An exact value in the bits of a destination format; integers come back as two's complement of width `w` (R323, R375). -/
def convTo (w : Nat) (dst : Fmt) (fl : OvFlags) (mode : Rm) (v : FV) : Nat :=
  match dst with
  | .u32 => ofInt w (toIntFmt dst mode v)
  | .i32 => ofInt w (toIntFmt dst mode v)
  | .i8 => ofInt w (toIntFmt dst mode v)
  | f => roundFV f fl mode v

/-- A conversion of an element in its low bits. A source and a destination of one format give the source unchanged, but for a NaN, which
becomes canonical (R323). -/
def convBits (w : Nat) (src dst : Fmt) (fl : OvFlags) (mode : Rm) (x : Nat) : Nat :=
  let v := elemVal src x
  if src = dst ∧ fmtIsFloat src ∧ v ≠ .nan then x % 2 ^ (fpShape src).width else convTo w dst fl mode v

/-- The order of two values: `none` where a NaN makes them unordered; −0 equals +0 (R285). -/
def fvCmp : FV → FV → Option Ordering
  | .nan, _ => none
  | _, .nan => none
  | a, b =>
    let key : FV → Int × Int := fun v =>
      match v with
      | .inf s => (if s then -1 else 1, 0)
      | .fin s n e => (0, (if s then -1 else 1) * (n * 2 ^ (e + 400).toNat : Nat))
      | .nan => (0, 0)
    let x := key a
    let y := key b
    some (if x.1 < y.1 then .lt else if y.1 < x.1 then .gt else compare x.2 y.2)

/-- Whether a value is negative, zeros by their sign. -/
def fvSign : FV → Bool
  | .nan => false
  | .inf s => s
  | .fin s _ _ => s

/-- MIN and MAX over codes of a format: the canonical NaN if either operand is NaN; −0 ranks below +0 (R285). -/
def fpMinMax (f : Fmt) (wantMax : Bool) (x y : Nat) : Nat :=
  let a := fpVal f x
  let b := fpVal f y
  match fvCmp a b with
  | none => canonNan f
  | some .lt => if wantMax then y else x
  | some .gt => if wantMax then x else y
  | some .eq => if fvSign a = wantMax then y else x

/-- a rounded to an integral value in the mode; an exact zero result keeps the sign of a (R369). -/
def fpRint (f : Fmt) (mode : Rm) (x : Nat) : Nat :=
  match fpVal f x with
  | .nan => canonNan f
  | .inf s => withSign f s (infCode f)
  | .fin s n e =>
    if n = 0 then withSign f s 0
    else roundFV f ovNone mode (.fin s (roundInt mode s n e).natAbs 0)

/-- The exact sum of a list of values: +0 of no terms; a zero sum is −0 where every term is −0 or the mode is RDN, else +0 (R282, R374). -/
def fvSum (mode : Rm) (vs : List FV) : FV := if vs.isEmpty then .fin false 0 0 else vs.foldr (fvAdd mode) (.fin true 0 0)

/-- The class bit of FCLASS (R322). -/
def fpClass (x : Nat) : Nat :=
  let neg := (x >>> 31) % 2 == 1
  let ex := (x >>> 23) % 256
  let fr := x % 2 ^ 23
  if ex = 255 then
    if fr = 0 then (if neg then 0 else 7) else if (x >>> 22) % 2 = 0 then 8 else 9
  else if ex = 0 then
    if fr = 0 then (if neg then 3 else 4) else if neg then 2 else 5
  else if neg then 1 else 6

/-- emax of a SCALEX target (R289). -/
def scalexEmax : Fmt → Int
  | .e4m3 => 8 | .e5m2 => 15 | _ => 2

/-- ScaleX(a, fmt) (R289). -/
def scaleXCode (x : Nat) (f : Fmt) : Nat :=
  let c : Nat := x % 2 ^ 31
  let ex : Nat := c / 2 ^ 23
  if ex = 255 then 0xFF
  else if c = 0 then 127
  else if ex = 0 then (clampInt 0 254 ((Nat.log2 c : Int) - 149 - scalexEmax f + 127)).toNat
  else (clampInt 0 254 ((ex : Int) - scalexEmax f)).toNat

/-- Signed saturation to 32 bits (R290). -/
def satInt32 (v : Int) : Int := clampInt (-2147483648) 2147483647 v

/-- Vectors of {0,1,2,3}^k with squared norm `n` (R280). -/
def vqCount : Nat → Nat → Nat
  | 0, n => if n = 0 then 1 else 0
  | k + 1, n =>
    vqCount k n + (if 1 ≤ n then vqCount k (n - 1) else 0) + (if 4 ≤ n then vqCount k (n - 4) else 0) +
      (if 9 ≤ n then vqCount k (n - 9) else 0)

/-- The r-th vector of {0,1,2,3}^k with squared norm `n`, in lexicographic order (R280). -/
def vqUnrank : Nat → Nat → Nat → List Nat
  | 0, _, _ => []
  | k + 1, n, r =>
    let c0 := vqCount k n
    let c1 := if 1 ≤ n then vqCount k (n - 1) else 0
    let c2 := if 4 ≤ n then vqCount k (n - 4) else 0
    if r < c0 then 0 :: vqUnrank k n r
    else if r < c0 + c1 then 1 :: vqUnrank k (n - 1) (r - c0)
    else if r < c0 + c1 + c2 then 2 :: vqUnrank k (n - 4) (r - c0 - c1)
    else 3 :: vqUnrank k (n - 9) (r - c0 - c1 - c2)

/-- Entry `c` of the codebook: vectors by squared norm and then lexicographically (R280). -/
def vqEntryFrom : Nat → Nat → Nat → List Nat
  | 0, n, c => vqUnrank 8 n c
  | fuel + 1, n, c => if c < vqCount 8 n then vqUnrank 8 n c else vqEntryFrom fuel (n + 1) (c - vqCount 8 n)

/-- The eight E2M1 codes of a VQ2 index (R280). A coordinate v stands for magnitude v × 0.5, whose E2M1 code is v for v up to 3. -/
def vq2Decode (x : Nat) : List Nat :=
  let v := vqEntryFrom 8 0 (x / 128 % 512)
  let sign : Nat → Bool := fun j =>
    if j = 7 then ((List.range 7).map (fun i => x / 2 ^ i % 2)).sum % 2 == 1 else x / 2 ^ j % 2 == 1
  (List.range 8).map (fun j => v.getD j 0 + (if sign j then 8 else 0))

/-- One byte into a reflected CRC register, bit by bit, for the reflected polynomial `poly`. -/
def crcBits (poly : Nat) : Nat → Nat → Nat
  | 0, c => c
  | k + 1, c => crcBits poly k (if c % 2 = 1 then Nat.xor (c / 2) poly else c / 2)

/-- CRC-64/XZ of bytes extending the CRC `crc` of what came before; the CRC of nothing is 0 (R157, R380). -/
def crc64xz (crc : BitVec 64) (bs : List Byte) : BitVec 64 :=
  let c := bs.foldl (fun c b => crcBits 0xC96C5795D7870F42 8 (Nat.xor c b.toNat)) (~~~crc).toNat
  ~~~(BitVec.ofNat 64 c)

/-- The IEEE 802.3 frame check sequence (R53). -/
def crc32 (bs : List Byte) : BitVec 32 :=
  let c := bs.foldl (fun c b => crcBits 0xEDB88320 8 (Nat.xor c b.toNat)) 0xFFFFFFFF
  ~~~(BitVec.ofNat 32 c)

/-- CRC-16 with polynomial 0x1021 from 0xFFFF over `k` bits of `x` from bit `k + 15` down (R47). -/
def crc16From (x : Nat) : Nat → Nat → Nat
  | 0, c => c
  | k + 1, c =>
    let bit := x / 2 ^ (k + 16) % 2
    let top := c / 2 ^ 15
    let c' := c * 2 % 2 ^ 16
    crc16From x k (if (top + bit) % 2 = 1 then Nat.xor c' 0x1021 else c')

/-- The CRC of a pod-link flit over its bits [255:16], most significant first (R47). -/
def flitCrc (flit : Frame) : Nat := crc16From flit.toNat 240 0xFFFF

end Sys2Proof.Machine
end

