-- ==== Sys2Proof/WellFormed.lean ====
section
/-! DEFINITION. Well-formed instructions: the checks of R302 and R305 that an operand's type does not already make. An event of the package
takes any operands. -/

namespace Sys2Proof

open Sys2Proof.Machine

/-- LD and ST: .fe takes size .d only (R184, R326). -/
def Ord.okSize (o : Ord) (z : Sz) : Bool := o != .fe || z == .d

/-- LDX and STX: .sc and .fe are for global space only (R326). -/
def Ord.okSpace (o : Ord) (sp : Sp) : Bool := (o != .fe && o != .sc) || sp == .g

/-- AMO, CAS and CAS16 take no .fe (R169, R298). -/
def Ord.okAtomic (o : Ord) : Bool := o != .fe

/-- Formats of an FCVT or VCVT (R296, R375). -/
def Fmt.convertible (f : Fmt) : Bool := fmtConvertible f

/-- Targets of a SCALEX (R296). -/
def Fmt.scalexTarget (f : Fmt) : Bool := f == .e4m3 || f == .e5m2 || f == .e2m1

/-- Destinations and sources of VQNT and VDQ (R376). -/
def Fmt.quantised (f : Fmt) : Bool := f == .e4m3 || f == .e5m2 || f == .e2m1 || f == .i8

/-- A destination that is an output (R378, R381). -/
def Dst.isOut : Dst → Bool
  | .o _ => true
  | _ => false

/-- A destination that is not the predicate (R382, R383). -/
def Dst.notP : Dst → Bool
  | .p => false
  | _ => true

/-- MMA format pairs (R388). -/
def mmaPair (af bf : Fmt) (asc bsc : Bool) : Bool :=
  let fp8 : Fmt → Bool := fun f => f == .e4m3 || f == .e5m2
  (fp8 af && (fp8 bf || bf == .e2m1)) || (af == .bf16 && bf == .bf16 && !asc && !bsc)

/-- MOUT formats (R392). -/
def moutFmt (f : Fmt) : Bool := f == .f32 || f == .bf16 || f == .f16 || f == .e4m3 || f == .e5m2

/-- Mode field of VRED and VSCAN: only fadd rounds (R374). -/
def redMode (f : RedOp) (m : Mode) : Bool := f == .fadd || m == .rm .rne

/-- MARK's kinds as the word can name them: EOR's words are `markEor`'s, and SWP and 0xC to 0xF are refused (R255). -/
def markKindOk (k : BitVec 4) : Bool := k != 0 && k != 7 && decide (k.toNat < 12)

/-- The checks of R302 step 1 and R305 on an instruction. -/
def Instr.wf : Instr → Bool
  | .ld _ _ o z _ => o.okSize z
  | .st _ _ o z _ => o.okSize z
  | .ldx _ _ o z sp _ => o.okSize z && o.okSpace sp
  | .stx _ _ o z sp _ => o.okSize z && o.okSpace sp
  | .amoAdd _ _ o _ _ => o.okAtomic
  | .amoAnd _ _ o _ _ => o.okAtomic
  | .amoOr _ _ o _ _ => o.okAtomic
  | .amoXor _ _ o _ _ => o.okAtomic
  | .amoMin _ _ o _ _ => o.okAtomic
  | .amoMax _ _ o _ _ => o.okAtomic
  | .amoMinu _ _ o _ _ => o.okAtomic
  | .amoMaxu _ _ o _ _ => o.okAtomic
  | .amoXchg _ _ o _ _ => o.okAtomic
  | .amoFadd _ _ o _ => o.okAtomic
  | .amoFabsmax _ _ o _ => o.okAtomic
  | .cas _ _ o _ _ _ => o.okAtomic
  | .cas16 d _ o n _ => o.okAtomic && d.toNat % 2 == 0 && n.toNat % 2 == 0
  | .fcvt _ _ src dst _ => src.convertible && dst.convertible
  | .scalex _ _ f _ => f.scalexTarget
  | .mark _ _ k _ => markKindOk k
  | .bar _ a _ m _ => m != 0 || a == 0
  | .sprint _ _ _ _ _ id => id != 0
  | .ckpt _ k => k != 3
  | .vred _ _ f _ m => redMode f m
  | .vscan _ _ f _ m => redMode f m
  | .vcvt _ _ src dst _ _ => src.convertible && dst.convertible
  | .vqnt _ _ _ f _ _ => f.quantised
  | .vdq _ _ _ f _ _ => f.quantised
  | .mma _ _ bf af bsc asc => mmaPair af bf asc bsc
  | .mout _ _ _ f _ => moutFmt f
  | .contend d _ _ _ _ _ => d.notP
  | .rqst d _ => d.notP
  | _ => true

end Sys2Proof
end

