-- ==== Sys2Proof/Decode.lean ====
section
/-! DEFINITION. Decoding of control-core words (R291 to R302) and of C-tile micro-ops (R305, R306), total on any number, and the encoder
written from the same tables. Where a word is no instruction the decoder answers nothing: a control core then takes ILLEGAL (R302), and a
tile refuses the frame (R305). -/

namespace Sys2Proof

open Sys2Proof.Machine

/-- Bits [hi:lo] of a word as a bit vector of width `n`. -/
def fieldBv (n w lo : Nat) : BitVec n := BitVec.ofNat n (w / 2 ^ lo)

/-! ## Fields -/

/-- The ord and scope fields of an access (R169, R302). -/
def decOrd (w : Nat) : Option Ord :=
  match w / 2 ^ 14 % 4, w / 2 ^ 11 % 8 with
  | 0, 0 => some .plain
  | 1, _ => some (.sync (fieldBv 3 w 11))
  | 2, 0 => some .sc
  | 3, 0 => some .fe
  | _, _ => none

/-- The ord and scope bits in their places. -/
def encOrd : Ord → Nat
  | .plain => 0
  | .sync s => 2 ^ 14 + s.toNat * 2 ^ 11
  | .sc => 2 * 2 ^ 14
  | .fe => 3 * 2 ^ 14

/-- SIZE of a memory form (R297). -/
def decSz : Nat → Sz
  | 0 => .b | 1 => .h | 2 => .w | _ => .d

def encSz : Sz → Nat
  | .b => 0 | .h => 1 | .w => 2 | .d => 3

/-- SP of LDX and STX (R297). -/
def decSp : Nat → Option Sp
  | 0 => some .g | 1 => some .v | 2 => some .t | _ => none

def encSp : Sp → Nat
  | .g => 0 | .v => 1 | .t => 2

/-- A rounding-mode code (R282). -/
def decRm : Nat → Option Rm
  | 0 => some .rne | 1 => some .rtz | 2 => some .rdn | 3 => some .rup | 4 => some .rna | _ => none

def encRm : Rm → Nat
  | .rne => 0 | .rtz => 1 | .rdn => 2 | .rup => 3 | .rna => 4

/-- mod [2:0] of a micro-op that rounds (R305). -/
def decMode : Nat → Option Mode
  | 0 => some (.rm .rne) | 1 => some (.rm .rtz) | 2 => some (.rm .rdn) | 3 => some (.rm .rup) | 4 => some (.rm .rna)
  | 5 => some .tile | _ => none

def encMode : Mode → Nat
  | .rm m => encRm m
  | .tile => 5

/-- A source code of a micro-op (R305). -/
def decSrc (c : Nat) : Src :=
  if c < 8 then .v (BitVec.ofNat 3 c) else if c < 12 then .i (BitVec.ofNat 2 (c - 8)) else .k (BitVec.ofNat 2 (c - 12))

def encSrc : Src → Nat
  | .v n => n.toNat
  | .i n => 8 + n.toNat
  | .k n => 12 + n.toNat

/-- A destination code of a micro-op (R305). -/
def decDst (c : Nat) : Option Dst :=
  if c < 8 then some (.v (BitVec.ofNat 3 c)) else if c < 12 then some (.o (BitVec.ofNat 2 (c - 8)))
  else if c = 12 then some .p else none

def encDst : Dst → Nat
  | .v n => n.toNat
  | .o n => 8 + n.toNat
  | .p => 12

/-- FCMP's condition (R322). -/
def decFCond : Nat → Option FCond
  | 0 => some .eq | 1 => some .lt | 2 => some .le | 3 => some .un | _ => none

def encFCond : FCond → Nat
  | .eq => 0 | .lt => 1 | .le => 2 | .un => 3

/-- VCMP's type (R372). -/
def decCmpType : Nat → Option CmpType
  | 0 => some .f32 | 1 => some .i32 | 2 => some .u32 | _ => none

def encCmpType : CmpType → Nat
  | .f32 => 0 | .i32 => 1 | .u32 => 2

/-- VRED's and VSCAN's operation (R374). -/
def decRedOp : Nat → Option RedOp
  | 0 => some .fadd | 1 => some .fmax | 2 => some .fmin | 3 => some .iadd | 4 => some .imax | 5 => some .imin
  | 6 => some .and | 7 => some .or | 8 => some .xor | 9 => some .umax | _ => none

def encRedOp : RedOp → Nat
  | .fadd => 0 | .fmax => 1 | .fmin => 2 | .iadd => 3 | .imax => 4 | .imin => 5 | .and => 6 | .or => 7 | .xor => 8 | .umax => 9

/-- VPACK's and VUNPK's element width (R377). -/
def decPackW : Nat → Option PackW
  | 0 => some .w16 | 1 => some .w8 | 2 => some .w4 | _ => none

def encPackW : PackW → Nat
  | .w16 => 0 | .w8 => 1 | .w4 => 2

/-- MLDB's mode (R391). -/
def decLdb : Nat → Option LdbMode
  | 0 => some .line | 4 => some .bf16 | 6 => some .e4m3 | 7 => some .e5m2 | 8 => some .e2m1 | _ => none

def encLdb : LdbMode → Nat
  | .line => 0 | .bf16 => 4 | .e4m3 => 6 | .e5m2 => 7 | .e2m1 => 8

/-- An input i0 to i3 as a source code (R388, R391). -/
def decIn (c : Nat) : Option (BitVec 2) := if 8 ≤ c ∧ c < 12 then some (BitVec.ofNat 2 (c - 8)) else none

/-- `some x` where a check holds. -/
def guardSome {α : Type} (b : Bool) (x : α) : Option α := if b then some x else none

def encBool (b : Bool) : Nat := if b then 1 else 0

/-- A flag bit of a word. -/
def bitOf (w n : Nat) : Bool := w / 2 ^ n % 2 == 1

/-! ## Control-core words -/

/-- Fields D, A and B of the R format, and A and D of the others (R291). -/
def rD (w : Nat) : Reg := fieldBv 5 w 21
def rA (w : Nat) : Reg := fieldBv 5 w 16
def rB (w : Nat) : Reg := fieldBv 5 w 11

/-- The ALU group (R294). -/
def decAlu (w : Nat) : Option Instr :=
  let d := rD w
  let a := rA w
  let b := rB w
  if w / 2 ^ 7 % 16 ≠ 0 then none
  else if w % 32 = 25 then some (.lea d a b (fieldBv 2 w 5))
  else if w / 2 ^ 5 % 4 ≠ 0 then none
  else
    match w % 32 with
    | 0 => some (.add d a b)
    | 1 => some (.sub d a b)
    | 2 => some (.and d a b)
    | 3 => some (.or d a b)
    | 4 => some (.xor d a b)
    | 5 => some (.shl d a b)
    | 6 => some (.shr d a b)
    | 7 => some (.sra d a b)
    | 8 => some (.slt d a b)
    | 9 => some (.sltu d a b)
    | 10 => some (.min d a b)
    | 11 => some (.max d a b)
    | 12 => some (.minu d a b)
    | 13 => some (.maxu d a b)
    | 14 => some (.mul d a b)
    | 15 => some (.mulh d a b)
    | 16 => some (.mulhu d a b)
    | 17 => some (.div d a b)
    | 18 => some (.divu d a b)
    | 19 => some (.rem d a b)
    | 20 => some (.remu d a b)
    | 21 => guardSome (b == 0) (.clz d a)
    | 22 => guardSome (b == 0) (.ctz d a)
    | 23 => guardSome (b == 0) (.popc d a)
    | 24 => guardSome (b == 0) (.bswap d a)
    | _ => none

/-- SHLI, SHRI and SRAI (R295). -/
def decShift (w : Nat) : Option Instr :=
  let n : BitVec 6 := fieldBv 6 w 0
  match w / 2 ^ 6 % 1024 with
  | 0 => some (.shli (rD w) (rA w) n)
  | 1 => some (.shri (rD w) (rA w) n)
  | 2 => some (.srai (rD w) (rA w) n)
  | _ => none

/-- LIZ and LIK (R295): fn [20:18] is zero. -/
def decLi (w : Nat) (keep : Bool) : Option Instr :=
  if w / 2 ^ 18 % 8 ≠ 0 then none
  else if keep then some (.lik (rD w) (fieldBv 2 w 16) (fieldBv 16 w 0))
  else some (.liz (rD w) (fieldBv 2 w 16) (fieldBv 16 w 0))

/-- The FPU group (R296). -/
def decFpu (w : Nat) : Option Instr :=
  let d := rD w
  let a := rA w
  let b := rB w
  let f1 := w / 2 ^ 7 % 16
  match decRm (w / 2 ^ 4 % 8) with
  | none => none
  | some m =>
    match w % 16 with
    | 0 => guardSome (f1 == 0) (.fadd d a b m)
    | 1 => guardSome (f1 == 0) (.fsub d a b m)
    | 2 => guardSome (f1 == 0) (.fmul d a b m)
    | 3 => guardSome (f1 == 0) (.fdiv d a b m)
    | 4 => guardSome (f1 == 0 && b == 0) (.fsqrt d a m)
    | 5 => guardSome (f1 == 0) (.fmin d a b m)
    | 6 => guardSome (f1 == 0) (.fmax d a b m)
    | 7 => (decFCond f1).map (fun c => .fcmp d a b c m)
    | 8 =>
      if w / 2 ^ 15 % 2 ≠ 0 then none
      else
        match fmtOf (w / 2 ^ 11 % 16), fmtOf f1 with
        | some src, some dst => some (.fcvt d a src dst m)
        | _, _ => none
    | 9 => guardSome (f1 == 0 && b == 0) (.fclass d a m)
    | 10 => if b = 0 then (fmtOf f1).map (fun f => .scalex d a f m) else none
    | _ => none

/-- LD and ST (R297). -/
def decLd (w : Nat) (store : Bool) : Option Instr :=
  (decOrd w).map (fun o =>
    if store then .st (rD w) (rA w) o (decSz (w / 2 ^ 9 % 4)) (fieldBv 9 w 0)
    else .ld (rD w) (rA w) o (decSz (w / 2 ^ 9 % 4)) (fieldBv 9 w 0))

/-- LDX and STX (R297). -/
def decLdx (w : Nat) (store : Bool) : Option Instr :=
  match decOrd w, decSp (w / 2 ^ 7 % 4) with
  | some o, some sp =>
    some (if store then .stx (rD w) (rA w) o (decSz (w / 2 ^ 9 % 4)) sp (fieldBv 7 w 0)
      else .ldx (rD w) (rA w) o (decSz (w / 2 ^ 9 % 4)) sp (fieldBv 7 w 0))
  | _, _ => none

/-- AMO (R298). -/
def decAmo (w : Nat) : Option Instr :=
  match decOrd w with
  | none => none
  | some o =>
    let d := rD w
    let a := rA w
    let z := bitOf w 6
    let off : BitVec 6 := fieldBv 6 w 0
    match w / 2 ^ 7 % 16 with
    | 0 => some (.amoAdd d a o z off)
    | 1 => some (.amoAnd d a o z off)
    | 2 => some (.amoOr d a o z off)
    | 3 => some (.amoXor d a o z off)
    | 4 => some (.amoMin d a o z off)
    | 5 => some (.amoMax d a o z off)
    | 6 => some (.amoMinu d a o z off)
    | 7 => some (.amoMaxu d a o z off)
    | 8 => some (.amoXchg d a o z off)
    | 9 => guardSome (!z) (.amoFadd d a o off)
    | 10 => guardSome (!z) (.amoFabsmax d a o off)
    | _ => none

/-- CAS and CAS16 (R298). -/
def decCas (w : Nat) (wide : Bool) : Option Instr :=
  match decOrd w with
  | none => none
  | some o =>
    if wide then guardSome (!bitOf w 5) (.cas16 (rD w) (rA w) o (fieldBv 5 w 6) (fieldBv 5 w 0))
    else some (.cas (rD w) (rA w) o (fieldBv 5 w 6) (bitOf w 5) (fieldBv 5 w 0))

/-- FENCE (R298). -/
def decFence (w : Nat) : Option Instr :=
  let s : Scope := fieldBv 3 w 11
  if w % 2 ^ 11 ≠ 0 ∨ w / 2 ^ 16 % 1024 ≠ 0 then none
  else
    match w / 2 ^ 14 % 4 with
    | 0 => some (.fenceAcq s)
    | 1 => some (.fenceRel s)
    | 2 => some (.fenceAr s)
    | _ => some (.fenceFull s)

/-- MARK (R255, R300). -/
def decMark (w : Nat) : Option Instr :=
  if w / 2 ^ 12 % 16 = 0 then guardSome (w / 2 ^ 3 % 512 == 0) (.markEor (rD w) (rA w) (fieldBv 3 w 0))
  else some (.mark (rD w) (rA w) (fieldBv 4 w 12) (fieldBv 12 w 0))

/-- SPRINT (R87). -/
def decSprint (w : Nat) : Option Instr :=
  if bitOf w 11 then guardSome (w / 2 ^ 16 % 32 == 0 && w / 2 ^ 8 % 8 == 0) (.sprintLsn (rD w) (fieldBv 4 w 12) (fieldBv 8 w 0))
  else some (.sprint (rD w) (rA w) (fieldBv 4 w 12) (bitOf w 10) (fieldBv 2 w 8) (fieldBv 8 w 0))

/-- Opcodes 0x20 to 0x2C (R300). -/
def decEngine (w : Nat) : Option Instr :=
  let d := rD w
  let a := rA w
  let n : BitVec 4 := fieldBv 4 w 12
  let low := w % 2 ^ 12
  match w / 2 ^ 26 % 64 with
  | 0x20 => guardSome (d == 0 && low == 0) (.stream a n)
  | 0x21 => guardSome (d == 0 && n == 0 && low == 0) (.gather a)
  | 0x22 =>
    if n = 0 then guardSome (d == 0 && low == 0) (.copyMem a)
    else if n = 1 then guardSome (d == 0 && low == 0) (.copyMc a) else none
  | 0x23 => guardSome (w / 2 ^ 24 % 4 == 0) (.wait (fieldBv 6 w 18) (fieldBv 6 w 12) (fieldBv 6 w 6) (fieldBv 6 w 0))
  | 0x24 => decMark w
  | 0x25 => guardSome (w / 2 ^ 5 % 128 == 0) (.bar d a n (fieldBv 2 w 3) (fieldBv 3 w 0))
  | 0x26 => guardSome (a == 0 && n == 0 && w / 2 ^ 3 % 512 == 0) (.cfgreq d (fieldBv 3 w 0))
  | 0x27 => decSprint w
  | 0x28 => guardSome (w / 2 ^ 4 % 256 == 0) (.send d a n (fieldBv 4 w 0))
  | 0x29 => guardSome (d == 0 && a == 0 && w / 2 ^ 5 % 128 == 0) (.cmask n (bitOf w 4) (fieldBv 4 w 0))
  | 0x2A => guardSome (a == 0 && n == 0 && low == 0) (.tstamp d)
  | 0x2B => guardSome (d == 0 && n == 0 && w / 2 ^ 2 % 1024 == 0) (.ckpt a (fieldBv 2 w 0))
  | 0x2C => if n = 0 ∧ w / 2 ^ 1 % 2048 = 0 then some (if bitOf w 0 then .tinvAll d a else .tinv d a) else none
  | _ => none

/-- Opcodes 0x30 to 0x37 (R301). -/
def decSystem (w : Nat) : Option Instr :=
  let d := rD w
  let a := rA w
  let imm : BitVec 16 := fieldBv 16 w 0
  match w / 2 ^ 26 % 64 with
  | 0x30 => guardSome (d == 0 && a == 0) (.sysc imm)
  | 0x31 => guardSome (d == 0) (.trap a imm)
  | 0x32 => guardSome (d == 0 && a == 0 && imm == 0) .rte
  | 0x33 => guardSome (a == 0 && w / 2 ^ 12 % 16 == 0) (.mfs d (fieldBv 12 w 0))
  | 0x34 => guardSome (a == 0 && w / 2 ^ 12 % 16 == 0) (.mts d (fieldBv 12 w 0))
  | 0x35 => guardSome (a == 0) (.wfe d imm)
  | 0x36 => guardSome (d == 0 && a == 0 && imm == 0) .halt
  | 0x37 => guardSome (d == 0 && a == 0) (.bkpt imm)
  | _ => none

/-- A control-core word by its major opcode (R293), before the checks of `Instr.wf`. -/
def decodeRaw (w : Nat) : Option Instr :=
  let d := rD w
  let a := rA w
  let imm : BitVec 16 := fieldBv 16 w 0
  match w / 2 ^ 26 % 64 with
  | 0x01 => decAlu w
  | 0x02 => some (.addi d a imm)
  | 0x03 => some (.andi d a imm)
  | 0x04 => some (.ori d a imm)
  | 0x05 => some (.xori d a imm)
  | 0x06 => some (.slti d a imm)
  | 0x07 => some (.sltiu d a imm)
  | 0x08 => decShift w
  | 0x09 => decLi w false
  | 0x0A => decLi w true
  | 0x0B => decFpu w
  | 0x10 => decLd w false
  | 0x11 => decLd w true
  | 0x12 => decLdx w false
  | 0x13 => decLdx w true
  | 0x14 => decAmo w
  | 0x15 => decCas w false
  | 0x16 => decCas w true
  | 0x17 => decFence w
  | 0x18 => some (.beq d a imm)
  | 0x19 => some (.bne d a imm)
  | 0x1A => some (.blt d a imm)
  | 0x1B => some (.bge d a imm)
  | 0x1C => some (.bltu d a imm)
  | 0x1D => some (.bgeu d a imm)
  | 0x1E => some (.jal d (fieldBv 21 w 0))
  | 0x1F => some (.jalr d a imm)
  | 0x20 => decEngine w
  | 0x21 => decEngine w
  | 0x22 => decEngine w
  | 0x23 => decEngine w
  | 0x24 => decEngine w
  | 0x25 => decEngine w
  | 0x26 => decEngine w
  | 0x27 => decEngine w
  | 0x28 => decEngine w
  | 0x29 => decEngine w
  | 0x2A => decEngine w
  | 0x2B => decEngine w
  | 0x2C => decEngine w
  | _ => decSystem w

/-- A control-core word: an instruction, or nothing where R302 step 1 refuses it. -/
def decode (w : Nat) : Option Instr := (decodeRaw w).filter Instr.wf

/-! ## Micro-op words -/

/-- Fields of a micro-op word (R305). -/
def mDst (w : Nat) : Nat := w / 2 ^ 20 % 16
def mA (w : Nat) : Nat := w / 2 ^ 16 % 16
def mB (w : Nat) : Nat := w / 2 ^ 12 % 16
def mC (w : Nat) : Nat := w / 2 ^ 8 % 16
def mFmt (w : Nat) : Nat := w / 2 ^ 4 % 16

/-- The floating-point group (R369, R370). -/
def decVfp (w : Nat) (d : Dst) : Option Instr :=
  let a := decSrc (mA w)
  let b := decSrc (mB w)
  let c := decSrc (mC w)
  let x := mFmt w == 1
  let p := bitOf w 3
  if 1 < mFmt w then none
  else
    match decMode (w % 8) with
    | none => none
    | some m =>
      match w / 2 ^ 24 % 256 with
      | 0x1 => guardSome (mC w == 0) (.vadd d a b x p m)
      | 0x2 => guardSome (mC w == 0) (.vsub d a b x p m)
      | 0x3 => guardSome (mC w == 0) (.vmul d a b x p m)
      | 0x4 => some (.vfma d a b c x p m)
      | 0x5 => guardSome (mC w == 0) (.vmin d a b x p m)
      | 0x6 => guardSome (mC w == 0) (.vmax d a b x p m)
      | 0x7 => guardSome (mB w == 0 && mC w == 0) (.vabs d a x p m)
      | 0x8 => guardSome (mB w == 0 && mC w == 0) (.vneg d a x p m)
      | 0x9 => guardSome (mB w == 0 && mC w == 0) (.vrcp d a x p m)
      | 0xa => guardSome (mB w == 0 && mC w == 0) (.vrsq d a x p m)
      | 0xb => guardSome (mB w == 0 && mC w == 0) (.vsqrt d a x p m)
      | 0xc => guardSome (mB w == 0 && mC w == 0) (.vexp2 d a x p m)
      | 0xd => guardSome (mB w == 0 && mC w == 0) (.vlog2 d a x p m)
      | 0xe => guardSome (mB w == 0 && mC w == 0) (.vrint d a x p m)
      | _ => none

/-- The integer group (R371). -/
def decVint (w : Nat) (d : Dst) : Option Instr :=
  let a := decSrc (mA w)
  let b := decSrc (mB w)
  let p := bitOf w 3
  let sat := bitOf w 0
  if mC w ≠ 0 ∨ mFmt w ≠ 0 ∨ w / 2 ^ 1 % 4 ≠ 0 then none
  else
    match w / 2 ^ 24 % 256 with
    | 0x20 => some (.viadd d a b p sat)
    | 0x21 => some (.visub d a b p sat)
    | 0x22 => some (.vimul d a b p sat)
    | 0x23 => guardSome (!sat) (.vimulh d a b p)
    | 0x24 => guardSome (!sat) (.vand d a b p)
    | 0x25 => guardSome (!sat) (.vor d a b p)
    | 0x26 => guardSome (!sat) (.vxor d a b p)
    | 0x27 => guardSome (!sat) (.vshl d a b p)
    | 0x28 => guardSome (!sat) (.vshr d a b p)
    | 0x29 => guardSome (!sat) (.vsra d a b p)
    | 0x2a => guardSome (!sat) (.vimin d a b p)
    | 0x2b => guardSome (!sat) (.vimax d a b p)
    | 0x2c => guardSome (!sat && mB w == 0) (.vclz d a p)
    | 0x2d => guardSome (!sat && mB w == 0) (.vpopc d a p)
    | _ => none

/-- Compare, select, move and reduce (R372 to R374). -/
def decVmove (w : Nat) (d : Dst) : Option Instr :=
  let a := decSrc (mA w)
  let b := decSrc (mB w)
  let p := bitOf w 3
  if mC w ≠ 0 then none
  else
    match w / 2 ^ 24 % 256 with
    | 0x40 =>
      if w % 8 = 0 then (decCmpType (w / 2 ^ 6 % 4)).map (fun t => .vcmp d a b t (fieldBv 2 w 4) p) else none
    | 0x41 => guardSome (mFmt w == 0 && w % 16 == 0) (.vsel d a b)
    | 0x42 => guardSome (mFmt w == 0 && w % 8 == 0) (.vperm d a b p)
    | 0x43 => guardSome (mFmt w == 0 && w % 8 == 0) (.vbcast d a b p)
    | 0x44 =>
      if mB w = 0 then
        match decRedOp (mFmt w), decMode (w % 8) with
        | some f, some m => some (.vred d a f p m)
        | _, _ => none
      else none
    | 0x45 =>
      if mB w = 0 then
        match decRedOp (mFmt w), decMode (w % 8) with
        | some f, some m => some (.vscan d a f p m)
        | _, _ => none
      else none
    | 0x46 => guardSome (mB w == 0 && mFmt w == 0 && w % 8 == 0) (.vmov d a p)
    | 0x47 => guardSome (mA w == 0 && mB w == 0 && mFmt w == 0 && w % 8 == 0) (.vidx d p)
    | _ => none

/-- Conversion, quantisation and packing (R375 to R377). -/
def decVconv (w : Nat) (d : Dst) : Option Instr :=
  let a := decSrc (mA w)
  let b := decSrc (mB w)
  let p := bitOf w 3
  match w / 2 ^ 24 % 256 with
  | 0x50 =>
    if mB w = 0 then
      match fmtOf (mC w), fmtOf (mFmt w), decMode (w % 8) with
      | some src, some dst, some m => some (.vcvt d a src dst p m)
      | _, _, _ => none
    else none
  | 0x51 =>
    if mC w = 0 then
      match fmtOf (mFmt w), decMode (w % 8) with
      | some f, some m => some (.vqnt d a b f p m)
      | _, _ => none
    else none
  | 0x52 =>
    if mC w = 0 then
      match fmtOf (mFmt w), decMode (w % 8) with
      | some f, some m => some (.vdq d a b f p m)
      | _, _ => none
    else none
  | 0x53 =>
    if mC w = 0 ∧ w % 8 = 0 ∧ w / 2 ^ 6 % 4 = 0 then (decPackW (w / 2 ^ 4 % 4)).map (fun k => .vpack d a b k p) else none
  | 0x54 =>
    if mC w = 0 ∧ w % 8 = 0 ∧ w / 2 ^ 7 % 2 = 0 then (decPackW (w / 2 ^ 4 % 4)).map (fun k => .vunpk d a b (bitOf w 6) k p) else none
  | 0x55 => if mC w = 0 ∧ mFmt w = 0 then (decMode (w % 8)).map (fun m => .vscale d a b p m) else none
  | _ => none

/-- Matrix micro-ops (R388, R391, R392). -/
def decVmat (w : Nat) : Option Instr :=
  match w / 2 ^ 24 % 256 with
  | 0x60 =>
    if mDst w = 0 ∧ w / 2 ^ 2 % 4 = 0 then
      match decIn (mA w), decIn (mB w), fmtOf (mC w), fmtOf (mFmt w) with
      | some a, some b, some bf, some af => some (.mma a b bf af (bitOf w 1) (bitOf w 0))
      | _, _, _, _ => none
    else none
  | 0x61 =>
    if mC w = 0 ∧ w / 2 ^ 3 % 2 = 0 then
      match decIn (mDst w), fmtOf (mFmt w), decMode (w % 8) with
      | some d, some f, some m => some (.mout d (fieldBv 4 w 16) (fieldBv 4 w 12) f m)
      | _, _, _ => none
    else none
  | 0x62 =>
    if mDst w = 0 ∧ mC w = 0 ∧ w % 16 = 0 then
      match decIn (mA w), decIn (mB w), decLdb (mFmt w) with
      | some a, some b, some f => some (.mldb a b f)
      | _, _, _ => none
    else none
  | _ => none

/-- Stream, pattern, plane and request micro-ops (R378 to R383). -/
def decVstream (w : Nat) (d : Dst) : Option Instr :=
  let a := decSrc (mA w)
  let b := decSrc (mB w)
  let c := decSrc (mC w)
  let p := bitOf w 3
  match w / 2 ^ 24 % 256 with
  | 0x70 =>
    if w % 16 = 0 then
      match decIn (mDst w), mFmt w with
      | some o, 0 => some (.seq o a b c false)
      | some o, 1 => some (.seq o a b c true)
      | _, _ => none
    else none
  | 0x71 => guardSome (mB w == 0 && mC w == 0 && mFmt w == 0 && w % 8 == 0) (.cnt d a p)
  | 0x72 => guardSome (mC w == 0 && !p) (.contend d a b (fieldBv 4 w 4) (bitOf w 2) (fieldBv 2 w 0))
  | 0x73 => guardSome (mC w == 0 && mFmt w == 0 && w % 16 == 0) (.crc64 d a b)
  | 0x74 =>
    if mB w = 0 ∧ mC w = 0 ∧ w % 8 = 0 then
      match mFmt w with
      | 0 => some (.vtrn d a false p)
      | 1 => some (.vtrn d a true p)
      | _ => none
    else none
  | 0x75 =>
    if mB w = 0 ∧ mC w = 0 ∧ w % 8 = 0 then
      match mFmt w with
      | 0 => some (.zpkD d a p)
      | 1 => some (.zpkM d a p)
      | _ => none
    else none
  | 0x76 => guardSome (mC w == 0 && mFmt w == 0 && w % 8 == 0) (.zup d a b p)
  | 0x77 =>
    if mC w = 0 ∧ w % 8 = 0 then
      match decIn (mDst w), fmtOf (mFmt w) with
      | some o, some f => some (.emit o a b f p)
      | _, _ => none
    else none
  | 0x78 => guardSome (mB w == 0 && mC w == 0 && mFmt w == 0 && w % 16 == 0) (.rqst d a)
  | _ => none

/-- A micro-op word before the checks of `Instr.wf` (R306). -/
def decodeMicroRaw (w : Nat) : Option Instr :=
  match w / 2 ^ 28 % 16 with
  | 6 => decVmat w
  | g =>
    match decDst (mDst w) with
    | none => none
    | some d =>
      match g with
      | 0 => decVfp w d
      | 2 => decVint w d
      | 4 => decVmove w d
      | 5 => decVconv w d
      | 7 => decVstream w d
      | _ => none

/-- A micro-op word, or nothing where R305 makes its frame CFG_BAD. -/
def decodeMicro (w : Nat) : Option Instr := (decodeMicroRaw w).filter Instr.wf

/-! ## The encoder -/

/-- The R format (R291); the I and M formats are its first fields with their own low parts. -/
def encR (op : Nat) (d a b : Reg) (fn : Nat) : Nat := op * 2 ^ 26 + d.toNat * 2 ^ 21 + a.toNat * 2 ^ 16 + b.toNat * 2 ^ 11 + fn
def encI (op : Nat) (d a : Reg) (low : Nat) : Nat := op * 2 ^ 26 + d.toNat * 2 ^ 21 + a.toNat * 2 ^ 16 + low
def encC (op : Nat) (d a : Reg) (n : BitVec 4) (low : Nat) : Nat :=
  op * 2 ^ 26 + d.toNat * 2 ^ 21 + a.toNat * 2 ^ 16 + n.toNat * 2 ^ 12 + low
def encX (op : Nat) (d : Reg) (fn : Nat) (imm : BitVec 16) : Nat := op * 2 ^ 26 + d.toNat * 2 ^ 21 + fn * 2 ^ 16 + imm.toNat

/-- A micro-op word from its field values (R305). -/
def encU (op dst a b c f m : Nat) : Nat :=
  op * 2 ^ 24 + dst * 2 ^ 20 + a * 2 ^ 16 + b * 2 ^ 12 + c * 2 ^ 8 + f * 2 ^ 4 + m

/-- An AMO word (R298). -/
def encAmo (aop : Nat) (d base : Reg) (o : Ord) (z : Bool) (off : BitVec 6) : Nat :=
  encI 0x14 d base (encOrd o + aop * 2 ^ 7 + encBool z * 2 ^ 6 + off.toNat)

/-- An FPU word (R296). -/
def encF (fn : Nat) (d a b : Reg) (f1 : Nat) (m : Rm) : Nat := encR 0x0B d a b (f1 * 2 ^ 7 + encRm m * 2 ^ 4 + fn)

/-- A floating-point micro-op (R369). -/
def encVf (op : Nat) (d : Dst) (a b c : Nat) (x p : Bool) (m : Mode) : Nat :=
  encU op (encDst d) a b c (encBool x) (encBool p * 8 + encMode m)

/-- An integer micro-op (R371). -/
def encVi (op : Nat) (d : Dst) (a b : Nat) (p sat : Bool) : Nat := encU op (encDst d) a b 0 0 (encBool p * 8 + encBool sat)

/-- The word of a control-core instruction or micro-op, as the spec's tables encode it; a step or event of the package has none. -/
def encode : Instr → Option Nat
  | .add d a b => some (encR 0x01 d a b 0)
  | .sub d a b => some (encR 0x01 d a b 1)
  | .and d a b => some (encR 0x01 d a b 2)
  | .or d a b => some (encR 0x01 d a b 3)
  | .xor d a b => some (encR 0x01 d a b 4)
  | .shl d a b => some (encR 0x01 d a b 5)
  | .shr d a b => some (encR 0x01 d a b 6)
  | .sra d a b => some (encR 0x01 d a b 7)
  | .slt d a b => some (encR 0x01 d a b 8)
  | .sltu d a b => some (encR 0x01 d a b 9)
  | .min d a b => some (encR 0x01 d a b 10)
  | .max d a b => some (encR 0x01 d a b 11)
  | .minu d a b => some (encR 0x01 d a b 12)
  | .maxu d a b => some (encR 0x01 d a b 13)
  | .mul d a b => some (encR 0x01 d a b 14)
  | .mulh d a b => some (encR 0x01 d a b 15)
  | .mulhu d a b => some (encR 0x01 d a b 16)
  | .div d a b => some (encR 0x01 d a b 17)
  | .divu d a b => some (encR 0x01 d a b 18)
  | .rem d a b => some (encR 0x01 d a b 19)
  | .remu d a b => some (encR 0x01 d a b 20)
  | .clz d a => some (encR 0x01 d a 0 21)
  | .ctz d a => some (encR 0x01 d a 0 22)
  | .popc d a => some (encR 0x01 d a 0 23)
  | .bswap d a => some (encR 0x01 d a 0 24)
  | .lea d a b k => some (encR 0x01 d a b (k.toNat * 2 ^ 5 + 25))
  | .addi d a i => some (encI 0x2 d a i.toNat)
  | .andi d a i => some (encI 0x3 d a i.toNat)
  | .ori d a i => some (encI 0x4 d a i.toNat)
  | .xori d a i => some (encI 0x5 d a i.toNat)
  | .slti d a i => some (encI 0x6 d a i.toNat)
  | .sltiu d a i => some (encI 0x7 d a i.toNat)
  | .jalr d a i => some (encI 0x1f d a i.toNat)
  | .shli d a n => some (encI 0x08 d a (0 * 2 ^ 6 + n.toNat))
  | .shri d a n => some (encI 0x08 d a (1 * 2 ^ 6 + n.toNat))
  | .srai d a n => some (encI 0x08 d a (2 * 2 ^ 6 + n.toNat))
  | .liz d p i => some (encX 0x09 d p.toNat i)
  | .lik d p i => some (encX 0x0A d p.toNat i)
  | .fadd d a b m => some (encF 0 d a b 0 m)
  | .fsub d a b m => some (encF 1 d a b 0 m)
  | .fmul d a b m => some (encF 2 d a b 0 m)
  | .fdiv d a b m => some (encF 3 d a b 0 m)
  | .fmin d a b m => some (encF 5 d a b 0 m)
  | .fmax d a b m => some (encF 6 d a b 0 m)
  | .fsqrt d a m => some (encF 4 d a 0 0 m)
  | .fcmp d a b c m => some (encF 7 d a b (encFCond c) m)
  | .fcvt d a src dst m => some (encF 8 d a (BitVec.ofNat 5 (fmtCode src)) (fmtCode dst) m)
  | .fclass d a m => some (encF 9 d a 0 0 m)
  | .scalex d a f m => some (encF 10 d a 0 (fmtCode f) m)
  | .ld d base o z off => some (encI 0x10 d base (encOrd o + encSz z * 2 ^ 9 + off.toNat))
  | .st d base o z off => some (encI 0x11 d base (encOrd o + encSz z * 2 ^ 9 + off.toNat))
  | .ldx d base o z sp off => some (encI 0x12 d base (encOrd o + encSz z * 2 ^ 9 + encSp sp * 2 ^ 7 + off.toNat))
  | .stx d base o z sp off => some (encI 0x13 d base (encOrd o + encSz z * 2 ^ 9 + encSp sp * 2 ^ 7 + off.toNat))
  | .amoAdd d base o z off => some (encAmo 0 d base o z off)
  | .amoAnd d base o z off => some (encAmo 1 d base o z off)
  | .amoOr d base o z off => some (encAmo 2 d base o z off)
  | .amoXor d base o z off => some (encAmo 3 d base o z off)
  | .amoMin d base o z off => some (encAmo 4 d base o z off)
  | .amoMax d base o z off => some (encAmo 5 d base o z off)
  | .amoMinu d base o z off => some (encAmo 6 d base o z off)
  | .amoMaxu d base o z off => some (encAmo 7 d base o z off)
  | .amoXchg d base o z off => some (encAmo 8 d base o z off)
  | .amoFadd d base o off => some (encAmo 9 d base o false off)
  | .amoFabsmax d base o off => some (encAmo 10 d base o false off)
  | .cas d base o n z off => some (encI 0x15 d base (encOrd o + n.toNat * 2 ^ 6 + encBool z * 2 ^ 5 + off.toNat))
  | .cas16 d base o n off => some (encI 0x16 d base (encOrd o + n.toNat * 2 ^ 6 + off.toNat))
  | .fenceAcq s => some (0x17 * 2 ^ 26 + s.toNat * 2 ^ 11)
  | .fenceRel s => some (0x17 * 2 ^ 26 + 1 * 2 ^ 14 + s.toNat * 2 ^ 11)
  | .fenceAr s => some (0x17 * 2 ^ 26 + 2 * 2 ^ 14 + s.toNat * 2 ^ 11)
  | .fenceFull s => some (0x17 * 2 ^ 26 + 3 * 2 ^ 14 + s.toNat * 2 ^ 11)
  | .beq a b off => some (encI 0x18 a b off.toNat)
  | .bne a b off => some (encI 0x19 a b off.toNat)
  | .blt a b off => some (encI 0x1a a b off.toNat)
  | .bge a b off => some (encI 0x1b a b off.toNat)
  | .bltu a b off => some (encI 0x1c a b off.toNat)
  | .bgeu a b off => some (encI 0x1d a b off.toNat)
  | .jal d off => some (0x1E * 2 ^ 26 + d.toNat * 2 ^ 21 + off.toNat)
  | .stream a n => some (encC 0x20 0 a n 0)
  | .gather a => some (encC 0x21 0 a 0 0)
  | .copyMem a => some (encC 0x22 0 a 0 0)
  | .copyMc a => some (encC 0x22 0 a 1 0)
  | .wait l s c t => some (0x23 * 2 ^ 26 + l.toNat * 2 ^ 18 + s.toNat * 2 ^ 12 + c.toNat * 2 ^ 6 + t.toNat)
  | .mark s a k i => some (encC 0x24 s a k i.toNat)
  | .markEor s a l => some (encC 0x24 s a 0 l.toNat)
  | .bar c a n m l => some (encC 0x25 c a n (m.toNat * 2 ^ 3 + l.toNat))
  | .cfgreq d r => some (encC 0x26 d 0 0 r.toNat)
  | .sprint d a c retry x id => some (encC 0x27 d a c (encBool retry * 2 ^ 10 + x.toNat * 2 ^ 8 + id.toNat))
  | .sprintLsn d c id => some (encC 0x27 d 0 c (2 ^ 11 + id.toNat))
  | .send s a n c => some (encC 0x28 s a n c.toNat)
  | .cmask n on c => some (encC 0x29 0 0 n (encBool on * 2 ^ 4 + c.toNat))
  | .tstamp d => some (encC 0x2A d 0 0 0)
  | .ckpt a k => some (encC 0x2B 0 a 0 k.toNat)
  | .tinv s a => some (encC 0x2C s a 0 0)
  | .tinvAll s a => some (encC 0x2C s a 0 1)
  | .sysc i => some (encX 0x30 0 0 i)
  | .trap a i => some (encI 0x31 0 a i.toNat)
  | .rte => some (encX 0x32 0 0 0)
  | .mfs d r => some (encI 0x33 d 0 r.toNat)
  | .mts s r => some (encI 0x34 s 0 r.toNat)
  | .wfe d m => some (encX 0x35 d 0 m)
  | .halt => some (encX 0x36 0 0 0)
  | .bkpt i => some (encX 0x37 0 0 i)
  | .vadd d a b x p m => some (encVf 0x1 d (encSrc a) (encSrc b) 0 x p m)
  | .vsub d a b x p m => some (encVf 0x2 d (encSrc a) (encSrc b) 0 x p m)
  | .vmul d a b x p m => some (encVf 0x3 d (encSrc a) (encSrc b) 0 x p m)
  | .vfma d a b c x p m => some (encVf 0x4 d (encSrc a) (encSrc b) (encSrc c) x p m)
  | .vmin d a b x p m => some (encVf 0x5 d (encSrc a) (encSrc b) 0 x p m)
  | .vmax d a b x p m => some (encVf 0x6 d (encSrc a) (encSrc b) 0 x p m)
  | .vabs d a x p m => some (encVf 0x7 d (encSrc a) 0 0 x p m)
  | .vneg d a x p m => some (encVf 0x8 d (encSrc a) 0 0 x p m)
  | .vrcp d a x p m => some (encVf 0x9 d (encSrc a) 0 0 x p m)
  | .vrsq d a x p m => some (encVf 0xa d (encSrc a) 0 0 x p m)
  | .vsqrt d a x p m => some (encVf 0xb d (encSrc a) 0 0 x p m)
  | .vexp2 d a x p m => some (encVf 0xc d (encSrc a) 0 0 x p m)
  | .vlog2 d a x p m => some (encVf 0xd d (encSrc a) 0 0 x p m)
  | .vrint d a x p m => some (encVf 0xe d (encSrc a) 0 0 x p m)
  | .viadd d a b p sat => some (encVi 0x20 d (encSrc a) (encSrc b) p sat)
  | .visub d a b p sat => some (encVi 0x21 d (encSrc a) (encSrc b) p sat)
  | .vimul d a b p sat => some (encVi 0x22 d (encSrc a) (encSrc b) p sat)
  | .vimulh d a b p => some (encVi 0x23 d (encSrc a) (encSrc b) p false)
  | .vand d a b p => some (encVi 0x24 d (encSrc a) (encSrc b) p false)
  | .vor d a b p => some (encVi 0x25 d (encSrc a) (encSrc b) p false)
  | .vxor d a b p => some (encVi 0x26 d (encSrc a) (encSrc b) p false)
  | .vshl d a b p => some (encVi 0x27 d (encSrc a) (encSrc b) p false)
  | .vshr d a b p => some (encVi 0x28 d (encSrc a) (encSrc b) p false)
  | .vsra d a b p => some (encVi 0x29 d (encSrc a) (encSrc b) p false)
  | .vimin d a b p => some (encVi 0x2a d (encSrc a) (encSrc b) p false)
  | .vimax d a b p => some (encVi 0x2b d (encSrc a) (encSrc b) p false)
  | .vclz d a p => some (encVi 0x2c d (encSrc a) 0 p false)
  | .vpopc d a p => some (encVi 0x2d d (encSrc a) 0 p false)
  | .vcmp d a b t c p => some (encU 0x40 (encDst d) (encSrc a) (encSrc b) 0 (encCmpType t * 4 + c.toNat) (encBool p * 8))
  | .vsel d a b => some (encU 0x41 (encDst d) (encSrc a) (encSrc b) 0 0 0)
  | .vperm d a b p => some (encU 0x42 (encDst d) (encSrc a) (encSrc b) 0 0 (encBool p * 8))
  | .vbcast d a b p => some (encU 0x43 (encDst d) (encSrc a) (encSrc b) 0 0 (encBool p * 8))
  | .vred d a f p m => some (encU 0x44 (encDst d) (encSrc a) 0 0 (encRedOp f) (encBool p * 8 + encMode m))
  | .vscan d a f p m => some (encU 0x45 (encDst d) (encSrc a) 0 0 (encRedOp f) (encBool p * 8 + encMode m))
  | .vmov d a p => some (encU 0x46 (encDst d) (encSrc a) 0 0 0 (encBool p * 8))
  | .vidx d p => some (encU 0x47 (encDst d) 0 0 0 0 (encBool p * 8))
  | .vcvt d a src dst p m => some (encU 0x50 (encDst d) (encSrc a) 0 (fmtCode src) (fmtCode dst) (encBool p * 8 + encMode m))
  | .vqnt d a b f p m => some (encU 0x51 (encDst d) (encSrc a) (encSrc b) 0 (fmtCode f) (encBool p * 8 + encMode m))
  | .vdq d a b f p m => some (encU 0x52 (encDst d) (encSrc a) (encSrc b) 0 (fmtCode f) (encBool p * 8 + encMode m))
  | .vpack d a b w p => some (encU 0x53 (encDst d) (encSrc a) (encSrc b) 0 (encPackW w) (encBool p * 8))
  | .vunpk d a b sg w p => some (encU 0x54 (encDst d) (encSrc a) (encSrc b) 0 (encBool sg * 4 + encPackW w) (encBool p * 8))
  | .vscale d a b p m => some (encU 0x55 (encDst d) (encSrc a) (encSrc b) 0 0 (encBool p * 8 + encMode m))
  | .mma a b bf af bsc asc =>
    some (encU 0x60 0 (8 + a.toNat) (8 + b.toNat) (fmtCode bf) (fmtCode af) (encBool bsc * 2 + encBool asc))
  | .mout d rows base f m => some (encU 0x61 (8 + d.toNat) rows.toNat base.toNat 0 (fmtCode f) (encMode m))
  | .mldb a b f => some (encU 0x62 0 (8 + a.toNat) (8 + b.toNat) 0 (encLdb f) 0)
  | .seq d a b c first => some (encU 0x70 (8 + d.toNat) (encSrc a) (encSrc b) (encSrc c) (encBool first) 0)
  | .cnt d a p => some (encU 0x71 (encDst d) (encSrc a) 0 0 0 (encBool p * 8))
  | .contend d a b c retry x => some (encU 0x72 (encDst d) (encSrc a) (encSrc b) 0 c.toNat (encBool retry * 4 + x.toNat))
  | .crc64 d a b => some (encU 0x73 (encDst d) (encSrc a) (encSrc b) 0 0 0)
  | .vtrn d a bytes p => some (encU 0x74 (encDst d) (encSrc a) 0 0 (encBool bytes) (encBool p * 8))
  | .zpkD d a p => some (encU 0x75 (encDst d) (encSrc a) 0 0 0 (encBool p * 8))
  | .zpkM d a p => some (encU 0x75 (encDst d) (encSrc a) 0 0 1 (encBool p * 8))
  | .zup d a b p => some (encU 0x76 (encDst d) (encSrc a) (encSrc b) 0 0 (encBool p * 8))
  | .emit d a b f p => some (encU 0x77 (8 + d.toNat) (encSrc a) (encSrc b) 0 (fmtCode f) (encBool p * 8))
  | .rqst d a => some (encU 0x78 (encDst d) (encSrc a) 0 0 0 0)
  | _ => none

/-- Whether an instruction is a C-tile micro-op (R306). -/
def Instr.isMicro : Instr → Bool
  | .vadd _ _ _ _ _ _ | .vsub _ _ _ _ _ _ | .vmul _ _ _ _ _ _ | .vfma _ _ _ _ _ _ _ | .vmin _ _ _ _ _ _
  | .vmax _ _ _ _ _ _ | .vabs _ _ _ _ _ | .vneg _ _ _ _ _ | .vrcp _ _ _ _ _ | .vrsq _ _ _ _ _ | .vsqrt _ _ _ _ _
  | .vexp2 _ _ _ _ _ | .vlog2 _ _ _ _ _ | .vrint _ _ _ _ _ | .viadd _ _ _ _ _ | .visub _ _ _ _ _ | .vimul _ _ _ _ _
  | .vimulh _ _ _ _ | .vand _ _ _ _ | .vor _ _ _ _ | .vxor _ _ _ _ | .vshl _ _ _ _ | .vshr _ _ _ _ | .vsra _ _ _ _
  | .vimin _ _ _ _ | .vimax _ _ _ _ | .vclz _ _ _ | .vpopc _ _ _ | .vcmp _ _ _ _ _ _ | .vsel _ _ _ | .vperm _ _ _ _
  | .vbcast _ _ _ _ | .vred _ _ _ _ _ | .vscan _ _ _ _ _ | .vmov _ _ _ | .vidx _ _ | .vcvt _ _ _ _ _ _
  | .vqnt _ _ _ _ _ _ | .vdq _ _ _ _ _ _ | .vpack _ _ _ _ _ | .vunpk _ _ _ _ _ _ | .vscale _ _ _ _ _ | .mma _ _ _ _ _ _
  | .mout _ _ _ _ _ | .mldb _ _ _ | .seq _ _ _ _ _ | .cnt _ _ _ | .contend _ _ _ _ _ _ | .crc64 _ _ _ | .vtrn _ _ _ _
  | .zpkD _ _ _ | .zpkM _ _ _ | .zup _ _ _ _ | .emit _ _ _ _ _ | .rqst _ _ => true
  | _ => false

/-- The bytes of a word, as a control core's code memory and a micro-op frame hold them: low byte first (R291, R310). -/
def wordBytes (w : Nat) : List Byte := leBytes 4 w

/-- The instruction the host's word stands for: its bytes laid out low byte first and read back as the 32-bit word. A word that names a
control-core instruction is read as one, and otherwise as a micro-op (assumption 9). -/
def decodeTableWord (nbits w : Nat) : Option Instr :=
  let x := leNat (wordBytes (w % 2 ^ nbits))
  match decode x with
  | some i => some i
  | none => decodeMicro x

end Sys2Proof
end

