-- ==== Sys2Proof/Machine/State.lean ====
section
/-! DEFINITION. The machine's state: every piece of state the spec gives the package, as plain data, with the state after reset, the
reasons a step can stop and the turns of the agenda. -/

namespace Sys2Proof.Machine

/-- Reasons a step stops with a fault. -/
inductive Fault where
  /-- Raised by `step` for a fabric turn whose slot holds a word that is no micro-op. A configuration with such a word is refused with
  CFG_BAD when it is checked (R306), so no node enters a firing on one. Safe: no next state is answered. -/
  | noMicroOp
  deriving DecidableEq, Repr

/-- Reasons a step is refused. -/
inductive Refusal where
  /-- Raised by `exec` for an instruction without a meaning yet; every instruction has one. Safe: nothing can be proved of it. -/
  | notModelled (mnemonic : String)
  deriving DecidableEq, Repr

/-- What moves next: a control core fetches and runs one instruction, a C-tile node runs its next micro-op, or a step or event of the
package comes about. The order between agents is not given by the spec (R164). -/
inductive Turn where
  | core (c : CoreId)
  | node (n : NodeRef)
  | event (i : Instr) (x : Input)
  deriving DecidableEq, Repr, Inhabited

/-- A token or mark: its payload and its tag (R244, R245). -/
structure Token where
  payload : Line
  tag : BitVec 16
  deriving DecidableEq, Repr, Inhabited

/-- An entry of an elastic buffer: its first token, the quarters it takes, and the payloads of the further tokens of its run, which differ from one
another in invalid groups at most (R275, R276). -/
structure Queued where
  tok : Token
  q : Nat
  more : List Line
  deriving DecidableEq, Repr, Inhabited

/-- Tokens of a run. -/
def Queued.run (e : Queued) : Nat := e.more.length + 1

/-- A place in the memory of the system (R30, R36, R38, R165); `dt` is the discovery table's page (R22). -/
inductive Loc where
  | hbm (p : Nat)
  | host (a : Nat)
  | remote (pkg : BitVec 6) (p : Nat)
  | vault (v : Nat) (off : Nat)
  | tile (core : Nat) (site : Nat) (off : Nat)
  | dt (off : Nat)
  deriving DecidableEq, Repr, Inhabited

/-- What a memory request asks of its home (R214 KIND 0 to 4, R182 to R184). -/
inductive ReqOp where
  | read
  | write
  | amo (op : BitVec 4)
  | cas
  | cas16
  deriving DecidableEq, Repr, Inhabited

/-- Where the answer of a request goes: a register of a control core (two for CAS16), a store's count, a stream unit's slot, a write count
of a port or engine, a line of a multicast that no slice homes, or what its requester takes up itself: a descriptor, a source of an engine, an
access of a command. A port's write carries 64 × its unit + the round of its token. -/
inductive Dest where
  | reg (d : Reg) (z : Sz)
  | pair (d : Reg)
  | store
  | slot (port : BitVec 4) (unit : Nat) (pos : Nat)
  | portWrite (port : BitVec 4) (unit : Nat)
  | engine (copy : Bool) (slot : BitVec 6) (unit : Nat)
  | multi (op idx : Nat)
  | fetch
  | none
  deriving DecidableEq, Repr, Inhabited

/-- A memory access from its fault point until it performs and is answered (R317, R327). The ordering fields are the model's reading of
R170 (assumption 22, DEDUCED): `after` lists the accesses that must be answered before this one may perform. `pc` names the instruction of
a control core's access (R317); `err` is the cause an error response brought a command's access. `part` are the granules still to perform once the
home has begun on an access of several (R165, R181), by their places; `told` says that the deliveries of a store to a PUB page have left (R176,
R196). -/
structure Access where
  id : Nat
  agent : Agent
  op : ReqOp
  loc : Loc
  ea : Word
  size : Nat
  data : List Byte
  expect : List Byte
  fe : Bool
  sc : Bool
  fePage : Bool
  pub : Bool
  cp : BitVec 2
  acquire : Option Scope
  dest : Dest
  after : List Nat
  done : Bool
  pc : Word
  asn : BitVec 16
  err : BitVec 8
  part : List Nat := []
  told : Bool := false
  deriving DecidableEq, Repr, Inhabited

/-- A packet of the die network (R214). `src` and `dst` are nodes: package, die and node number together. `access` names the access a
request or a response belongs to. -/
structure Packet where
  id : Nat
  cls : BitVec 2
  rclass : BitVec 4
  kind : BitVec 4
  src : Nat
  sport : BitVec 4
  dst : Nat
  dport : BitVec 4
  tag : BitVec 16
  addr : BitVec 64
  dset : BitVec 16
  lines : BitVec 8
  op : BitVec 8
  asn : BitVec 16
  access : Nat
  payload : List Byte
  badHeader : Bool
  deriving DecidableEq, Repr, Inhabited

/-- A fault record of a port block or of an engine operation (R202). -/
structure FaultRec where
  valid : Bool
  cause : BitVec 8
  sp : BitVec 2
  acc : BitVec 2
  round : BitVec 6
  unit : Word
  va : Word
  deriving DecidableEq, Repr, Inhabited

/-- A stream in a port's queue (R236, R314): its parameter block as read, its number at the port, the BAR that gates it, the next unit to
issue and the next to hand on, and the accesses of its core that come before it (R180). -/
structure StreamSt where
  spb : BitVec 512
  num : Nat
  gate : Option Nat
  op : Nat
  unit : Nat
  handed : Nat
  started : Bool
  done : Bool
  before : List Nat
  deriving DecidableEq, Repr, Inhabited

/-- An entry of a port's stream order: a stream, or a mark that a MARK, a STOP or the arbiter placed, `sent` once its copies are on their way
(R343). -/
inductive PortItem where
  | stream (s : StreamSt)
  | mark (m : Token) (op : Nat) (sent : Bool)
  deriving DecidableEq, Repr, Inhabited

/-- A load unit on its way: its address, the lines it has asked for, the bytes its answers bring, and the EOR that leaves behind it (R216). -/
structure SlotSt where
  unit : Nat
  lines : Nat
  va : Word
  pend : List Nat
  bytes : List Byte
  page : BitVec 8
  eor : Option (BitVec 3)
  deriving DecidableEq, Repr, Inhabited

/-- A run of state tokens being passed behind a mark: tokens left to pass from each input, then the node's own (R250, R257). -/
structure RunSt where
  ins : List (Nat × Nat)
  own : List Token
  deriving DecidableEq, Repr, Inhabited

/-- A pending BAR (R344). -/
structure BarSt where
  op : Nat
  port : BitVec 4
  level : BitVec 3
  gated : Option (BitVec 512)
  window : Nat
  hit : Bool
  deriving DecidableEq, Repr, Inhabited

/-- How a control core stands: held before its start release, running, stopped on a trap (R354), halted (R361), ended by SYSC 0 (R356). -/
inductive RunMode where
  | off
  | running
  | stopped
  | halted
  | ended
  deriving DecidableEq, Repr, Inhabited

/-- What a control core waits for beyond its registers: a plane result (R87), a configuration request (R346), an invalidation report
(R352). -/
inductive Waiting where
  | none
  | sprint (d : Reg) (chan : BitVec 4) (target : Word)
  | cfgreq (d : Reg) (region : BitVec 3)
  | tinv (k : Nat)
  deriving DecidableEq, Repr, Inhabited

/-- The registers of a control core (R238, R242, R303, R304). -/
structure CtlRegs where
  s : Vector Word 32
  pc : Word
  firmware : Bool
  inTrap : Bool
  trapCause : BitVec 8
  trapPc : Word
  trapVal : Word
  ptpSec : BitVec 48
  spTarget : Word
  spGrant : BitVec 16
  swapCnt : Word
  evPend : BitVec 6
  fwDog : BitVec 32
  deriving DecidableEq, Repr, Inhabited

/-- A control core: its registers, how it stands, its outstanding operations and its pending BARs (R238 to R242). The 64 KiB code and data
memories lie in the one memory. `tops` are its tile operations with the parts left of each; `cops` its COPY and GATHER operations; the
three lists of waits are what its fences hold back, with the scope of an acquire fence whose bank action is still due (R331). -/
structure Ctl where
  r : CtlRegs
  run : RunMode
  wait : Waiting
  tops : List (Nat × Nat)
  cops : List Nat
  bars : List BarSt
  relWait : List Nat
  acqWait : List Nat
  acqScope : Option Scope
  fullWait : List Nat
  withdrawn : List (Nat × Word × Reg)
  late : Option (BitVec 8 × Word)
  lateOp : Word
  dogEnd : Nat
  preempt : Bool
  deriving DecidableEq, Repr, Inhabited

/-- A port block (R236). `held` are the packets that wait at masked classes or at a swap (R221, R148); `eors` counts the EORs of each level or above
that the port has emitted (R247); `bars` sees `winEor`, the highest qualifying EOR since the window of the last issued stream opened (R344);
`runLeft` counts, by input, the tokens of a state run that are still to come, and `idxRun` holds those that a SCAT's index input has brought (R259);
`saved` are state tokens that QSC has brought (R130); `ixq` are the started streams that take indices from the port's i3 (R404); `cutAt` is the level
and the count of EORs behind which the port stops for a checkpoint cut (R152); `sunk` counts the EORs of the step level that have aligned here at a
sink; `startAt` is the unit at which its first stream starts after a RESTORE (R163); `outLines` are the response slots of the unit whose token the
fabric has not taken yet (R216). -/
structure Port where
  items : List PortItem
  issued : Nat
  startedNo : Nat
  isStore : Bool
  winEor : Option (BitVec 3)
  eors : List Nat
  round : Nat
  mode : BitVec 5
  slots : List SlotSt
  outq : List (Nat × Token)
  writes : List Nat
  fault : FaultRec
  mask : BitVec 16
  held : List Packet
  credits : List Nat
  idxLanes : List (BitVec 32)
  runLeft : List Nat
  saving : Bool
  stopped : Bool
  frame : List Token
  blocked : Option Nat
  reported : Bool
  saved : List Token
  ixq : List Nat
  cutAt : Option (Nat × Nat)
  sunk : Nat
  startAt : Nat
  outLines : Nat
  late : List FaultRec := []
  idxRun : List Token := []
  deriving DecidableEq, Repr, Inhabited

/-- A C-tile node between and during firings (R234, R363, R366, R367). `slot` is the next micro-op of a firing in progress; `release` the mark that
a release firing serves; `seen` the tokens at the heads of its inputs as it started, by input (R363); `result` a plane or request result word that
has come for a held micro-op; `mode` the tile's mode when the firing started; `sunk` the EORs of the step level that have aligned here at a sink
(R152). -/
structure NodeSt where
  firing : Bool
  slot : Nat
  release : Option Token
  step : Nat
  fcnt : BitVec 32
  lastRound : BitVec 6
  seen : List (Nat × Token)
  armed : Bool
  result : Option Word
  mode : BitVec 5
  run : RunSt
  blocked : Option Nat
  cause : BitVec 8
  reported : Bool
  sunk : Nat
  deriving DecidableEq, Repr, Inhabited

/-- The matrix unit (R386): chains, parities and buffers as sparse lines, an absent line being zero. -/
structure Matrix where
  ev : Tab Line
  od : Tab Line
  q : BitVec 64
  active : Tab Line
  standby : Tab Line
  deriving DecidableEq, Repr, Inhabited

/-- A C tile (R232, R364): registers with masks and formats, outputs, predicate, mode and the mode its configuration set (R257, R283). -/
structure CTile where
  v : List (Line × BitVec 4 × BitVec 4)
  o : List (Option Token)
  p : BitVec 32
  mode : BitVec 5
  cfgMode : BitVec 5
  node0 : NodeSt
  node1 : NodeSt
  mx : Matrix
  deriving DecidableEq, Repr, Inhabited

/-- A compaction token of a lane-mode STEER (R264). -/
structure Compact where
  lanes : List Lane
  fmt : BitVec 4
  round : BitVec 6
  deriving DecidableEq, Repr, Inhabited

/-- A switch operator (R253, R254, R264, R265). -/
structure OpSt where
  isOpen : Bool
  last : Option Token
  pend : List Token
  held : Option Token
  wait : Option Token
  kept : Compact
  rejected : Compact
  served : Nat
  run : RunSt
  run2 : RunSt
  blocked : Option Nat
  cause : BitVec 8
  deriving DecidableEq, Repr, Inhabited

/-- A ring of a token FIFO (R272). -/
structure Ring where
  head : Nat
  toks : List Token
  run : RunSt
  deriving DecidableEq, Repr, Inhabited

/-- An M tile's role state (R266, R267, R272, R273); its 128 KiB lie in the one memory. `acc` counts the elements of the ACC pair at the heads
that are done (R269). -/
structure MTile where
  w : Nat
  served : Nat
  acc : Nat
  rings : List Ring
  buf : List Token
  count : Option Nat
  again : Nat
  pos : Nat
  run : RunSt
  blocked : Option Nat
  cause : BitVec 8
  deriving DecidableEq, Repr, Inhabited

/-- A site of a core: its loaded frames in order, none before its CFG mark has passed (R127, R308); frames being loaded with the count its
mark gave and the input they come on, none for the configuration path; what the hub core's fabric still streams to it on that path (R126); an RST
mark's units that have come (R259); and its parts. -/
structure Site where
  frames : List Frame
  loading : List Frame
  expect : Nat
  via : Option Nat
  path : List Token := []
  rst : List Token
  ct : CTile
  ops : List OpSt
  mt : MTile
  deriving DecidableEq, Repr, Inhabited

/-- The occupant of a core (R113, R123, R151). -/
structure Cell where
  task : Nat
  region : BitVec 3
  cell : BitVec 4
  queue : BitVec 10
  asn : BitVec 16
  age : BitVec 4
  frozen : BitVec 4
  configured : Bool
  quiescing : Bool
  ctlDone : Bool
  deriving DecidableEq, Repr, Inhabited

/-- A core: its control core, its occupant, its port blocks, sites and switch inputs. Channels are keyed by site and sink input. `images` are the
code, data and vault images that still travel behind the CFG marks: place, length and bytes of each (R126). -/
structure CoreSt where
  ctl : Ctl
  occ : Option Cell
  images : List (Nat × Nat × List Byte)
  ports : Tab Port
  sites : Tab Site
  chans : Tab (List Queued)
  deriving DecidableEq, Repr, Inhabited

/-- A line of a cache bank in one of its set's eight ways (R166, R274, R317); `bad` are its 8-byte units that an uncorrectable error has struck
(R39, R40). `synced` says that a release at .core has covered bytes that the line holds dirty (R170, R175). -/
structure BankLine where
  core : Nat
  way : Nat
  asn : BitVec 16
  va : Nat
  pa : Nat
  data : Line
  dirty : BitVec 128
  r : Bool
  w : Bool
  pub : Bool
  bad : BitVec 16
  synced : Bool := false
  deriving DecidableEq, Repr, Inhabited

/-- One set of an LLC slice: the tags of its ways and its replacement tree (R34). -/
structure LlcSet where
  ways : List (Option Nat)
  plru : BitVec 15
  deriving DecidableEq, Repr, Inhabited

/-- An ECC log (R42). -/
structure EccLog where
  valid : Bool
  ovf : Bool
  kind : BitVec 2
  ce : BitVec 16
  ue : BitVec 16
  syn : BitVec 16
  addr : Word
  deriving DecidableEq, Repr, Inhabited

/-- A .fe load that waits at its home (R184), oldest first in the list that holds it. -/
structure Deferred where
  access : Nat
  core : Nat
  deriving DecidableEq, Repr, Inhabited

/-- Memory of the package and its host, with poison, presence bits, banks and their sets' replacement trees, slices and logs (R29 to R42, R166, R184,
R197, R274). `lost` are the error responses of write-backs that poisoned units have refused, on their way: core and VA (R40). `struck` are the M
tiles, by core and site, that the step has found an uncorrectable error in and that it stops at its end (R270). -/
structure MemSys where
  mem : Memory
  poison : List Nat
  full : List Nat
  deferred : List Deferred
  banks : List BankLine
  bankLru : Tab (BitVec 7)
  llc : Tab LlcSet
  ecc : Tab EccLog
  lost : List (Nat × Word)
  struck : List (Nat × Nat)
  scrubPeriod : Nat
  deriving DecidableEq, Repr, Inhabited

/-- Who armed a contention port (R74). -/
inductive Armer where
  | ctl
  | node (n : NodeRef)
  deriving DecidableEq, Repr, Inhabited

/-- An arm of a contention port (R73 to R76): the target frame it was armed for, the first frame it takes part in once the port is armed, and
whether that frame has started; `since` is the cycle in which it reached the port. -/
structure Arm where
  who : Armer
  listen : Bool
  id : BitVec 8
  key : BitVec 32
  retry : Bool
  target : Word
  first : Nat
  entered : Bool
  since : Nat
  deriving DecidableEq, Repr, Inhabited

/-- The contention plane (R67 to R81): the frame in progress, failed channels, channels that read 1 at the end of the last frame, the
armed ports keyed by core and channel, the arms that wait for one, and the contenders of disarmed ports that still drive the frame in
progress (R86). -/
structure Plane where
  frame : Nat
  failed : BitVec 16
  high : BitVec 16
  ports : Tab Arm
  queued : List (Nat × Arm)
  gone : List (Nat × Arm)
  latched : Bool
  deriving DecidableEq, Repr, Inhabited

/-- One bank of the owner store (R92); with no key of its own it holds the provisioning key the device left manufacture with (R91). -/
structure OwnerBank where
  key : Option (BitVec 776)
  epoch : Word
  svnMin : Word
  deriving DecidableEq, Repr, Inhabited

/-- An answer the device has given to an SPDM request (R95). -/
structure SpdmReply where
  code : BitVec 8
  body : List Byte
  deriving DecidableEq, Repr, Inhabited

/-- Boot, ownership, status, measurement and resets (R88 to R97). `test` is what self-test found, from which the discovery table and the
interleave registers are written (R22 to R33), once it is `tested`. `warmReq`: a warm reset has been asked for; `since`: the cycle at which the
current attempt of the network, or the start of the hub cores, began. `netAsk` is the TFTP block size that boot ROM has asked for and
`netBlock` the one that the server has granted. -/
structure Boot where
  supply : Bool
  stage : BitVec 4
  code : BitVec 8
  maxTemp : BitVec 16
  bootCount : Word
  bankA : OwnerBank
  bankB : OwnerBank
  useB : Bool
  mr : List (BitVec 384)
  test : SelfTest
  dtValid : Bool
  dtBootTime : BitVec 96
  netPort : Nat
  netTry : Nat
  netAddr : Option (BitVec 128)
  netUrl : List Byte
  netAsk : Nat
  netBlock : Nat
  ready : BitVec 8
  warming : Bool
  warmReq : Bool
  tested : Bool
  since : Nat
  restarting : BitVec 8
  restarts : List (BitVec 3 × Nat)
  deriving DecidableEq, Repr, Inhabited

/-- Monitors of R98, the hardware throttle of R99, and SPDM answers (R95). -/
structure Monitors where
  temp : Tab (BitVec 16)
  tvalid : BitVec 128
  vdie : Tab (BitVec 16)
  vstk : Tab (BitVec 16)
  pmon : Tab (BitVec 32)
  thr : Tab (BitVec 5)
  forced : BitVec 8
  spdm : List SpdmReply
  spdmStage : BitVec 2
  deriving DecidableEq, Repr, Inhabited

/-- Time (R63 to R65): cycles since cold reset, the time of each reticle's unit in 2^-48 ns, the step that TMSTEP adds at the next cycle, the
time unit's registers, and by reticle the last multiple of 1,000 ns whose passing was signalled (R360). -/
structure TimeUnit where
  cycle : Nat
  now : List Nat
  step : Nat
  nowHi : BitVec 32
  rate : Word
  lock : Bool
  srcPort : BitVec 8
  skew : BitVec 16
  ticks : List Nat
  deriving DecidableEq, Repr, Inhabited

/-- Where a queue stands (R100, R101, R112): `faulting` while the work of a fatal event drains. -/
inductive QState where
  | idle
  | active
  | faulting
  | faulted
  | refused
  deriving DecidableEq, Repr, Inhabited

/-- A consumed command that has not completed (R103, R106). `time` is when it started, `deadline` when a WAIT times out; `left` counts
the tasks of a LAUNCH or RESTORE that have not completed, tells that a STOP or QRESET has acted, and holds the bytes that a COPY which was
stopped has copied; `held`: a firmware restart has delayed its record. -/
structure Cmd where
  n : Nat
  bytes : List Byte
  started : Bool
  time : BitVec 96
  deadline : Nat
  access : Option Nat
  slot : Option (BitVec 6)
  left : Nat
  held : Bool
  deriving DecidableEq, Repr, Inhabited

/-- A queue record of die firmware (R100 to R103). -/
structure Queue where
  st : QState
  err : BitVec 8
  sqBase : Word
  cqBase : Word
  sqLog : BitVec 8
  cqLog : BitVec 8
  prio : BitVec 3
  intEn : Bool
  asn : BitVec 16
  ptRoot : Word
  save : Word
  head : Nat
  written : Nat
  cmds : List Cmd
  resetBy : List (BitVec 10 × Nat)
  deriving DecidableEq, Repr, Inhabited

/-- A completion record before it is written to its ring (R110); `msi` if the command asked for an interrupt. For a task, `uid` and its
successors, which become ready with it (R118). With the report of a QRESET, the queue that is idle once it is written (R111). -/
structure Record where
  queue : BitVec 10
  id : BitVec 32
  task : BitVec 16
  status : BitVec 8
  cause : BitVec 8
  launchT : BitVec 96
  doneT : BitVec 96
  va : Word
  flags : BitVec 8
  msi : Bool
  uid : Option Nat
  succs : List Nat
  frees : Option (BitVec 10)
  deriving DecidableEq, Repr, Inhabited

/-- A request the device has outstanding on the host link, and the cycle in which it left (R46). -/
structure PcieReq where
  id : Nat
  access : Nat
  since : Nat
  deriving DecidableEq, Repr, Inhabited

/-- The host interface (R44, R100 to R112). `rdata` is what the last register read with an effect of its own returned (R42, R64). -/
structure HostIf where
  qtBase : Word
  tails : Tab Word
  queues : Tab Queue
  records : List Record
  msix : List Nat
  pcie : List PcieReq
  pcieIssued : Nat
  linkUp : Bool
  rdata : Word
  deriving DecidableEq, Repr, Inhabited

/-- Where a task stands (R109, R118, R127 to R134). -/
inductive TaskSt where
  | waiting
  | ready
  | configuring
  | running
  | draining
  | preempted
  deriving DecidableEq, Repr, Inhabited

/-- A region of a task (R113, R116): its record, its die and cores once placed, and what it has reported. -/
structure RegionSt where
  info : BitVec 64
  die : BitVec 3
  cores : List (BitVec 4)
  placed : Bool
  released : Bool
  done : Bool
  waiters : List (CoreId × Option NodeRef)
  deriving DecidableEq, Repr, Inhabited

/-- What a pre-emption saves of a cell (R130, R132): its control core, data memory and port blocks, the state units of each site, and what its
node sinks have reported, keyed by 2 × site + node. The spec gives the save block no layout: its bytes are free values, and what they hold
stands here. -/
structure SavedCell where
  region : BitVec 3
  cell : BitVec 4
  ctl : Ctl
  dmem : List Host.Cell
  ports : Tab Port
  units : Tab (List Token)
  sinks : Tab (Bool × Nat)
  deriving DecidableEq, Repr, Inhabited

/-- A task record of the ready pool (R116, R118): its descriptor and canonical graph as read, its dependences, times and regions. `cmdN` is the
number of its LAUNCH or RESTORE in its queue; `scope` are the dies of the scope that its first placement has resolved (R21, R125), none before it;
`stopping`: a STOP has named it; `steps` and `starts` are a RESTORE's count of steps and
starting units with rounds, keyed by 256 × region + 16 × cell + port; `saved` what its last pre-emption saved. -/
structure Task where
  uid : Nat
  queue : BitVec 10
  cmd : BitVec 32
  cmdN : Nat
  index : BitVec 16
  desc : List Byte
  graph : List Byte
  opers : List Byte
  arg : Word
  deps : Nat
  succs : List Nat
  st : TaskSt
  readyT : Nat
  leftT : Nat := 0
  dispatchT : Nat
  launchT : Option (BitVec 96)
  doneT : BitVec 96
  regions : List RegionSt
  scope : List Nat
  stopping : Bool
  flags : BitVec 8
  steps : Word
  starts : List (Nat × Nat × Nat)
  saved : List SavedCell
  deriving DecidableEq, Repr, Inhabited

/-- The ready pool and its parameters (R118, R119). `frameCache` tells which mappings stand in the frame cache of each die: the digest that keys
one and its core set (R124). -/
structure Sched where
  resvAge : BitVec 32
  ageStep : BitVec 32
  preemptAge : BitVec 32
  paused : Bool
  tasks : List Task
  requests : List (Nat × BitVec 3 × Nat)
  nextUid : Nat
  frameCache : List (Nat × BitVec 384 × List (BitVec 4))
  deriving DecidableEq, Repr, Inhabited

/-- One exchange in progress (R145). `dead` are the queues whose cells have been discarded in it: their resets end behind it (R150). -/
structure Exchange where
  die : BitVec 3
  a : BitVec 4
  b : BitVec 4
  seq : BitVec 16
  drained : Bool
  dead : List (BitVec 10)
  deriving DecidableEq, Repr, Inhabited

/-- The registers of one die's swap arbiter (R140). -/
structure Arbiter where
  en : Bool
  period : BitVec 32
  hyst : BitVec 32
  freeze : BitVec 4
  elig : BitVec 4
  maxP : BitVec 3
  inst : Word
  doneCnt : Word
  claimed : BitVec 16
  next : Nat
  deriving DecidableEq, Repr, Inhabited

/-- A channel of class REQ or STR that changes its route (R147, R148), from one cell to another: its class and route class, the cores of both cells
before and after, and the destination's region and CELL. `sent`: the marker has left by the old route; `gone`: it has passed the old site of the
destination. An entry goes once its marker has arrived. -/
structure Flip where
  cls : BitVec 2
  rclass : BitVec 4
  region : BitVec 3
  cell : BitVec 4
  src : Nat
  oldSrc : Nat
  oldCore : Nat
  newCore : Nat
  sent : Bool
  gone : Bool
  deriving DecidableEq, Repr, Inhabited

/-- A channel of class STR from a cell of another package to a cell here (R147): the sender's core, counted on from this package's 128 by package, the
route class, and the core here. -/
structure FarChannel where
  src : Nat
  rclass : BitVec 4
  core : Nat
  deriving DecidableEq, Repr, Inhabited

/-- Traffic-driven residency (R138 to R151): sillage counters keyed by die, core and core. -/
structure Swap where
  sill : Tab (BitVec 32)
  arb : Tab Arbiter
  exchanges : List Exchange
  flips : List Flip
  far : List FarChannel
  deriving DecidableEq, Repr, Inhabited

/-- One checkpoint from its request to its commit (R152 to R162). `ranges` are the saved ranges with their format byte, `pages` the pages still
to copy, the next one of each engine first: VA, size and engine. `index` and `digest` are the task's index and the digest of its canonical
graph. `records` are the records of its requests as they will be completed, each with its command's number plus one, or 0 for a CKPT
instruction. -/
structure Ckpt where
  task : Nat
  index : BitVec 16
  digest : BitVec 384
  queue : BitVec 10
  asn : BitVec 16
  root : Nat
  area : Word
  kind : BitVec 2
  cut : Bool
  cutTime : BitVec 96
  slot : Nat
  slotVa : Word
  seq : Word
  step : Word
  ranges : List (Word × Nat × BitVec 8)
  pages : List (Word × Nat × Nat)
  started : Bool
  positions : List Byte
  records : List (Nat × Record)
  abort : Bool
  deriving DecidableEq, Repr, Inhabited

/-- Checkpoints and the registry of slots (R152, R161): address space, a slot's address and its data blocks; and the requests of cells that a
restart of die firmware holds: task, area, kind and record (R362). -/
structure CkptSys where
  jobs : List Ckpt
  registry : List (BitVec 16 × Word × Nat)
  asked : List (Nat × Word × BitVec 2 × Record)
  deriving DecidableEq, Repr, Inhabited

/-- A cached translation (R198). -/
structure AtuEntry where
  asn : BitVec 16
  level : BitVec 2
  page : Nat
  entry : Word
  deriving DecidableEq, Repr, Inhabited

/-- An invalidation on its way (R210): who waits for its report and the accesses that used an old translation. -/
structure Inval where
  k : Nat
  asn : BitVec 16
  first : Nat
  count : Nat
  core : Option CoreId
  before : List Nat
  deriving DecidableEq, Repr, Inhabited

/-- What an engine operation is (R200, R205, R222). -/
inductive EngKind where
  | copy
  | gather
  | multicast
  deriving DecidableEq, Repr, Inhabited

/-- One operation of a reticle's copy or indirect-stream engine (R341), or a multicast (R222): its descriptor as read, who asked, its next
unit, the index read last, and its fault record. A multicast's `index` is the core whose vault it fills; `lines` are its lines that have
been asked for and not written, and `policies` the cache policies of the lines that it has asked for, the last first. `doneT` is the time at
which the last of its writes that have been acknowledged performed. -/
structure EngOp where
  kind : EngKind
  desc : List Byte
  asn : BitVec 16
  core : Option CoreId
  cmd : Option (BitVec 10 × Nat)
  op : Nat
  unit : Nat
  index : Option (BitVec 32)
  acquired : Bool
  writes : List Nat
  after : List Nat
  lines : List Nat
  policies : List (Nat × BitVec 2)
  doneT : BitVec 96
  fault : FaultRec
  deriving DecidableEq, Repr, Inhabited

/-- Translation units and reticle engines (R198, R200, R210, R339 to R341): caches by reticle, engine operations by reticle and slot. -/
structure Xlate where
  atu : Tab (List AtuEntry)
  invals : List Inval
  nextInval : Nat
  copies : Tab EngOp
  gathers : Tab EngOp
  multis : Tab EngOp
  deriving DecidableEq, Repr, Inhabited

/-- A merge entry of an LLC slice (R224): the run, who may join, its delivery set with each member's operation and first line, the data with
the bad lines, and when its window closes. -/
structure Merge where
  line : Nat
  lines : Nat
  asn : BitVec 16
  mask : BitVec 16
  die : BitVec 3
  members : List (BitVec 4 × Nat × Nat)
  data : List Byte
  bad : List Nat
  closes : Nat
  deriving DecidableEq, Repr, Inhabited

/-- A merge unit's registers and entries (R224, R226). -/
structure MergeUnit where
  win : BitVec 16
  lead : Word
  follow : Word
  alone : Word
  entries : Tab Merge
  deriving DecidableEq, Repr, Inhabited

/-- An adder of a die edge or pod link (R227), as the mapper configures it: its format, whose packets L and U are (0 those of the die's own
senders, n + 1 what adder n emits, 200 + l what comes over pod link l), the classes of L and U, its downstream class, the node and port that the
streams through it go to, its task, the heads that wait and what is left of the state runs behind a mark. `next` is the node and port of another
package where a sum of a pod-link port goes instead, to be the next adder's U there. -/
structure Adder where
  bf16 : Bool
  lFrom : Nat
  uFrom : Option Nat
  lCls : BitVec 4
  uCls : BitVec 4
  cls : BitVec 4
  dst : Nat
  dport : BitVec 4
  task : Nat
  l : List Packet
  u : List Packet
  runL : Nat
  runU : Nat
  blocked : Option Nat
  cause : BitVec 8
  next : Option (Nat × BitVec 4) := none
  deriving DecidableEq, Repr, Inhabited

/-- The die network (R211 to R228): accesses in flight, packets, counters, merge units by stack, adders, and the SC ring (R177): the stop that
holds the token, what it may still perform in this visit, and the access whose response it awaits. `unbound` are the headers that die firmware has
logged in the unbound handler (R220). -/
structure Net where
  accesses : List Access
  packets : List Packet
  nextId : Nat
  netErr : Tab Nat
  merges : Tab MergeUnit
  adders : Tab Adder
  scStop : BitVec 5
  scLeft : Nat
  scWait : Option Nat
  unbound : List Frame
  deriving DecidableEq, Repr, Inhabited

/-- One pod link (R47 to R50). `through` are the requests of other packages that have gone on over it and wait for their responses (R50). -/
structure PodLink where
  up : Bool
  txSeq : BitVec 8
  unacked : List Frame
  rxNext : BitVec 8
  rxSince : Nat
  nakSent : Bool
  credits : List Nat
  rxBuf : Tab (List Frame)
  fails : Nat
  ackDue : Nat
  txOut : List Frame
  through : List Packet := []
  deriving DecidableEq, Repr, Inhabited

/-- A landing ring of a vault controller (R58): its base, slots, the packets landed and not yet taken, the next slot to fill, and the
port block served last. -/
structure LandRing where
  base : Nat
  slots : Nat
  packets : List (List Token)
  tail : Nat
  served : Nat
  deriving DecidableEq, Repr, Inhabited

/-- An Ethernet port (R53 to R62): its flow table entries as bytes, packets landed by entry, counters, landing buffer with the credits of its
direct targets and their shares (R217), frames sent, and what it has handed to die firmware. -/
structure EthPort where
  flows : Tab (List Byte)
  landed : Tab Nat
  counters : List Word
  buffer : List (Nat × Token)
  credits : Tab Nat
  shares : Tab Nat := []
  sent : List (List Byte)
  ptp : List (List Byte)
  deriving DecidableEq, Repr, Inhabited

/-- The links of the package (R43 to R62). -/
structure Links where
  pod : Tab PodLink
  eth : Tab EthPort
  rings : Tab LandRing
  deriving DecidableEq, Repr, Inhabited

/-- The machine: the agenda and whose turn it is, the counter of free values drawn, and the package. -/
structure State where
  agenda : List Turn
  cur : CoreId
  curNode : NodeRef
  input : Input
  draws : Nat
  cores : Tab CoreSt
  m : MemSys
  plane : Plane
  boot : Boot
  mon : Monitors
  time : TimeUnit
  host : HostIf
  sched : Sched
  swap : Swap
  ckpt : CkptSys
  x : Xlate
  net : Net
  links : Links
  deriving DecidableEq, Repr, Inhabited

/-! ## Reset -/

/-- A clear fault record (R202). -/
def FaultRec.clear : FaultRec := ⟨false, 0, 0, 0, 0, 0, 0⟩

/-- The registers of a control core after reset; registers without a reset value in the spec are zero (assumption 1). -/
def CtlRegs.reset (firmware : Bool) : CtlRegs :=
  { s := Vector.replicate 32 0, pc := 0, firmware, inTrap := false, trapCause := 0, trapPc := 0, trapVal := 0, ptpSec := 0,
    spTarget := 0, spGrant := 0, swapCnt := 0, evPend := 0, fwDog := 0 }

/-- A control core after reset, held until it is started (R93, R127). -/
def Ctl.reset (firmware : Bool) : Ctl :=
  { r := CtlRegs.reset firmware, run := .off, wait := .none, tops := [], cops := [], bars := [], relWait := [], acqWait := [],
    acqScope := none, fullWait := [], withdrawn := [], late := none, lateOp := 0, dogEnd := 0, preempt := false }

/-- A port block before its frame loads. -/
def Port.reset : Port :=
  { items := [], issued := 0, startedNo := 0, isStore := false, winEor := none, eors := List.replicate 8 0, round := 0, mode := 0,
    slots := [], outq := [], writes := [], fault := FaultRec.clear, mask := 0, held := [], credits := List.replicate 8 0,
    idxLanes := [], runLeft := [0, 0, 0, 0], saving := false, stopped := false, frame := [], blocked := none, reported := false,
    saved := [], ixq := [], cutAt := none, sunk := 0, startAt := 0, outLines := 0 }

/-- A node at load (R364, R366). -/
def NodeSt.reset : NodeSt :=
  { firing := false, slot := 0, release := none, step := 0, fcnt := 0, lastRound := 0, seen := [], armed := false, result := none, mode := 0,
    run := ⟨[], []⟩, blocked := none, cause := 0, reported := false, sunk := 0 }

/-- The matrix unit at load (R386). -/
def Matrix.reset : Matrix := ⟨[], [], 0, [], []⟩

/-- A C tile at load (R364). -/
def CTile.reset : CTile :=
  { v := List.replicate 8 (0, 0, 0), o := List.replicate 4 none, p := BitVec.allOnes 32, mode := 0, cfgMode := 0,
    node0 := NodeSt.reset, node1 := NodeSt.reset, mx := Matrix.reset }

/-- A switch operator at load (R253, R254, R264). -/
def OpSt.reset : OpSt :=
  { isOpen := false, last := none, pend := [], held := none, wait := none, kept := ⟨[], 0, 0⟩, rejected := ⟨[], 0, 0⟩, served := 3,
    run := ⟨[], []⟩, run2 := ⟨[], []⟩, blocked := none, cause := 0 }

/-- An M tile at load. -/
def MTile.reset : MTile :=
  { w := 0, served := 2, acc := 0, rings := List.replicate 4 ⟨0, [], ⟨[], []⟩⟩, buf := [], count := none, again := 0, pos := 0, run := ⟨[], []⟩,
    blocked := none, cause := 0 }

/-- A site that has passed no CFG mark (R127). -/
def Site.reset : Site :=
  { frames := [], loading := [], expect := 0, via := none, rst := [], ct := CTile.reset, ops := List.replicate 4 OpSt.reset, mt := MTile.reset }

/-- A core after reset; the hub core's number is 0 in its die (R12). -/
def CoreSt.reset (firmware : Bool) : CoreSt :=
  { ctl := Ctl.reset firmware, occ := none, images := [], ports := [], sites := [], chans := [] }

/-- The self-test result before self-test has run: nothing found. -/
def SelfTest.none : SelfTest :=
  { failedCores := [], failedNets := [], failedLateral := [], failedDram := [], failedBase := [], stuckChannels := [],
    untrainedEth := [], untrainedPod := [], hostLinkUp := false, pkgId := 0, podCount := 0, podMask := 0, podMap := [], routes := [],
    fenceCosts := [], podUnits := [] }

/-- The arbiter's registers at reset (R140): the first instant comes a period after the reset. -/
def Arbiter.reset : Arbiter :=
  { en := true, period := 100, hyst := 4096, freeze := 4, elig := 8, maxP := 4, inst := 0, doneCnt := 0, claimed := 0, next := 200000 }

/-- The machine right after cold reset: self-test has not reported (R88), every register at the value the spec gives, memory with nothing
listed. What outlives the supply (fuses, owner store, boot counter) is as it leaves manufacture (R91; assumption 2). -/
def State.reset : State :=
  { agenda := [], cur := ⟨0, 0⟩, curNode := ⟨⟨0, 0⟩, 0, 0⟩, input := default, draws := 0, cores := [],
    m := { mem := [], poison := [], full := [], deferred := [], banks := [], bankLru := [], llc := [], ecc := [],
           lost := [], struck := [], scrubPeriod := 24 },
    plane := { frame := 0, failed := 0, high := 0, ports := [], queued := [], gone := [], latched := false },
    boot := { supply := true, stage := 0, code := 0, maxTemp := 0, bootCount := 0, bankA := ⟨none, 0, 0⟩, bankB := ⟨none, 0, 0⟩, useB := false,
              mr := List.replicate 8 0, test := SelfTest.none, dtValid := false, dtBootTime := 0, netPort := 0, netTry := 0,
              netAddr := none, netUrl := [], netAsk := 0, netBlock := 0, ready := 0, warming := false, warmReq := false, tested := false,
              since := 0, restarting := 0, restarts := [] },
    mon := { temp := [], tvalid := 0, vdie := [], vstk := [], pmon := [], thr := [], forced := 0, spdm := [], spdmStage := 0 },
    time := { cycle := 0, now := [0, 0, 0, 0], step := 0, nowHi := 0, rate := 0x800000000000, lock := false,
              srcPort := 0xFF, skew := 0, ticks := [0, 0, 0, 0] },
    host := { qtBase := 0, tails := [], queues := [], records := [], msix := [], pcie := [], pcieIssued := 0, linkUp := false, rdata := 0 },
    sched := { resvAge := 2000, ageStep := 50000, preemptAge := 1000, paused := false, tasks := [], requests := [], nextUid := 0, frameCache := [] },
    swap := { sill := [], arb := [], exchanges := [], flips := [], far := [] },
    ckpt := { jobs := [], registry := [], asked := [] },
    x := { atu := [], invals := [], nextInval := 0, copies := [], gathers := [], multis := [] },
    net := { accesses := [], packets := [], nextId := 1, netErr := [], merges := [], adders := [], scStop := 0, scLeft := 8,
             scWait := none, unbound := [] },
    links := { pod := [], eth := [], rings := [] } }

end Sys2Proof.Machine
end

