-- ==== Sys2Proof/Config.lean ====
section
/-! DEFINITION. What is fixed for one package and what the spec leaves open: constants and functions without a body. Nothing can be proved
of their values. A function of a counter is a free value, drawn with the state's counter of draws. -/

namespace Sys2Proof

open Sys2Proof.Machine

/-- An adder that the mapper configures into a stream's path (R227): its place (2 × die + entry core, or 16 + pod link), whether BF16, whose
packets L and U are, the route classes of both, and the class, region, cell and port downstream. -/
structure MappedAdder where
  place : Nat
  bf16 : Bool
  lFrom : Nat
  uFrom : Option Nat
  lCls : BitVec 4
  uCls : BitVec 4
  cls : BitVec 4
  region : Nat
  cell : Nat
  port : BitVec 4
  next : Option (BitVec 6 × BitVec 8 × BitVec 4) := none
  deriving DecidableEq, Repr, Inhabited

/-- What the mapper gives for one cell (R55, R58, R123 to R126): the frames of each site, its code and its data image, patched; its vault
image (R411); the landing rings firmware configures for it (core number, ring, base, log2 of its slots); and its
flow table entries (port, entry, bytes, credits of a direct target). -/
structure MappedCell where
  frames : List (Nat × List Frame)
  code : List Byte
  data : List Byte
  vault : List Byte
  rings : List (Nat × Nat × Nat × Nat)
  flows : List (Nat × Nat × List Byte × Nat)
  deriving DecidableEq, Repr, Inhabited

/-- Element latency bounds (R28); a degraded build records a full build's (assumption 90, DESIGN CHOICE). -/
def latencyBounds : List (Nat × Nat) :=
  [(1, 1), (2, 2), (3, 6), (4, 4), (5, 24), (6, 64), (7, 2), (8, 12), (9, 20), (0xA, 60), (0xB, 400), (0xC, 180), (0xD, 128)]

/-- Where a field that firmware or the mapper fills in at load stands: in a frame of a site, in a cell's code or data image at a byte offset, or in
a stream parameter block at a VA (R123, R125). -/
inductive PatchPlace where
  | frame (site n : Nat)
  | code (off : Nat)
  | data (off : Nat)
  | spb (va : Nat)
  deriving DecidableEq, Repr, Inhabited

/-- What it holds: imm16 of a word, the die of a region shifted (DIE16); bits [35:33] of 8 bytes, the die of a region (VDIE); or a scope field at a
bit, the lowest scope of its parties, which are cells of regions, with or without a vault controller (R123, R125, R415). -/
inductive PatchKind where
  | die16 (region shift : Nat)
  | vdie (region : Nat)
  | scope (bit : Nat) (parties : List (Nat × Nat)) (vaults : Bool)
  deriving DecidableEq, Repr, Inhabited

/-- A field of a cell to be filled in. -/
structure Patch where
  region : Nat
  cell : Nat
  place : PatchPlace
  kind : PatchKind
  deriving DecidableEq, Repr, Inhabited

/-- One way into a sink of a declared path: its elements by R28's codes with their counts, and the nodes and switch operators on it (R136). -/
structure PathWay where
  elements : List (Nat × Nat)
  nodes : Nat
  deriving DecidableEq, Repr, Inhabited

/-- The bound of one way: R28's bounds of its elements, and 4 cycles for each node and operator; of a path: the greatest among the ways that meet
at its nodes (R136). -/
def PathWay.bound (w : PathWay) : Nat :=
  (w.elements.map (fun e => e.2 * ((latencyBounds.find? (fun b => b.1 == e.1)).map (fun b => b.2)).getD 0)).sum + 4 * w.nodes

def pathBound (ws : List PathWay) : Nat := (ws.map PathWay.bound).foldl max 0

/-- A node of a canonical graph: the site kind of each output, that of each input with whether it is required, and whether it is a CARRY (R253, R261,
R418). -/
structure GraphNode where
  outs : List Nat
  ins : List (Nat × Bool)
  carry : Bool
  deriving DecidableEq, Repr, Inhabited

/-- An edge of a canonical graph: a node's output and a node's input, by number (R418). -/
structure GraphEdge where
  src : Nat
  out : Nat
  dst : Nat
  inp : Nat
  deriving DecidableEq, Repr, Inhabited

/-- What a canonical graph says of a task beyond its frames: whether its parts type-check, its nodes and edges (R124, R418), the pinned cores of its
cells, keyed by 16 × region + cell (R122), the declared paths with the ways into each (R136), the step level (R152), the operands that hold seeds
(R154), the adders (R227) and the fields to fill in (R123, R125). The spec gives the canonical graph no layout (assumption 8, DESIGN CHOICE). -/
structure GraphInfo where
  typed : Bool
  nodes : List GraphNode
  edges : List GraphEdge
  pins : List (Nat × BitVec 4)
  paths : List (List PathWay)
  stepLevel : BitVec 3
  seeds : List Nat
  adders : List MappedAdder
  patches : List Patch
  deriving DecidableEq, Repr, Inhabited

/-- An edge joins an output to an input of the same site kind (R418, E201). -/
def GraphInfo.joins (g : GraphInfo) (e : GraphEdge) : Bool :=
  match (g.nodes[e.src]?).bind (fun n => n.outs[e.out]?), (g.nodes[e.dst]?).bind (fun n => n.ins[e.inp]?) with
  | some a, some b => a == b.1
  | _, _ => false

/-- Every required input of a node is bound (R261, R418). -/
def GraphInfo.fed (g : GraphInfo) (n : Nat) : Bool :=
  match g.nodes[n]? with
  | none => true
  | some x => (List.range x.ins.length).all (fun i =>
      !(x.ins.getD i (0, false)).2 || g.edges.any (fun e => e.dst == n && e.inp == i))

/-- The edges that no CARRY takes part in: a cycle among them passes none (R253, R418). -/
def GraphInfo.plainEdges (g : GraphInfo) : List (Nat × Nat) :=
  let carry : Nat → Bool := fun n => match g.nodes[n]? with | some x => x.carry | none => false
  (g.edges.filter (fun e => !carry e.src && !carry e.dst)).map (fun e => (e.src, e.dst))

/-- The path bounds in declaration order (R136). -/
def GraphInfo.bounds (g : GraphInfo) : List Nat := g.paths.map pathBound

/-- The order in which agents move where the agenda does not say: the spec gives no order between agents (R164; assumption 3, DESIGN CHOICE). -/
opaque Config.schedule : Nat → Turn

/-- Cycles that pass before a step that reads the time (assumption 4, DESIGN CHOICE). -/
opaque Config.elapsed : Nat → Nat

/-- Offset of a reticle's time unit from the master's, in 2^-48 ns before clamping to 1 ns (R64; assumption 4, DESIGN CHOICE). -/
opaque Config.unitOffset : Nat → Nat → Int

/-- Whether a present translation-cache entry serves an access or the walk is made afresh (R198; assumption 5, DESIGN CHOICE). -/
opaque Config.atuHit : Nat → Bool

/-- Whether a bank line serves an access that may use it (R166; assumption 5, DESIGN CHOICE). -/
opaque Config.bankHit : Nat → Bool

/-- The channels whose lines read 1 in bit times 48 to 63 of a frame (R80; assumption 6, DESIGN CHOICE). -/
opaque Config.idleHigh : Nat → BitVec 16

/-- The root of die firmware's own tables, address space 0: the spec gives no register that holds it (R186; assumption 11, DESIGN CHOICE). -/
opaque Config.firmwareRoot : Nat

/-- A value the spec states no result for (assumption 7, DESIGN CHOICE). -/
opaque Config.freeWord : Nat → Word

/-- A time of a completion record for which the spec states none, by the counter of draws and the record (R110; assumption 84, DESIGN CHOICE). -/
opaque Config.openTime : Nat → Nat → BitVec 96

/-- Which granules of a unit that meets a full granule are written (R197; assumption 7, DESIGN CHOICE). -/
opaque Config.freeBit : Nat → Bool

/-- The mapper's cells for one region of a canonical graph on a shape and the placement of the task's regions: region, die and cores of each
(R123 to R125; assumption 8, DESIGN CHOICE). -/
opaque Config.mapRegion : List Byte → BitVec 384 → List (Nat × BitVec 3 × List (BitVec 4)) → Nat → Option (List MappedCell)

/-- What the mapper finds of a canonical graph on a shape (R122, R124, R131, R136, R152; assumption 8, DESIGN CHOICE). -/
opaque Config.graphInfo : List Byte → BitVec 384 → GraphInfo

/-- The places of die firmware's configuration window at which it sets the scrub period and extends MR5 to MR7, which the spec does not give (R41,
R95; assumption 96, DESIGN CHOICE). -/
opaque Config.scrubPlace : BitVec 32
opaque Config.extendPlace : BitVec 32

/-- The fused maker root key, an uncompressed P-384 point (R91). -/
opaque Config.rootKey : BitVec 776

/-- The provisioning key a device leaves manufacture with (R91). -/
opaque Config.provisioningKey : BitVec 776

/-- The fused device identity (R92). -/
opaque Config.deviceId : BitVec 128

/-- The boot ROM's own digest (R95). -/
opaque Config.romDigest : BitVec 384

/-- The certificate chain of the device's signing key (R95). -/
opaque Config.certChain : List Byte

/-- A signature by the device's derived key (R95): of a digest, with the nonce the draw gives. -/
opaque Config.sign : Nat → BitVec 384 → List Byte

end Sys2Proof
end

