-- ==== Sys2Proof/Machine/Ops.lean ====
section
/-! DEFINITION. The named operations over the state: cores and registers, the live build, memory at its homes, time, accesses and packets,
resets, and taking a trap and returning from one. -/

namespace Sys2Proof

open Sys2Proof.Machine

/-- The number of a core in the package, 16 × die + core (R42, R98). -/
def CoreId.ix (c : CoreId) : Nat := 16 * c.die.toNat + c.core.toNat

/-- The core of a number. -/
def coreOfIx (k : Nat) : CoreId := ⟨BitVec.ofNat 3 (k / 16), BitVec.ofNat 4 k⟩

/-! ## The live build (R11 to R18, R25, R31) -/

/-- Flags of a list of numbers as a mask. -/
def maskOf (l : List Nat) : Nat := l.foldl (fun m k => m ||| 2 ^ k) 0

/-- Base-die logic of a stack that passed (R15). -/
def SelfTest.baseLive (t : SelfTest) (n : Nat) : Bool := !t.failedBase.contains (BitVec.ofNat 4 n)

/-- A stack and its slice are live (R15). -/
def SelfTest.stackLive (t : SelfTest) (n : Nat) : Bool := t.baseLive n && !t.failedDram.contains (BitVec.ofNat 4 n)

/-- A die is live: its hub core, network and lateral network passed, and its reticle has a base die (R15). -/
def SelfTest.dieLive (t : SelfTest) (d : Nat) : Bool :=
  !t.failedCores.contains ⟨BitVec.ofNat 3 d, 0⟩ && !t.failedNets.contains (BitVec.ofNat 3 d) &&
  !t.failedLateral.contains (BitVec.ofNat 3 d) && (List.range 4).any (fun i => t.baseLive (4 * (d / 2) + i))

/-- A core is live with its die (R15). -/
def SelfTest.coreLive (t : SelfTest) (k : Nat) : Bool := t.dieLive (k / 16) && !t.failedCores.contains (coreOfIx k)

/-- An Ethernet port is live (R15). -/
def SelfTest.ethLive (t : SelfTest) (n : Nat) : Bool := t.baseLive n && !t.untrainedEth.contains (BitVec.ofNat 4 n)

/-- The stack whose base die carries a pod link (R11). -/
def podStack (l : Nat) : Nat := 4 * (l / 3) + l % 3

/-- A pod link is live (R15). -/
def SelfTest.podLive (t : SelfTest) (l : Nat) : Bool := t.baseLive (podStack l) && !t.untrainedPod.contains (BitVec.ofNat 4 l)

/-- A sprint channel is live (R15, R80). -/
def SelfTest.chanLive (t : SelfTest) (c : Nat) : Bool := !t.stuckChannels.contains (BitVec.ofNat 4 c)

/-- Live stacks in ascending order (R31). -/
def SelfTest.stacks (t : SelfTest) : List Nat := (List.range 16).filter t.stackLive

/-- Live cores in ascending order. -/
def SelfTest.cores (t : SelfTest) : List Nat := (List.range 128).filter t.coreLive

/-- The stack whose base die serves a reticle's engines (R13). -/
def SelfTest.engineStack (t : SelfTest) (r : Nat) : Option Nat := ((List.range 4).map (fun i => 4 * r + i)).find? t.baseLive

/-- N, M and G of R31. -/
def SelfTest.ilvN (t : SelfTest) : Nat := t.stacks.length
def SelfTest.ilvM (t : SelfTest) : Nat := (1024 + t.ilvN - 1) / t.ilvN
def SelfTest.ilvG (t : SelfTest) : Nat := 20971520 / t.ilvM

/-- The stack and stack offset of a local HBM offset (R31). -/
def SelfTest.stackOf (t : SelfTest) (p : Nat) : Nat × Nat :=
  let i := p / 2 ^ 12 % 1024
  let gen := p / 2 ^ 22
  (t.stacks.getD (i % t.ilvN) 0, (gen * t.ilvM + i / t.ilvN) * 4096 + p % 4096)

/-- The pseudo-channel that serves a line at a stack offset, as R32 gives it: the set, from the granule's number, and the fold of the offset's
bits. -/
def channelSet (so : Nat) : Nat := so / 4096 % 3
def channelFold (so : Nat) : Nat :=
  Nat.xor (Nat.xor (so / 2 ^ 7 % 128) (so / 2 ^ 14 % 128)) (Nat.xor (Nat.xor (so / 2 ^ 21 % 128) (so / 2 ^ 28 % 128)) (so / 2 ^ 35 % 4))
def pseudoChannel (so : Nat) : Nat := 128 * channelSet so + channelFold so

/-- The pseudo-channel of a local HBM offset (R31, R32). -/
def SelfTest.channelOf (t : SelfTest) (p : Nat) : Nat := pseudoChannel (t.stackOf p).2

/-- The entry core through which a stack's base die is reached (R11, R212). -/
def entryCore (stack : Nat) : Nat := 16 * (stack / 2) + (if stack % 2 = 0 then 3 else 15)

/-- The shape record (R25). -/
def SelfTest.shapeRecord (t : SelfTest) : List Byte :=
  [BitVec.ofNat 8 t.podCount] ++ [BitVec.ofNat 8 (maskOf ((List.range 8).filter t.dieLive))] ++
  leBytes 2 (maskOf t.stacks) ++
  ((List.range 8).map (fun d => leBytes 2 (maskOf ((List.range 16).filter (fun c => t.coreLive (16 * d + c)))))).flatten ++
  leBytes 8 t.podMask.toNat ++ leBytes 8 0

/-- The shape record as the mapper's key (R25, R124). -/
def SelfTest.shape (t : SelfTest) : BitVec 384 := BitVec.ofNat 384 (leNat t.shapeRecord)

/-- An agent of another package. -/
def Agent.far : Agent → Bool
  | .remote .. => true
  | _ => false

/-- Generators and engine operations, whose accesses have an order at each node (R178). A port block of another package, and a base die, are such. -/
def Agent.streams : Agent → Bool
  | .ctl _ => false
  | .firmware _ => false
  | .remote _ n p => p != 15 || decide (16 ≤ n.toNat % 32)
  | _ => true

/-- The core an agent belongs to, for its banks and its network interface. -/
def Agent.coreIx : Agent → Option Nat
  | .ctl c => some c.ix
  | .port c _ => some c.ix
  | .multi c _ => some c.ix
  | .firmware d => some (16 * d.toNat)
  | _ => none

end Sys2Proof

namespace Sys2Proof.Machine

/-- What the mapper finds of a canonical graph on the live build (R124). -/
def State.graphInfo (s : State) (g : List Byte) : GraphInfo := Config.graphInfo g s.boot.test.shape

/-! ## Cores and registers -/

/-- A hub core is core 0 of its die (R12). -/
def isHub (k : Nat) : Bool := k % 16 == 0

/-- The reticle of a core (R11). -/
def reticleOf (k : Nat) : Nat := k / 32

/-- A core by its number. -/
def State.core (s : State) (k : Nat) : CoreSt := tabGet (CoreSt.reset (isHub k)) s.cores k

def State.setCore (s : State) (k : Nat) (c : CoreSt) : State := { s with cores := tabPut s.cores k c }

/-- The control core of a core. -/
def State.ctlAt (s : State) (k : Nat) : Ctl := (s.core k).ctl

def State.setCtlAt (s : State) (k : Nat) (c : Ctl) : State := s.setCore k { s.core k with ctl := c }

/-- The number of the core whose turn it is. -/
def State.me (s : State) : Nat := s.cur.ix

/-- The control core whose turn it is. -/
def State.ctl (s : State) : Ctl := s.ctlAt s.me

def State.setCtl (s : State) (c : Ctl) : State := s.setCtlAt s.me c

/-- Its registers. -/
def State.cr (s : State) : CtlRegs := s.ctl.r

def State.setCr (s : State) (r : CtlRegs) : State := s.setCtl { s.ctl with r := r }

/-- Register sn of a register set: s0 reads as zero (R238). -/
def CtlRegs.get (r : CtlRegs) (n : Reg) : Word := if n = 0 then 0 else r.s[n.toNat]

/-- Write register sn: a write to s0 is discarded (R238). -/
def CtlRegs.put (r : CtlRegs) (n : Reg) (v : Word) : CtlRegs := if n = 0 then r else { r with s := r.s.set n.toNat v }

def State.reg (s : State) (n : Reg) : Word := s.cr.get n

def State.setReg (s : State) (n : Reg) (v : Word) : State := s.setCr (s.cr.put n v)

def State.pc (s : State) : Word := s.cr.pc

def State.setPc (s : State) (pc : Word) : State := s.setCr { s.cr with pc := pc }

/-- Go on at the next instruction. -/
def State.advancePc (s : State) : State := s.setPc (s.pc + 4)

/-- Write a result and go on: the end of every instruction that only computes. -/
def State.result (s : State) (d : Reg) (v : Word) : State := (s.setReg d v).advancePc

/-- Firmware mode (R241, R304). -/
def State.firmware (s : State) : Bool := s.cr.firmware

/-- Set bits of EVPEND of a core (R360). -/
def State.event (s : State) (k : Nat) (bit : Nat) : State :=
  let c := s.ctlAt k
  s.setCtlAt k { c with r := { c.r with evPend := c.r.evPend ||| BitVec.ofNat 6 (2 ^ bit) } }

/-- Port block `n` of core `k` (R236). -/
def State.port (s : State) (k n : Nat) : Port := tabGet Port.reset (s.core k).ports n

def State.setPort (s : State) (k n : Nat) (p : Port) : State :=
  let c := s.core k
  s.setCore k { c with ports := tabPut c.ports n p }

/-- A site of core `k`. -/
def State.site (s : State) (k i : Nat) : Site := tabGet Site.reset (s.core k).sites i

def State.setSite (s : State) (k i : Nat) (x : Site) : State :=
  let c := s.core k
  s.setCore k { c with sites := tabPut c.sites i x }

/-- The tokens waiting at a switch-box input: sinks 48 to 67 of a site (R231, R312). -/
def State.chan (s : State) (k i sink : Nat) : List Queued := tabGet [] (s.core k).chans (128 * i + sink)

def State.setChan (s : State) (k i sink : Nat) (t : List Queued) : State :=
  let c := s.core k
  s.setCore k { c with chans := if t = [] then tabDel c.chans (128 * i + sink) else tabPut c.chans (128 * i + sink) t }

/-- A free value: the next draw (assumption 7). -/
def State.drawn (s : State) : State := { s with draws := s.draws + 1 }

/-- HBM_TOP (R31, R33): zero until boot writes the registers. -/
def State.hbmTop (s : State) : Nat := if s.boot.dtValid then 4096 * 1024 * s.boot.test.ilvG else 0

/-- Whether scope `sc` of the first core contains the second agent's core (R18): .core, .layer, .chip, .ret, .pkg and wider. -/
def inScope (sc : Nat) (k j : Nat) : Bool :=
  if sc ≤ 1 then k == j else if sc ≤ 3 then k / 16 == j / 16 else if sc = 4 then k / 32 == j / 32 else true

/-! ## Time (R63 to R66) -/

/-- 2^-48 ns in one nanosecond. -/
def nsUnit : Nat := 2 ^ 48

/-- A time in 2^-48 ns as the 96-bit value of R63. -/
def time96 (t : Nat) : BitVec 96 :=
  BitVec.ofNat 96 ((t / (1000000000 * nsUnit)) * 2 ^ 48 + (t / nsUnit % 1000000000) * 2 ^ 16 + t / 2 ^ 32 % 2 ^ 16)

/-- The time of a reticle's unit. -/
def State.timeOf (s : State) (r : Nat) : BitVec 96 := time96 (s.time.now.getD r 0)

/-- The package master's time in 2^-48 ns (R64), and whether more than a number of microseconds have passed since a time. -/
def State.clock (s : State) : Nat := s.time.now.getD 0 0
def State.older (s : State) (since us : Nat) : Bool := decide (since + us * (1000 * nsUnit) < s.clock)

/-- Let cycles pass: every unit adds TMRATE at each, the units of other reticles within 1 ns of the master and never back; the first of them
adds the step that TMSTEP has written; SKEW keeps the greatest difference (R63, R64). -/
def TimeUnit.pass (t : TimeUnit) (cycles draw : Nat) : TimeUnit :=
  let m := t.now.getD 0 0 + cycles * t.rate.toNat + (if cycles = 0 then 0 else t.step)
  let follow : Nat → Nat := fun r =>
    let off := clampInt (-(nsUnit : Int)) nsUnit (Config.unitOffset draw r)
    max (t.now.getD r 0) (m + off).toNat
  let now := [m, follow 1, follow 2, follow 3]
  let apart := now.foldl max 0 - now.foldl min m
  { t with cycle := t.cycle + cycles, now := now, step := if cycles = 0 then t.step else 0, skew := BitVec.ofNat 16 (max t.skew.toNat (apart / 2 ^ 44)) }

/-- A free number of cycles passes, within the frame in progress and, until its results are delivered, short of the cycle of delivery (R67,
R71; assumption 4). -/
def State.elapse (s : State) : State :=
  let room := 128 * s.plane.frame + (if s.plane.latched then 127 else 105) - s.time.cycle
  { s with time := s.time.pass (Config.elapsed s.draws % (room + 1)) s.draws, draws := s.draws + 1 }

/-! ## Memory at its homes -/

/-- The place of a location in the one memory: each space has its own range of keys. A remote location has none. -/
def Loc.key : Loc → Nat
  | .hbm p => p
  | .host a => 2 ^ 50 + a
  | .vault v off => 2 ^ 51 + v * 2 ^ 26 + off
  | .tile c i off => 2 ^ 52 + (c * 256 + i) * 2 ^ 17 + off
  | .dt off => 2 ^ 53 + 2 ^ 40 + off
  | .remote pkg p => 2 ^ 55 + pkg.toNat * 2 ^ 45 + p

/-- A core's code memory and data memory (R238). -/
def codeKey (k a : Nat) : Nat := 2 ^ 53 + k * 2 ^ 16 + a
def dmemKey (k a : Nat) : Nat := 2 ^ 54 + k * 2 ^ 16 + a

def State.byte (s : State) (key : Nat) : Byte := memGet s.m.mem key

def State.bytes (s : State) (key n : Nat) : List Byte := memBytes s.m.mem key n

def State.store (s : State) (key : Nat) (bs : List Byte) : State := { s with m := { s.m with mem := memStore s.m.mem key bs } }

/-- The unit that an error poisons: 64 aligned bytes in HBM, 8 in SRAM (R40). A unit of a line that an LLC slice holds is named by the line's
HBM offset above 2^56 (R39). -/
def llcKey (p : Nat) : Nat := 2 ^ 56 + p
def poisonUnit (key : Nat) : Nat := if key < 2 ^ 50 then key / 64 * 64 else key / 8 * 8
def poisonSize (key : Nat) : Nat := if key < 2 ^ 50 then 64 else 8

/-- The place of memory that a unit holds. -/
def poisonAt (u : Nat) : Nat := if u < 2 ^ 56 then u else u - 2 ^ 56

/-- The poisoned units that bytes from `key` touch. -/
def State.poisonedIn (s : State) (key n : Nat) : List Nat :=
  s.m.poison.filter (fun u => decide (poisonAt u < key + n) && decide (key < poisonAt u + poisonSize u))

/-- The ECC log that a place belongs to (R42): its slice's, or its core's vault controller's. -/
def State.eccNode (s : State) (key : Nat) : Nat :=
  if key < 2 ^ 50 then (s.boot.test.stackOf key).1
  else if 2 ^ 56 ≤ key then (s.boot.test.stackOf (key - 2 ^ 56)).1
  else if key < 2 ^ 52 then 16 + (key - 2 ^ 51) / 2 ^ 26
  else 16 + (key - 2 ^ 52) / 2 ^ 25

def EccLog.clear : EccLog := ⟨false, false, 0, 0, 0, 0, 0⟩

/-- Add one, saturating (R42). -/
def satInc (x : BitVec 16) : BitVec 16 := if x = 0xFFFF then x else x + 1

/-- Log an uncorrectable error at a unit (R42). -/
def State.logUe (s : State) (key : Nat) (syn : BitVec 16) : State :=
  let n := s.eccNode key
  let l := tabGet EccLog.clear s.m.ecc n
  let kind : BitVec 2 := if key < 2 ^ 50 ∨ 2 ^ 56 ≤ key then 0 else if key < 2 ^ 52 then 1 else 2
  let addr : Word :=
    if key < 2 ^ 50 ∨ 2 ^ 56 ≤ key then BitVec.ofNat 64 (poisonAt (poisonUnit key))
    else if key < 2 ^ 52 then
      let v := (key - 2 ^ 51) / 2 ^ 26
      BitVec.ofNat 64 ((v / 16) * 2 ^ 33 + (v % 16) * 2 ^ 29 + poisonUnit key % 2 ^ 26)
    else
      let ci := (key - 2 ^ 52) / 2 ^ 17
      let cell := match (s.core (ci / 256)).occ with | some x => x.cell.toNat | none => 0
      BitVec.ofNat 64 (cell * 2 ^ 25 + (ci % 256) * 2 ^ 17 + poisonUnit key % 2 ^ 17)
  let l' := { l with ue := satInc l.ue }
  let l'' := if l.valid then { l' with ovf := true } else { l' with valid := true, kind := kind, addr := addr, syn := syn }
  { s with m := { s.m with ecc := tabPut s.m.ecc n l'' } }

/-- Whether a granule of an FE page is full (R197); granules are named by their key over 8. -/
def State.isFull (s : State) (key : Nat) : Bool := s.m.full.contains (key / 8)
def State.fill (s : State) (key : Nat) : State := { s with m := { s.m with full := setIns s.m.full (key / 8) } }
def State.empty (s : State) (key : Nat) : State := { s with m := { s.m with full := setDel s.m.full (key / 8) } }

/-- Cores and bytes of a line in a bank (R166). -/
def lineByte (l : Line) (i : Nat) : Byte := BitVec.ofNat 8 (l.toNat / 2 ^ (8 * i))

/-- The 128 bytes of a line, byte 0 in the low bits (R244). -/
def lineBytes (l : Line) : List Byte := leBytes 128 l.toNat
def lineOf (bs : List Byte) : Line := BitVec.ofNat 1024 (leNat bs)

/-- Replace bytes of a line from position `i`. -/
def linePatch (l : Line) (i : Nat) (bs : List Byte) : Line :=
  let old := lineBytes l
  lineOf (old.take i ++ bs ++ old.drop (i + bs.length))

/-- Bytes written in a bank line, from byte `i` upwards. -/
def BankLine.dirtyBytes (b : BankLine) : List (Nat × Byte) :=
  ((List.range 128).filter (fun i => b.dirty.getLsbD i)).map (fun i => (b.pa + i, lineByte b.data i))

/-! ## The LLC (R34, R35) -/

/-- The next way that tree pseudo-LRU names, and the tree after a touch of a way that makes it most or least recently used. -/
def plruVictim (t : BitVec 15) : Nat :=
  let b : Nat → Nat := fun i => if t.getLsbD i then 1 else 0
  let n1 := b 0
  let n2 := b (1 + n1)
  let n3 := b (3 + 2 * n1 + n2)
  let n4 := b (7 + 4 * n1 + 2 * n2 + n3)
  8 * n1 + 4 * n2 + 2 * n3 + n4

def plruTouch (t : BitVec 15) (way : Nat) (mru : Bool) : BitVec 15 :=
  let set : BitVec 15 → Nat → Nat → BitVec 15 := fun t i side =>
    let away := if mru then side == 0 else side == 1
    if away then t ||| BitVec.ofNat 15 (2 ^ i) else t &&& ~~~(BitVec.ofNat 15 (2 ^ i))
  let w1 := way / 8 % 2
  let w2 := way / 4 % 2
  let w3 := way / 2 % 2
  let t1 := set t 0 w1
  let t2 := set t1 (1 + w1) w2
  let t3 := set t2 (3 + 2 * w1 + w2) w3
  set t3 (7 + 4 * w1 + 2 * w2 + w3) (way % 2)

/-- The set of a line in its slice (R34). -/
def llcIndex (so : Nat) : Nat := Nat.xor (so / 2 ^ 7 % 2 ^ 16) (so / 2 ^ 23 % 2 ^ 16)

/-- What an access of a policy does to its slice's tags (R35); `write` is an access that writes, which under code 11 drops the line. Only
latency depends on the tags. A hit makes a line most recently used, or least under code 10, and a line goes to the lowest-numbered empty way
(assumption 92, DESIGN CHOICE). -/
def State.llcTouch (s : State) (p : Nat) (cp : BitVec 2) (write : Bool) : State :=
  let (stk, so) := s.boot.test.stackOf p
  let k := stk * 65536 + llcIndex so
  let st := tabGet ⟨List.replicate 16 none, 0⟩ s.m.llc k
  let line := so / 128
  let way := match (List.range 16).find? (fun w => st.ways.getD w none == some line) with
    | some w => some w
    | none => none
  let st' := match way with
    | some w =>
      if cp = 3 ∧ write then { st with ways := st.ways.set w none } else { st with plru := plruTouch st.plru w (cp != 2) }
    | none =>
      if cp = 3 then st
      else
        let w := (((List.range 16).find? (fun w => st.ways.getD w none == none)).getD (plruVictim st.plru))
        { ways := st.ways.set w (some line), plru := plruTouch st.plru w (cp != 2) }
  { s with m := { s.m with llc := tabPut s.m.llc k st' } }

/-- The lines of a range of HBM in their slices' tags, as an access of a policy passes through them. -/
def State.llcRange (s : State) (p n : Nat) (cp : BitVec 2) (write : Bool) : State :=
  (List.range ((p + n + 127) / 128 - p / 128)).foldl (fun s i => s.llcTouch (p / 128 * 128 + 128 * i) cp write) s

/-! ## Sites (R229) -/

def siteRow (i : Nat) : Nat := i / 18
def siteCol (i : Nat) : Nat := i % 18

/-- A site of a hard-block column. -/
def isHard (i : Nat) : Bool := siteCol i == 7 || siteCol i == 15

/-- A C site, and an M site. -/
def isCSite (i : Nat) : Bool := decide (i < 216) && !isHard i && (siteRow i + siteCol i) % 2 == 0
def isMSite (i : Nat) : Bool := decide (i < 216) && !isHard i && (siteRow i + siteCol i) % 2 == 1

/-- The site of a port block, and the port block of a site. -/
def portSite (n : Nat) : Nat := (2 + n / 2) * 18 + (if n % 2 = 0 then 7 else 15)
def sitePort (i : Nat) : Option Nat :=
  if isHard i && decide (2 ≤ siteRow i) && decide (siteRow i ≤ 9) then some (2 * (siteRow i - 2) + (if siteCol i = 7 then 0 else 1)) else none

/-- A frame of a site, zero where it is not loaded. -/
def Site.frame (x : Site) (i : Nat) : Frame := x.frames.getD i 0

/-- The role of an M tile (R311): 0 none, 1 addressed buffer, 2 token FIFO, 3 REPEAT, 4 cache bank. -/
def Site.role (x : Site) : Nat := bits (x.frame 0) 2 0

/-! ## Write-backs (R40, R166, R170) -/

/-- The sites of a core's cache banks in ascending order (R274). -/
def State.bankSites (s : State) (k : Nat) : List Nat :=
  ((s.core k).sites.filter (fun x => isMSite x.1 && x.2.role == 4)).map (fun x => x.1)

/-- Bank and set of a line of a VA among `n` banks (R274); `v` is the line's VA over 128. -/
def bankSet (n v : Nat) : Nat × Nat := (v / 128 % n, v % 128)

/-- The site of the bank that a line of a VA belongs to. -/
def State.bankSite (s : State) (k v : Nat) : Nat :=
  let l := s.bankSites k
  l.getD (bankSet l.length v).1 0

/-- An uncorrectable error is found in an M tile: the step stops it at its end (R270). -/
def State.strikeTile (s : State) (k i : Nat) : State := { s with m := { s.m with struck := if s.m.struck.contains (k, i) then s.m.struck else s.m.struck ++ [(k, i)] } }

/-- The positions in a bank line of a poisoned unit's bytes. -/
def BankLine.unitBytes (b : BankLine) (u : Nat) : List Nat := (List.range (poisonSize u)).map (fun j => poisonAt u + j - b.pa)

/-- Write back the dirty bytes of one line: only the bytes written, never the whole line (R166). At its home it is a write like another: units
that it covers whole lose their poison; one that it covers in part stays as it is, and the core takes ECC_UNCORR (R40). A unit that an error has
struck in the bank has no bytes to write, its place is poisoned, and the tile stops (R270; assumption 91, DESIGN CHOICE). -/
def State.writeBackLine (s : State) (b : BankLine) : State :=
  if b.dirty = 0 then s
  else
    let written : Nat → Bool := fun i => b.dirty.getLsbD i
    let struck : Nat → Bool := fun i => b.bad.getLsbD (i / 8)
    let hit := (s.poisonedIn b.pa 128).filter (fun u => (b.unitBytes u).any written)
    let stuck := hit.filter (fun u => !(b.unitBytes u).all written)
    let freed := hit.filter (fun u => (b.unitBytes u).all written)
    let lands := b.dirtyBytes.filter (fun p => !struck (p.1 - b.pa) && !stuck.any (fun u => (b.unitBytes u).contains (p.1 - b.pa)))
    let gone := (List.range 16).filter (fun j => b.bad.getLsbD j && (List.range 8).any (fun i => written (8 * j + i)))
    let s1 := stuck.foldl (fun s u => s.logUe u 0) (s.llcTouch b.pa 0 true)
    let s2 := if gone = [] then s1 else s1.strikeTile b.core (s1.bankSite b.core b.va)
    { s2 with
      m := { s2.m with
             mem := lands.foldl (fun m p => memPut m p.1 p.2) s2.m.mem
             poison := gone.foldl (fun l j => setIns l (llcKey (b.pa + 8 * j))) (s2.m.poison.filter (fun u => !freed.contains u))
             lost := s2.m.lost ++ stuck.map (fun u => (b.core, BitVec.ofNat 64 (128 * b.va + poisonAt u % 128))) } }

/-- Write back the dirty bytes of bank lines. -/
def State.writeBack (s : State) (ls : List BankLine) : State := { s with m := (ls.foldl State.writeBackLine s).m }

/-- Write back and drop the bank lines of a core that a condition selects (R170, R210, R145). -/
def State.dropLines (s : State) (k : Nat) (sel : BankLine → Bool) : State :=
  let gone := s.m.banks.filter (fun b => b.core == k && sel b)
  let s' := s.writeBack gone
  { s' with m := { s'.m with banks := s'.m.banks.filter (fun b => !(b.core == k && sel b)) } }

/-- Write back the dirty lines of a core that a condition selects, keeping them clean. -/
def State.cleanWhere (s : State) (k : Nat) (sel : BankLine → Bool) : State :=
  let s' := s.writeBack (s.m.banks.filter (fun b => b.core == k && sel b))
  { s' with m := { s'.m with
      banks := s'.m.banks.map (fun b => if b.core = k ∧ sel b then { b with dirty := 0, synced := false } else b) } }

/-- Write back every dirty line of a core (R170 release). -/
def State.cleanLines (s : State) (k : Nat) : State := s.cleanWhere k (fun _ => true)

/-- What a core's banks hold dirty comes before what follows a release at .core: before a later write of the core's agents performs at a home, it
is written back (R170, R175; assumption 117, DEDUCED). -/
def State.syncLines (s : State) (k : Nat) : State :=
  { s with m := { s.m with banks := s.m.banks.map (fun b => if b.core = k ∧ b.dirty ≠ 0 then { b with synced := true } else b) } }

/-- Write back what a core's banks hold dirty behind a release at .core. -/
def State.cleanSynced (s : State) (k : Nat) : State := s.cleanWhere k BankLine.synced

/-- The bank actions of an acquire and of a release at a scope (R170). -/
def State.acquireBanks (s : State) (k : Nat) (sc : Scope) : State := if sc.toNat ≤ 1 then s else s.dropLines k (fun _ => true)
def State.releaseBanks (s : State) (k : Nat) (sc : Scope) : State := if sc.toNat ≤ 1 then s.syncLines k else s.cleanLines k

/-! ## Accesses and packets -/

/-- The node number of a core and of a stack's base die in this package (R214). -/
def coreNode (k : Nat) : Nat := 32 * (k / 16) + k % 16
def stackNode (n : Nat) : Nat := 16 + n

/-- The core of another package that a node number names, if it is a core's: its number runs on from 128 for each package, so that `coreNode` gives
its node again (R214). -/
def farCore (n : Nat) : Option Nat := if 256 ≤ n ∧ n % 32 < 16 then some (16 * (n / 32) + n % 32) else none

/-- The core that a node number names, if it is a core's. -/
def nodeCore (n : Nat) : Option Nat := if n < 256 ∧ n % 32 < 16 then some (16 * (n / 32) + n % 32) else none

/-- The die of a node: a core's, or the one that a base die flanks (R11, R214). -/
def nodeDie (n : Nat) : Nat := if n % 32 < 16 then n % 256 / 32 else (n % 32 - 16) / 2

/-- The home of a location (R165) as a node; another package's as that package's number. -/
def State.homeNode (s : State) : Loc → Nat
  | .hbm p => stackNode (s.boot.test.stackOf p).1
  | .host _ => stackNode 3
  | .vault v _ => coreNode v
  | .tile c _ _ => coreNode c
  | .dt _ => stackNode ((s.boot.test.engineStack 0).getD 0)
  | .remote pkg _ => 256 * (pkg.toNat + 1)

/-- The node an agent's packets leave from. -/
def State.agentNode (s : State) : Agent → Nat
  | .copyEng r _ => stackNode ((s.boot.test.engineStack r.toNat).getD 0)
  | .gatherEng r _ => stackNode ((s.boot.test.engineStack r.toNat).getD 0)
  | .ckptEng r _ => stackNode ((s.boot.test.engineStack r.toNat).getD 0)
  | .remote pkg node _ => 256 * (pkg.toNat + 1) + node.toNat
  | a => coreNode ((a.coreIx).getD 0)

/-- KIND of a request (R214). -/
def ReqOp.kind : ReqOp → BitVec 4
  | .read => 0
  | .write => 1
  | .amo _ => 2
  | .cas => 3
  | .cas16 => 4

/-- The addresses in a granule: two accesses meet where their granules do (R165). -/
def Loc.meets (a : Loc) (n : Nat) (b : Loc) (m : Nat) : Bool :=
  decide (a.key / 8 ≤ (b.key + m - 1) / 8) && decide (b.key / 8 ≤ (a.key + n - 1) / 8)

/-- Accesses of an agent that are not answered yet. -/
def State.outstanding (s : State) (a : Agent) : List Access := s.net.accesses.filter (fun x => x.agent == a)

/-- An access whose requester takes its answer up itself. -/
def Access.fetches (x : Access) : Bool := x.dest == .fetch

/-- The same agent's earlier accesses to the same granules: they perform first (R172). -/
def State.sameGranule (s : State) (a : Agent) (l : Loc) (n : Nat) : List Nat :=
  ((s.outstanding a).filter (fun x => !x.fetches && x.loc.meets x.size l n)).map Access.id

/-- A place some bytes further. -/
def Loc.plus (l : Loc) (n : Nat) : Loc :=
  match l with
  | .hbm p => .hbm (p + n)
  | .host a => .host (a + n)
  | .remote g p => .remote g (p + n)
  | .vault v o => .vault v (o + n)
  | .tile c i o => .tile c i (o + n)
  | .dt o => .dt (o + n)

/-- Places that lie outside the package: only a request's answer tells what they hold. -/
def Loc.outside : Loc → Bool
  | .host _ => true
  | .remote .. => true
  | _ => false

/-- A place in another package, whose home finds whether it exists only as it performs (R30). -/
def Loc.far : Loc → Bool
  | .remote .. => true
  | _ => false

/-- Units a packet adds to a sillage counter: those of its payload or those it requests, at least one (R138). -/
def Packet.units (p : Packet) : Nat := max 1 (max ((p.payload.length + 127) / 128) (if p.kind = 0 then p.lines.toNat + 1 else 0))

/-- A packet that the old site of a moved cell has forwarded (R148). -/
def Packet.forwarded (p : Packet) : Bool := p.dset == 1 && p.kind != 10

/-- A route update of class SYS on its way to a sender (R147). -/
def Packet.isRoute (p : Packet) : Bool := p.cls == 3 && p.kind == 13 && p.addr == 1 && decide (p.src < 256)

/-- A request for a vault, which travels on the vault die's lateral network (R138). -/
def State.forVault (s : State) (p : Packet) : Bool :=
  p.cls == 0 && s.net.accesses.any (fun x => x.id == p.access && (match x.loc with | .vault .. => true | _ => false))

/-- Sillage: a REQ or STR packet that leaves a core for another core of its die counts its units there; flip markers, forwarded packets and
vault accesses are not counted (R138). A counter saturates. -/
def State.countSillage (s : State) (p : Packet) : State :=
  match nodeCore p.src, nodeCore p.dst with
  | some c, some t =>
    if c / 16 = t / 16 ∧ c ≠ t ∧ (p.cls = 0 ∨ p.cls = 2) ∧ p.kind ≠ 9 ∧ !p.forwarded ∧ !s.forVault p then
      let k := c * 16 + t % 16
      let v := tabGet 0 s.swap.sill k
      { s with swap := { s.swap with sill := tabPut s.swap.sill k (BitVec.ofNat 32 (min (v.toNat + p.units) (2 ^ 32 - 1))) } }
    else s
  | _, _ => s

/-- Put a packet on the network; its place in the list is its age. -/
def State.sendPacket (s : State) (p : Packet) : State :=
  let s1 := s.countSillage p
  { s1 with net := { s1.net with packets := s1.net.packets ++ [{ p with id := s1.net.nextId }], nextId := s1.net.nextId + 1 } }

/-- SPORT of an agent's packets (R214): a multicast is in the hands of port block p0 (R222). -/
def agentPort : Agent → BitVec 4
  | .port _ n => n
  | .multi .. => 0
  | .remote _ _ n => n
  | _ => 15

/-- OP of a request, operation and size of KIND 2 to 4 (R214): the spec lays out no more of it, and the model places the operation in the low
bits and the binary logarithm of the size above it (assumption 45, DESIGN CHOICE). -/
def ReqOp.code (op : ReqOp) (size : Nat) : BitVec 8 :=
  match op with
  | .read => 0
  | .write => 0
  | .amo o => BitVec.ofNat 8 (o.toNat + 16 * Nat.log2 size)
  | _ => BitVec.ofNat 8 (16 * Nat.log2 size)

/-- The cores that a channel's packets leave from and go to: the old ones until its flip marker has left (R147). -/
def State.routeTo (s : State) (cls : BitVec 2) (rclass : BitVec 4) (src dst : Nat) : Nat × Nat :=
  match s.swap.flips.find? (fun f => f.cls == cls && f.rclass == rclass && f.src == src && f.newCore == dst && !f.sent) with
  | some f => (f.oldSrc, f.oldCore)
  | none => (src, dst)

/-- The nodes of a request: one for tile space goes by the route of its channel (R147). -/
def State.requestRoute (s : State) (x : Access) : Nat × Nat :=
  let src := s.agentNode x.agent
  let dst := s.homeNode x.loc
  match x.loc, nodeCore src, nodeCore dst with
  | .tile .., some c, some k => let r := s.routeTo 0 0 c k; (coreNode r.1, coreNode r.2)
  | _, _, _ => (src, dst)

/-- The route class on which a packet has left its sender. What an adder emits travels on the adder's downstream class, and OP tells the sender's
(R227; assumption 106, DESIGN CHOICE). -/
def Packet.channel (p : Packet) : BitVec 4 := if p.cls = 2 ∧ p.op ≠ 0 then (p.op - 1).setWidth 4 else p.rclass

/-- A channel carries a packet by its old route. -/
def Flip.carries (f : Flip) (p : Packet) : Bool := coreNode f.oldSrc == p.src && f.cls == p.cls && f.rclass == p.channel

/-- A packet that reaches the old site of a moved cell ahead of its channel's flip marker goes on to the new site, once (R148). -/
def State.forwardTo (s : State) (k : Nat) (p : Packet) : Option Flip :=
  if p.forwarded then none
  else s.swap.flips.find? (fun f => f.carries p && f.oldCore == k && f.newCore != k && !f.gone)

/-- A packet came by a new route whose marker is still due: one from a core that a moved cell has left belongs to the departed cell until
that cell's marker has come (R148). -/
def State.awaitsFlip (s : State) (k : Nat) (p : Packet) : Bool :=
  p.dset == 0 && !s.swap.flips.any (fun f => f.carries p && f.newCore == k && f.oldCore == k) &&
  s.swap.flips.any (fun f => coreNode f.src == p.src && f.newCore == k && f.cls == p.cls && f.rclass == p.channel)

/-- ADDR of a request (R214): the PA of a global access, which has been translated (R30), else the V- or T-address. -/
def Access.wire (x : Access) : Word :=
  match x.loc with
  | .hbm p => BitVec.ofNat 64 p
  | .host a => BitVec.ofNat 64 (2 ^ 50 + a)
  | .remote g o => BitVec.ofNat 64 (2 ^ 51 + g.toNat * 2 ^ 45 + o)
  | _ => x.ea

/-- Send an access to its home as a request packet (R214). The access takes the next identity. -/
def State.request (s : State) (x : Access) : State :=
  let id := s.net.nextId
  let x' := { x with id := id }
  let r := s.requestRoute x
  let pk : Packet :=
    { id := 0, cls := 0, rclass := 0, kind := x.op.kind, src := r.1, sport := agentPort x.agent, dst := r.2,
      dport := 0, tag := BitVec.ofNat 16 id, addr := x.wire, dset := 0, lines := 0,
      op := x.op.code x.size, asn := x.asn, access := id, payload := x.data, badHeader := false }
  let s' := { s with net := { s.net with accesses := s.net.accesses ++ [x'], nextId := id + 1 } }
  s'.sendPacket pk

/-- Answer an access: read data, an acknowledgement or an error (R214 KIND 5 to 7). -/
def State.respond (s : State) (x : Access) (kind : BitVec 4) (cause : Nat) (bs : List Byte) : State :=
  s.sendPacket
    { id := 0, cls := 1, rclass := 0, kind := kind, src := s.homeNode x.loc, sport := 15, dst := s.agentNode x.agent, dport := 0,
      tag := BitVec.ofNat 16 x.id, addr := 0, dset := 0, lines := 0, op := BitVec.ofNat 8 cause, asn := 0, access := x.id,
      payload := bs, badHeader := false }

/-- Two packets have left one adder, or one pod link, for one class of a port (R227). -/
def Packet.sameHop (p q : Packet) : Bool :=
  p.cls == 2 && q.cls == 2 && p.access != 0 && q.access == p.access && q.dst == p.dst && q.dport == p.dport && q.rclass == p.rclass

/-- A packet may be handed over: no older packet of its source, destination and class, or of its adder, is on the way (R213, R227). -/
def State.deliverable (s : State) (p : Packet) : Bool :=
  !((s.net.packets.takeWhile (fun q => q.id != p.id)).any (fun q => (q.src == p.src && q.dst == p.dst && q.cls == p.cls) || p.sameHop q))

def State.findPacket (s : State) (id : Nat) : Option Packet := s.net.packets.find? (fun p => p.id == id)

def State.takePacket (s : State) (id : Nat) : State :=
  { s with net := { s.net with packets := s.net.packets.filter (fun p => p.id != id) } }

def State.findAccess (s : State) (id : Nat) : Option Access := s.net.accesses.find? (fun x => x.id == id)

/-- An access has been answered, and its answer has arrived. -/
def State.answered (s : State) (x : Access) : Bool := x.done && !s.net.packets.any (fun p => p.access == x.id && decide (p.cls.toNat ≤ 1))

/-- Forget an answered access, in every list of waits. -/
def State.dropAccess (s : State) (id : Nat) : State :=
  { s with net := { s.net with accesses := s.net.accesses.filter (fun x => x.id != id) } }

/-- A PUB store's delivery on its way to a subscribed core (R196): write data of class RSP. -/
def Packet.isPub (p : Packet) : Bool := p.cls == 1 && p.kind == 1

/-- Whether accesses of a list, or deliveries of theirs, are still on their way. -/
def State.waitsFor (s : State) (ids : List Nat) : Bool :=
  ids.any (fun i => s.net.accesses.any (fun x => x.id == i) || s.net.packets.any (fun p => p.isPub && p.access == i))

/-- What a release of an agent waits for: its earlier accesses and their PUB deliveries (R170, R176). -/
def State.openIds (s : State) (a : Agent) : List Nat :=
  ((s.outstanding a).filter (fun x => !x.fetches)).map Access.id ++
  (s.net.packets.filter (fun p => p.isPub && p.src == s.agentNode a)).map Packet.access

/-! ## Records, queues and tasks -/

def Queue.reset : Queue :=
  { st := .idle, err := 0, sqBase := 0, cqBase := 0, sqLog := 0, cqLog := 0, prio := 0, intEn := false, asn := 0, ptRoot := 0, save := 0,
    head := 0, written := 0, cmds := [], resetBy := [] }

def State.queue (s : State) (q : Nat) : Queue := tabGet Queue.reset s.host.queues q

def State.setQueue (s : State) (q : Nat) (x : Queue) : State := { s with host := { s.host with queues := tabPut s.host.queues q x } }

/-- Raise an MSI-X vector (R110). -/
def State.msi (s : State) (v : Nat) : State := { s with host := { s.host with msix := s.host.msix ++ [v] } }

/-- BOOTSTAT.STAGE changes: vector 1,024 (R94, R110). -/
def State.setStage (s : State) (st : BitVec 4) : State :=
  if s.boot.stage = st then s else { s with boot := { s.boot with stage := st } }.msi 1024

/-- Boot halts with a code (R94). -/
def State.bootHalt (s : State) (code : BitVec 8) : State := { s with boot := { s.boot with code := code } }.setStage 0xF

/-! ## Resets (R86, R96, R97, R101, R119, R140, R202, R226) -/

def MergeUnit.reset : MergeUnit := ⟨256, 0, 0, 0, []⟩

/-- Disarm the contention ports that a condition on core numbers selects (R86). Waiting arms go too. A frame that has started completes on the
line: a contender that has entered it goes on driving, and its result is discarded. -/
def Plane.disarm (p : Plane) (sel : Nat → Bool) : Plane :=
  { p with
    ports := p.ports.filter (fun a => !sel (a.1 / 16)), queued := p.queued.filter (fun a => !sel (a.1 / 16))
    gone := p.gone ++ p.ports.filter (fun a => sel (a.1 / 16) && a.2.entered && !a.2.listen) }

/-- Copy 64 KiB of bytes between two places of memory, as a list of entries moved. -/
def memCopy (m : Memory) (src dst n : Nat) : Memory :=
  let got := m.filter (fun c => decide (src ≤ c.1) && decide (c.1 < src + n))
  let cleared := m.filter (fun c => !(decide (dst ≤ c.1) && decide (c.1 < dst + n)))
  got.foldl (fun m c => memPut m (c.1 - src + dst) c.2) cleared

/-- A flow table entry with VALID clear (R55). -/
def flowOff (e : List Byte) : List Byte :=
  match e with
  | [] => []
  | b :: rest => (b &&& 0xFE#8) :: rest

/-- Warm reset (R96, R97): dirty bank lines are written back first; engines, queues and tails, the fabric, every control core and save
state in flight are cleared, with the translations that the ATUs among the engines hold (R13); memory, the slices, logs, tables, time,
SPFRAME, QTBASE and firmware's store stay, and so does a forced throttle (assumption 93, DESIGN CHOICE). A register whose description names no
other value for a warm reset, and which R96 does not keep, takes its reset value: the monitors, MAXTEMP, THR, the flow tables (R6). Accesses that a
home has accepted have performed; the others are discarded, but for those of other packages, which the memory nodes go on serving, the .fe loads
that wait for a fill among them. -/
def State.warmReset (s : State) : State :=
  let wb := s.writeBack s.m.banks
  { wb with
    cores := [],
    m := { wb.m with
      banks := [], bankLru := [], lost := []
      deferred := wb.m.deferred.filter (fun d => match wb.findAccess d.access with | some x => x.agent.far | none => false) },
    mon := { wb.mon with temp := [], tvalid := 0, vdie := [], vstk := [], pmon := [], thr := [] },
    plane := { (wb.plane.disarm (fun _ => true)) with latched := wb.plane.latched },
    boot := { wb.boot with warming := true, warmReq := false, restarting := 0, maxTemp := 0 },
    host := { wb.host with tails := [], queues := [], records := [], pcie := [] },
    sched := { resvAge := 2000, ageStep := 50000, preemptAge := 1000, paused := false, tasks := [], requests := [],
               nextUid := wb.sched.nextUid, frameCache := wb.sched.frameCache },
    swap := { sill := [], arb := (List.range 8).map (fun d => (d, { Arbiter.reset with next := wb.time.cycle + 200000 })),
              exchanges := [], flips := [], far := [] },
    ckpt := { wb.ckpt with jobs := wb.ckpt.jobs.map (fun j => { j with abort := true }), asked := [] },
    x := { wb.x with atu := [], invals := [], copies := [], gathers := [], multis := [] },
    net := { wb.net with
      accesses := wb.net.accesses.filter (fun x => x.agent.far)
      packets := wb.net.packets.filter (fun p => (decide (256 ≤ p.src) && p.cls == 0) || decide (256 ≤ p.dst))
      merges := [], adders := [] },
    links := { wb.links with
      eth := wb.links.eth.map (fun e => (e.1, { e.2 with buffer := [], flows := [] })) } }

/-- Microseconds since cold reset by cycles (R3). -/
def State.cycMicros (s : State) : Nat := s.time.cycle / 2000

/-- What the control core of core `k` has outstanding has no agent any more: its .fe loads that wait, and what has been answered, are dropped; the
other accesses go on to their homes, and their answers are dropped (assumption 110, DESIGN CHOICE). -/
def State.orphanCore (s : State) (k : Nat) : State :=
  let mine : Access → Bool := fun x => x.agent == .ctl (coreOfIx k)
  let waits : Access → Bool := fun x => s.m.deferred.any (fun d => d.access == x.id)
  let left : Access → Access := fun x =>
    if mine x then { x with agent := .firmware (BitVec.ofNat 3 (k / 16)), dest := .store, acquire := none } else x
  { s with
    m := { s.m with
      lost := s.m.lost.filter (fun e => e.1 != k)
      deferred := s.m.deferred.filter (fun d => match s.findAccess d.access with | some x => !mine x | none => true) }
    net := { s.net with accesses := (s.net.accesses.filter (fun x => !(mine x && (x.done || waits x)))).map left } }

/-- Begin a die firmware restart (R96): the hub core's control core is reset with what it has outstanding, and its code memory reloaded from its
vault copy; the plane's ports of the hub core are disarmed and dispatch pauses. A third restart of a die within 1 s escalates to a warm reset (R97).
-/
def State.dieRestart (s : State) (d : BitVec 3) : State :=
  let k := 16 * d.toNat
  let recent := s.boot.restarts.filter (fun r => r.1 == d && decide (s.time.cycle < r.2 + 2000000000))
  if 2 ≤ recent.length then { s with boot := { s.boot with restarts := [] } }.warmReset
  else
    let c := s.core k
    let s1 := (s.orphanCore k).setCore k { c with ctl := { Ctl.reset true with r := CtlRegs.reset true } }
    { s1 with
      m := { s1.m with mem := memCopy s1.m.mem (Loc.key (.vault k 0x2FF0000)) (codeKey k 0) 65536 },
      plane := s1.plane.disarm (fun j => j == k),
      boot := { s1.boot with
        restarting := s1.boot.restarting ||| BitVec.ofNat 8 (2 ^ d.toNat)
        restarts := s1.boot.restarts ++ [(d, s1.time.cycle)] },
      sched := { s1.sched with paused := true } }

/-! ## Traps (R353 to R357) -/

/-- The registers a trap records (R353). -/
def CtlRegs.trapped (r : CtlRegs) (cause : Nat) (val pc : Word) : CtlRegs :=
  { r with trapCause := BitVec.ofNat 8 cause, trapVal := val, trapPc := pc }

/-- Take a trap on core `k`: TRAPCAUSE, TRAPVAL and TRAPPC are written; a user core stops and die firmware is notified (R354); a hub core
sets INTRAP and continues at 0x0040, and in a handler begins a die firmware restart instead (R355). -/
def State.trapAt (s : State) (k : Nat) (cause : Nat) (val pc : Word) : State :=
  let c := s.ctlAt k
  let r := c.r.trapped cause val pc
  if c.r.firmware then
    if c.r.inTrap then s.dieRestart (BitVec.ofNat 3 (k / 16))
    else s.setCtlAt k { c with r := { r with inTrap := true, pc := 0x40 }, wait := .none }
  else s.setCtlAt k { c with r := r, run := .stopped, wait := .none }

/-- Take a trap on the core whose turn it is. -/
def State.trap (s : State) (cause : Nat) (val pc : Word) : State := s.trapAt s.me cause val pc

/-- A fault of the instruction in progress: TRAPPC names it (R206, R353). -/
def State.faultTrap (s : State) (cause : Nat) (val : Word) : State := s.trap cause val s.pc

/-- Fault cause codes (R207). -/
def cIllegal : Nat := 0x01
def cPriv : Nat := 0x02
def cMisalign : Nat := 0x03
def cXlate : Nat := 0x04
def cPerm : Nat := 0x05
def cBounds : Nat := 0x06
def cMarkSkew : Nat := 0x07
def cCfgBad : Nat := 0x08
def cUnbound : Nat := 0x09
def cEcc : Nat := 0x0A
def cLinkDown : Nat := 0x0B
def cCkptAbort : Nat := 0x0C
def cWatchdog : Nat := 0x0D
def cBkpt : Nat := 0x0E
def cSysc : Nat := 0x0F
def cFeConflict : Nat := 0x10
def cSprintDead : Nat := 0x11
def cAtomicAlign : Nat := 0x12
def cMarkBad : Nat := 0x13
def cWaitRange : Nat := 0x14

/-- The first error response of a lost write-back that waits at a core, and its becoming the core's late fault (R40, R317; assumption 91, DESIGN
CHOICE). -/
def State.lostAt (s : State) (k : Nat) : Option Word := (s.m.lost.find? (fun e => e.1 == k)).map (fun e => e.2)
def State.takeLost (s : State) (k : Nat) (va : Word) : State :=
  let c := s.ctlAt k
  { s.setCtlAt k { c with late := some (BitVec.ofNat 8 cEcc, va), lateOp := c.r.pc } with m := { s.m with lost := s.m.lost.erase (k, va) } }

/-- Return from a trap in firmware mode: continue at TRAPPC and clear INTRAP (R355). -/
def State.returnTrap (s : State) : State := s.setCr { s.cr with inTrap := false, pc := s.cr.trapPc }

/-! ## Waiting at issue (R316, R240, R335) -/

/-- Registers that an answer still writes: those of outstanding loads and atomics (R316). -/
def State.pendingRegs (s : State) (k : Nat) : List Reg :=
  ((s.outstanding (.ctl (coreOfIx k))).map (fun x =>
    match x.dest with
    | .reg d _ => [d]
    | .pair d => [d, d + 1]
    | _ => [])).flatten

/-- A register that is not s0 and awaits a result. -/
def State.isPending (s : State) (n : Reg) : Bool := n != 0 && (s.pendingRegs s.me).contains n

/-- Run an instruction once none of the registers it names is pending: until then it waits at issue and nothing changes (R316). -/
def State.whenReady (s : State) (rs : List Reg) (f : State → State) : State := if rs.any s.isPending then s else f s

/-- Outstanding loads, with atomics, and stores of a control core (R240, R327, R329). -/
def Access.isStoreCount (x : Access) : Bool := x.dest == .store

def State.lcnt (s : State) (k : Nat) : Nat := ((s.outstanding (.ctl (coreOfIx k))).filter (fun x => !x.isStoreCount && !x.fetches)).length
def State.scnt (s : State) (k : Nat) : Nat := ((s.outstanding (.ctl (coreOfIx k))).filter Access.isStoreCount).length
def State.ccnt (s : State) (k : Nat) : Nat := (s.ctlAt k).cops.length
def State.tcnt (s : State) (k : Nat) : Nat := (s.ctlAt k).tops.length

/-- WAITCNT (R240). -/
def State.waitcnt (s : State) (k : Nat) : Word :=
  BitVec.ofNat 64 (s.lcnt k % 64 + s.scnt k % 64 * 2 ^ 8 + s.ccnt k % 64 * 2 ^ 16 + s.tcnt k % 64 * 2 ^ 24)

/-! ## Fetching -/

/-- The word of code memory at the program counter: no instruction is fetched from an address whose bits [1:0] are not zero, and the model
takes them as zero (R291, R292; assumption 10). -/
def State.fetchWord (s : State) : Nat := leNat (s.bytes (codeKey s.me (s.pc.toNat / 4 * 4)) 4)

/-- The dies' arbiters: whether a core is claimed by an exchange (R140). -/
def State.claimed (s : State) (k : Nat) : Bool := (tabGet Arbiter.reset s.swap.arb (k / 16)).claimed.getLsbD (k % 16)

/-- Die firmware of a die acts: no reset is in progress there, and its hub core is not halted (R97, R209, R361). -/
def State.fwActs (s : State) (d : Nat) : Bool :=
  !s.boot.warming && !s.boot.restarting.getLsbD d && (s.ctlAt (16 * d)).run != .halted

/-- Die firmware consumes queues and dispatches: the package runs, and no hub core restarts (R93, R97). -/
def State.fwReady (s : State) : Bool := s.boot.stage == 5 && s.fwActs 0 && s.boot.restarting == 0

/-- A control core stands at the instruction boundary at which it takes its pre-emption trap (R132, R334). -/
def State.atTrap (s : State) (k : Nat) : Bool := (s.ctlAt k).preempt && s.fwActs (k / 16)

/-- Whether a control core issues now: it runs, waits for no result, and is not stopped for an exchange or for a trap (R145, R334, R335). -/
def State.issues (s : State) : Bool := s.ctl.run == .running && s.ctl.wait == .none && !s.claimed s.me && !s.atTrap s.me

/-- The micro-op word of slot `n`: slot 8i + j stands in bits [32j+31:32j] of micro-op frame i, which is frame 1 + i of a C site (R308,
R310). -/
def Site.micro (x : Site) (n : Nat) : Nat := (x.frame (1 + n / 8)).toNat / 2 ^ (32 * (n % 8)) % 2 ^ 32

/-- A tile node's first slot and slot count (R309). -/
def Site.nodeFirst (x : Site) (n : Nat) : Nat := bits (x.frame 0) (3 + 9 * n) (9 * n)
def Site.nodeCount (x : Site) (n : Nat) : Nat := bits (x.frame 0) (8 + 9 * n) (4 + 9 * n)

/-- The node of a tile. -/
def CTile.node (t : CTile) (n : Nat) : NodeSt := if n = 0 then t.node0 else t.node1
def CTile.setNode (t : CTile) (n : Nat) (x : NodeSt) : CTile := if n = 0 then { t with node0 := x } else { t with node1 := x }

/-- The micro-op that a node in a firing issues next. -/
def State.microAt (s : State) (n : NodeRef) : Option Nat :=
  let x := s.site n.c.ix n.site.toNat
  let nd := x.ct.node n.slot.toNat
  if nd.firing && decide (nd.slot < x.nodeFirst n.slot.toNat + x.nodeCount n.slot.toNat) then some (x.micro nd.slot) else none

end Sys2Proof.Machine
end

