-- ==== Sys2Proof/Machine/Operands.lean ====
section
/-! DEFINITION. Operand forms: immediates, offsets and effective addresses of control-core words (R295 to R299, R325, R328), and the
shapes of the instructions that only compute. -/

namespace Sys2Proof

/-- Bytes of a size code (R297). -/
def Sz.bytes : Sz → Nat
  | .b => 1
  | .h => 2
  | .w => 4
  | .d => 8

end Sys2Proof

namespace Sys2Proof.Machine

/-- A 16-bit immediate, sign-extended (R319). -/
def immS (i : BitVec 16) : Word := i.signExtend 64

/-- A 16-bit immediate, zero-extended (R319). -/
def immZ (i : BitVec 16) : Word := i.setWidth 64

/-- A shift amount held in a register: its bits [5:0] (R318). -/
def shiftOf (b : Word) : Nat := b.toNat % 64

/-- The bit position of a LIZ or LIK immediate: 16 times its position field (R295, R320). -/
def piecePos (p : BitVec 2) : Nat := 16 * p.toNat

/-- LIZ: the immediate shifted to its position over zeros (R320). -/
def lizValue (p : BitVec 2) (i : BitVec 16) : Word := immZ i <<< piecePos p

/-- LIK: the immediate in its position, every other bit of the old value kept (R320). -/
def likValue (old : Word) (p : BitVec 2) (i : BitVec 16) : Word :=
  (old &&& ~~~((0xFFFF : Word) <<< piecePos p)) ||| (immZ i <<< piecePos p)

/-- The size of an atomic with an SZ bit (R298). -/
def szOf (dword : Bool) : Sz := if dword then .d else .w

/-- The effective address: base plus the sign-extended offset times the size, modulo 2^64 (R325). -/
def effAddr {w : Nat} (base : Word) (off : BitVec w) (size : Nat) : Word := base + off.signExtend 64 * BitVec.ofNat 64 size

/-- The target of a relative branch: the offset counts words (R292, R332, R333). -/
def branchTarget {w : Nat} (pc : Word) (off : BitVec w) : Word := pc + 4 * off.signExtend 64

/-- The target of JALR, with bits [1:0] cleared (R333). -/
def jalrTarget (a : Word) (i : BitVec 16) : Word := (a + immS i) &&& ~~~3

/-- The low `n` bytes of a register, low byte first (R325). -/
def regBytes (v : Word) (n : Nat) : List Byte := leBytes n v.toNat

/-- Bytes read, zero-extended into a register (R325). -/
def bytesWord (bs : List Byte) : Word := BitVec.ofNat 64 (leNat bs)

/-- An instruction that computes sD from sA and sB, once none of the three is pending (R316). -/
def State.compute3 (s : State) (d a b : Reg) (f : Word → Word → Word) : State :=
  s.whenReady [d, a, b] (fun s => s.result d (f (s.reg a) (s.reg b)))

/-- An instruction that computes sD from sA, once neither is pending (R316). -/
def State.compute2 (s : State) (d a : Reg) (f : Word → Word) : State := s.whenReady [d, a] (fun s => s.result d (f (s.reg a)))

/-- A conditional branch: it waits while an operand is pending, and continues at its target or at the next word (R332). -/
def State.branchIf (s : State) (a b : Reg) (off : BitVec 16) (taken : Word → Word → Bool) : State :=
  s.whenReady [a, b] (fun s => if taken (s.reg a) (s.reg b) then s.setPc (branchTarget s.pc off) else s.advancePc)

end Sys2Proof.Machine
end

