-- ==== Sys2Proof/Machine/Flags.lean ====
section
/-! DEFINITION. Conditions. The control core and the tiles have no flags register: no operation sets a flag (R318, R321). What takes a
flag's place is here: comparisons that write 1 or 0, branch conditions, the conditions of FCMP and the corners of division. -/

namespace Sys2Proof.Machine

/-- A truth value as a register (R318). -/
def flagWord (b : Bool) : Word := if b then 1 else 0

/-- Signed order (R318). -/
def sltCond (a b : Word) : Bool := decide (a.toInt < b.toInt)

/-- Unsigned order (R318). -/
def ultCond (a b : Word) : Bool := decide (a.toNat < b.toNat)

/-- The quotient of DIV: all ones for a zero divisor, the dividend where the quotient does not fit (R290, R318). -/
def divValue (a b : Word) : Word :=
  if b = 0 then BitVec.allOnes 64
  else if a = 0x8000000000000000 ∧ b = BitVec.allOnes 64 then a
  else BitVec.ofInt 64 (Int.tdiv a.toInt b.toInt)

/-- The remainder of REM (R318). -/
def remValue (a b : Word) : Word :=
  if b = 0 then a
  else if a = 0x8000000000000000 ∧ b = BitVec.allOnes 64 then 0
  else BitVec.ofInt 64 (Int.tmod a.toInt b.toInt)

/-- The quotient of DIVU (R318). -/
def divuValue (a b : Word) : Word := if b = 0 then BitVec.allOnes 64 else BitVec.ofNat 64 (a.toNat / b.toNat)

/-- The remainder of REMU (R318). -/
def remuValue (a b : Word) : Word := if b = 0 then a else BitVec.ofNat 64 (a.toNat % b.toNat)

/-- Zero bits above the highest set bit of `w` bits (R318, R370). -/
def clzNat (w x : Nat) : Nat := if x = 0 then w else w - 1 - Nat.log2 x

/-- Zero bits below the lowest set bit, looked for from bit `i` upwards (R318). -/
def ctzFrom (x : Nat) : Nat → Nat → Nat
  | 0, i => i
  | k + 1, i => if x.testBit i then i else ctzFrom x k (i + 1)

/-- Set bits among the low `w` (R318, R370). -/
def popcNat : Nat → Nat → Nat
  | 0, _ => 0
  | w + 1, x => x % 2 + popcNat w (x / 2)

/-- The condition of an FCMP over two FP32 codes (R322). -/
def fcmpCond (c : FCond) (a b : Nat) : Bool :=
  match c, fvCmp (fpVal .f32 a) (fpVal .f32 b) with
  | .eq, some .eq => true
  | .lt, some .lt => true
  | .le, some .lt => true
  | .le, some .eq => true
  | .un, none => true
  | _, _ => false

end Sys2Proof.Machine
end

