-- ==== Sys2Proof/Machine/Xlate.lean ====
section
/-! DEFINITION. Where an address leads: the page-table walk with its cache and attributes (R186 to R198), physical addresses (R30), and the
checks of vault and tile addresses (R36 to R38). -/

namespace Sys2Proof

/-- What an access needs of its page (R190), and whether it breaks the page's FE attribute (R184). -/
def Acc.reads (acc : Acc) : Bool := acc != .write && acc != .feWrite
def Acc.writes (acc : Acc) : Bool := acc == .write || acc == .rmw || acc == .feWrite
def Acc.breaksFe (acc : Acc) (fe : Bool) : Bool := if fe then acc == .rmw else acc == .feRead || acc == .feWrite

end Sys2Proof

namespace Sys2Proof.Machine

/-- Page attributes of a leaf (R187, R190 to R194), with the size of its page. -/
structure Attr where
  r : Bool
  w : Bool
  cow : Bool
  fe : Bool
  pub : Bool
  cp : BitVec 2
  fmt : Nat
  geo : Nat
  size : Nat
  deriving DecidableEq, Repr, Inhabited

/-- Attributes of an access that no page gives: vault and tile space, never cached (R35, R38). -/
def Attr.plain : Attr := ⟨true, true, false, false, false, 1, 0, 0, 65536⟩

/-- What a check of an address finds: its location, a page whose frame lies outside the package (R30), a fault with its cause, or a page that
a checkpoint is copying, which the issuer waits for (R158). -/
inductive Where where
  | at (l : Loc) (a : Attr)
  | hole (a : Attr)
  | fault (cause : Nat)
  | stall
  deriving DecidableEq, Repr, Inhabited

/-- The lowest VA bit of a level: a leaf there maps 2^lo bytes (R186). -/
def levelBit (lv : Nat) : Nat := 16 + 12 * lv

/-- Geometry codes that an element format allows (R193). -/
def geoOk (fmt geo : Nat) : Bool :=
  if fmt = 9 then geo == 1 else geo == 0 || (decide (geo ≤ 6) && decide (6 ≤ fmt) && decide (fmt ≤ 8))

/-- A malformed entry at a level (R188). -/
def malformed (e lv : Nat) : Bool :=
  let lo := levelBit lv
  nbits e 63 59 != 0 || nbits e 15 10 != 0 ||
  (if nbits e 1 1 = 0 then lv == 0 || nbits e 15 2 != 0 || nbits e 58 52 != 0
   else
    nbits e 51 16 % 2 ^ (lo - 16) != 0 || (nbits e 7 7 == 1 && nbits e 0 0 == 1) || (nbits e 5 5 == 1 && nbits e 6 6 == 1) ||
    decide (12 ≤ nbits e 55 52) || !geoOk (nbits e 55 52) (nbits e 58 56))

/-- A deferred leaf: V = 0, LEAF = 1, DEFER = 1 and otherwise well formed (R204). -/
def deferredLeaf (e lv : Nat) : Bool := nbits e 0 0 == 0 && nbits e 1 1 == 1 && nbits e 7 7 == 1 && !malformed e lv

/-- The attributes of a leaf (R187). -/
def leafAttr (e lv : Nat) : Attr :=
  { r := nbits e 2 2 == 1, w := nbits e 3 3 == 1, cow := nbits e 4 4 == 1, fe := nbits e 5 5 == 1, pub := nbits e 6 6 == 1,
    cp := BitVec.ofNat 2 (nbits e 9 8), fmt := nbits e 55 52, geo := nbits e 58 56, size := 2 ^ levelBit lv }

/-- CheckPA: the location of a physical address, none where R30 raises BOUNDS. -/
def State.checkPa (s : State) (pa : Nat) : Option Loc :=
  if nbits pa 51 51 = 1 then
    let pkg := nbits pa 50 45
    if s.boot.test.podMask.getLsbD pkg && pkg != s.boot.test.pkgId.toNat then some (.remote (BitVec.ofNat 6 pkg) (nbits pa 44 0)) else none
  else if nbits pa 50 50 = 1 then some (.host (nbits pa 49 0))
  else if nbits pa 49 45 = 0 ∧ nbits pa 44 0 < s.hbmTop then some (.hbm (nbits pa 44 0))
  else none

/-- The root of an address space: firmware's own for 0, else that of the queues that share the ASN, of which the lowest-numbered loaded one
is read (R101, R186; assumption 11). -/
def State.rootOf (s : State) (asn : BitVec 16) : Option Nat :=
  if asn = 0 then some Config.firmwareRoot
  else (s.host.queues.find? (fun q => q.2.asn == asn && (q.2.st == .active || q.2.st == .faulting || q.2.st == .faulted))).map (fun q => q.2.ptRoot.toNat)

/-- A cached entry of a reticle's ATU (R198). -/
def State.cached (s : State) (ret : Nat) (asn : BitVec 16) (lv page : Nat) : Option AtuEntry :=
  (tabGet [] s.x.atu ret).find? (fun e => e.asn == asn && e.level.toNat == lv && e.page == page)

/-- Keep a valid entry in the ATU: 32K entries, the oldest going first (R198). -/
def State.keepEntry (s : State) (ret : Nat) (asn : BitVec 16) (lv page e : Nat) : State :=
  let old := (tabGet [] s.x.atu ret).filter (fun x => !(x.asn == asn && x.level.toNat == lv && x.page == page))
  let new : AtuEntry := ⟨asn, BitVec.ofNat 2 lv, page, BitVec.ofNat 64 e⟩
  { s with x := { s.x with atu := tabPut s.x.atu ret ((old ++ [new]).drop (old.length + 1 - 32768)) } }

/-- The entry of a level: a cached one may serve, or the entry at its home is read, which a poisoned unit prevents (R40, R186, R198;
assumption 5). -/
def State.entryAt (s : State) (ret : Nat) (asn : BitVec 16) (lv va t : Nat) : Option Nat × State :=
  let a := t + 8 * (va / 2 ^ levelBit lv % 4096)
  let home : Nat := leNat (s.bytes a 8)
  let bad := s.poisonedIn a 8
  let fresh : State → Option Nat × State := fun s => match bad with | [] => (some home, s) | u :: _ => (none, s.logUe u 0)
  match s.cached ret asn lv (va / 2 ^ levelBit lv) with
  | some e => if (bad != [] || e.entry.toNat != home) && Config.atuHit s.draws then (some e.entry.toNat, s.drawn) else fresh s.drawn
  | none => fresh s

/-- The checkpoint that still has to copy a page of an address space (R158). -/
def State.copying (s : State) (asn : BitVec 16) (page : Nat) : Option Nat :=
  s.ckpt.jobs.findIdx? (fun j => j.cut && j.asn == asn && j.pages.any (fun p => p.1.toNat == page))

/-- A held write makes the page's engine copy that page next (R158). -/
def State.copyNext (s : State) (j page : Nat) : State :=
  match s.ckpt.jobs[j]? with
  | none => s
  | some c =>
    let it : Word × Nat × Nat → Bool := fun p => p.1.toNat == page
    let c' := { c with pages := c.pages.filter it ++ c.pages.filter (fun p => !it p) }
    { s with ckpt := { s.ckpt with jobs := c' :: s.ckpt.jobs.eraseIdx j } }

/-- The walk from level `lv - 1` downwards with its table at `t` (R186). -/
def State.walk (ret : Nat) (asn : BitVec 16) (va : Nat) (acc : Acc) : Nat → Nat → State → Where × State
  | 0, _, s => (.fault cXlate, s)
  | lv + 1, t, s =>
    if s.hbmTop ≤ t then (.fault cXlate, s)
    else
      match s.entryAt ret asn lv va t with
      | (none, s1) => (.fault cEcc, s1)
      | (some e, s1) =>
        if malformed e lv || nbits e 0 0 == 0 then (.fault cXlate, s1)
        else
          let s2 := s1.keepEntry ret asn lv (va / 2 ^ levelBit lv) e
          if nbits e 1 1 = 0 then State.walk ret asn va acc lv (nbits e 51 16 * 65536) s2
          else
            let a := leafAttr e lv
            let page := va / a.size * a.size
            if (acc.reads && !a.r) || (acc.writes && !a.w) || acc.breaksFe a.fe || (acc.writes && a.cow && (s2.copying asn page).isNone) then
              (.fault cPerm, s2)
            else
              match s2.checkPa (nbits e 51 16 * 65536 + va % a.size) with
              | none => (.hole a, s2)
              | some l =>
                if acc.writes && a.cow then
                  match s2.copying asn page with
                  | some j => (.stall, s2.copyNext j page)
                  | none => (.fault cPerm, s2)
                else (.at l a, s2)

/-- Translate a global virtual address (R186), the device window first (R189); a frame outside the package is told from a place, for a stream
unit, which checks its form first (R401). -/
def State.resolve (s : State) (ret : Nat) (asn : BitVec 16) (va : Word) (acc : Acc) : Where × State :=
  if bits va 63 52 ≠ 0 then (.fault cBounds, s)
  else if bits va 51 40 = 0xFFF then
    if bits va 51 16 ≠ 0xFFFF00000 then (.fault cXlate, s)
    else if acc.writes || acc.breaksFe false then (.fault cPerm, s)
    else (.at (.dt (bits va 15 0)) { Attr.plain with w := false }, s)
  else
    match s.rootOf asn with
    | none => (.fault cXlate, s)
    | some t => State.walk ret asn va.toNat acc 3 t s

/-- A frame outside the package is BOUNDS (R30, R188). -/
def Where.bound : Where → Where
  | .hole _ => .fault cBounds
  | w => w

/-- Translate an address and check its frame (R186, R208). -/
def State.translate (s : State) (ret : Nat) (asn : BitVec 16) (va : Word) (acc : Acc) : Where × State :=
  let r := s.resolve ret asn va acc
  (r.1.bound, r.2)

/-- The entry that ends a walk, with its level and its place: for die firmware, which reads the tables themselves (R204). -/
def State.leafPlace (s : State) (va : Nat) : Nat → Nat → Option (Nat × Nat × Nat)
  | 0, _ => none
  | lv + 1, t =>
    if s.hbmTop ≤ t then none
    else
      let a := t + 8 * (va / 2 ^ levelBit lv % 4096)
      let e := leNat (s.bytes a 8)
      if nbits e 1 1 = 1 then some (a, e, lv)
      else if malformed e lv || nbits e 0 0 == 0 then none
      else s.leafPlace va lv (nbits e 51 16 * 65536)

/-! ## Invalidation (R210) -/

/-- An entry or a line lies in a range of 64 KiB pages (R210); a count of zero names every VA. -/
def inRange (first count page npages : Nat) : Bool := count == 0 || (decide (page < first + count) && decide (first < page + npages))

/-- Remove the cached translations of a range in every ATU (R210). -/
def State.dropEntries (s : State) (asn : BitVec 16) (first count : Nat) : State :=
  { s with
    x := { s.x with
           atu := s.x.atu.map (fun t =>
             (t.1, t.2.filter (fun e =>
               !(e.asn == asn && inRange first count (e.page * 2 ^ (12 * e.level.toNat)) (2 ^ (12 * e.level.toNat)))))) } }

/-- Write back and drop every bank line of a range in every core (R210). -/
def State.dropRange (s : State) (asn : BitVec 16) (first count : Nat) : State :=
  let sel : BankLine → Bool := fun b => b.asn == asn && inRange first count (b.va / 512) 1
  let s1 := s.writeBack (s.m.banks.filter sel)
  { s1 with m := { s1.m with banks := s1.m.banks.filter (fun b => !sel b) } }

/-- The VA of the first line of a multicast read on its way (R222, R223). -/
def State.multiVa (s : State) (p : Packet) : Nat :=
  match tabFind s.x.multis p.access with
  | some e => fieldAt e.desc 0 8 + 128 * p.tag.toNat
  | none => 0

/-- An access in flight that used a translation of a range, or a multicast read on its way to its slice. -/
def State.usesRange (s : State) (asn : BitVec 16) (first count : Nat) : Bool :=
  s.net.accesses.any (fun x =>
    x.asn == asn && (match x.loc with | .vault .. => false | .tile .. => false | _ => true) &&
    inRange first count (bits x.ea 51 16) 1 && !x.done) ||
  s.net.packets.any (fun p =>
    p.cls == 0 && p.kind == 10 && p.asn == asn &&
    inRange first count (s.multiVa p / 65536) ((s.multiVa p + 128 * p.lines.toNat) / 65536 + 1 - s.multiVa p / 65536))

/-- Invalidate a range at once: for die firmware, once nothing uses an old translation (R157, R198, R210). -/
def State.invalidate (s : State) (asn : BitVec 16) (first count : Nat) : State := (s.dropEntries asn first count).dropRange asn first count

/-! ## Sites (R229) -/

/-- Role of a site of a core, 0 where it holds no frames. -/
def State.roleAt (s : State) (k i : Nat) : Nat := (s.site k i).role

/-! ## Vault and tile addresses (R36 to R38) -/

/-- The vault grants in a core's port-block frames; firmware writes the same into every port block of a region (R37, R313). -/
def State.grants (s : State) (k : Nat) : List Nat :=
  match (List.range 16).find? (fun n => (s.site k (portSite n)).frames.length == 8) with
  | none => []
  | some n =>
    let f := ((s.site k (portSite n)).frame 7).toNat
    (List.range 8).map (fun i => f / 2 ^ (32 * i) % 2 ^ 32)

/-- A grant covers `n` bytes from an offset of a vault (R37). -/
def grantCovers (g die vault off n : Nat) : Bool :=
  nbits g 26 17 != 0 && nbits g 2 0 == die && nbits g 6 3 == vault && decide (nbits g 16 7 * 65536 ≤ off) &&
  decide (off + n ≤ (nbits g 16 7 + nbits g 26 17) * 65536)

/-- Check a V-address of `n` bytes for core `k` (R36). Die firmware belongs to no region and is bound by no grant (assumption 12). -/
def State.vaultCheck (s : State) (k : Nat) (fw : Bool) (ea : Word) (n : Nat) (acc : Acc) : Where :=
  let die := bits ea 35 33
  let v := bits ea 32 29
  let off := bits ea 25 0
  if bits ea 63 36 ≠ 0 ∨ bits ea 28 26 ≠ 0 then .fault cBounds
  else if 0x3000000 < off + n ∨ 0x3000000 ≤ off then .fault cBounds
  else if !s.boot.test.coreLive (16 * die + v) then .fault cBounds
  else if fw then .at (.vault (16 * die + v) off) Attr.plain
  else if die ≠ k / 16 then .fault cBounds
  else
    let cover := (s.grants k).filter (fun g => grantCovers g die v off n)
    if cover = [] then .fault cBounds
    else if acc.reads && !cover.any (fun g => nbits g 27 27 == 1) then .fault cPerm
    else if acc.writes && cover.any (fun g => nbits g 28 28 == 0) then .fault cPerm
    else .at (.vault (16 * die + v) off) Attr.plain

/-- The core where a cell of the same region as core `k`'s occupant lies (R38, R151). -/
def State.cellCore (s : State) (k cell : Nat) : Option Nat :=
  match (s.core k).occ with
  | none => none
  | some o =>
    (s.cores.find? (fun c =>
      match c.2.occ with
      | some p => p.task == o.task && p.region == o.region && p.cell.toNat == cell
      | none => false)).map (fun c => c.1)

/-- Check a T-address for core `k` (R38): BOUNDS first, then the role. -/
def State.tileCheck (s : State) (k : Nat) (ea : Word) (n : Nat) : Where :=
  let i := bits ea 24 17
  let off := bits ea 16 0
  if bits ea 63 29 ≠ 0 then .fault cBounds
  else
    match s.cellCore k (bits ea 28 25) with
    | none => .fault cBounds
    | some j =>
      if !isMSite i || decide (0x20000 < off + n) then .fault cBounds
      else if s.roleAt j i ≠ 1 then .fault cPerm
      else .at (.tile j i off) Attr.plain

/-- The address space of a core's accesses: 0 in firmware mode, else its occupant's (R325). -/
def State.asnOf (s : State) (k : Nat) : BitVec 16 :=
  if (s.ctlAt k).r.firmware then 0 else match (s.core k).occ with | some o => o.asn | none => 0

/-- Where an address of core `k` leads, in the space it names, before a frame is checked and after. -/
def State.reach (s : State) (k : Nat) (sp : Sp) (ea : Word) (n : Nat) (acc : Acc) : Where × State :=
  match sp with
  | .g => s.resolve (reticleOf k) (s.asnOf k) ea acc
  | .v => (s.vaultCheck k (s.ctlAt k).r.firmware ea n acc, s)
  | .t => (s.tileCheck k ea n, s)

def State.place (s : State) (k : Nat) (sp : Sp) (ea : Word) (n : Nat) (acc : Acc) : Where × State :=
  let r := s.reach k sp ea n acc
  (r.1.bound, r.2)

end Sys2Proof.Machine
end

