-- ==== Sys2Proof/Machine/Access.lean ====
section
/-! DEFINITION. Memory accesses: cache banks (R166, R274), PUB deliveries (R176, R196), atomics' results (R182), and an access of the control
core from its checks to its request (R317, R325 to R331). -/

namespace Sys2Proof.Machine

/-! ## Cache banks -/

/-- The line that a core's bank holds for a VA (R274). -/
def State.bankLine (s : State) (k : Nat) (asn : BitVec 16) (va : Nat) : Option BankLine :=
  s.m.banks.find? (fun b => b.core == k && b.asn == asn && b.va == va / 128)

/-- Lines of a core that hold a place of memory, at its physical key. -/
def BankLine.holds (b : BankLine) (k key : Nat) : Bool := b.core == k && decide (b.pa ≤ key) && decide (key < b.pa + 128)

/-- Before an access of a core goes to the home, its banks write back the line of the place if it is dirty, and drop it: what the core reads
next is no older than what the access meets (R166, R172). -/
def State.yieldLine (s : State) (k key : Nat) : State := s.dropLines k (fun b => b.holds k key)

/-- Tree pseudo-LRU over the eight ways of a set (R274): the way it names, and the tree once a way is the most recently used. -/
def bankVictim (t : BitVec 7) : Nat :=
  let b : Nat → Nat := fun i => if t.getLsbD i then 1 else 0
  let n1 := b 0
  let n2 := b (1 + n1)
  4 * n1 + 2 * n2 + b (3 + 2 * n1 + n2)

def bankRecent (t : BitVec 7) (way : Nat) : BitVec 7 :=
  let away : BitVec 7 → Nat → Nat → BitVec 7 := fun t i side => if side = 0 then t ||| BitVec.ofNat 7 (2 ^ i) else t &&& ~~~(BitVec.ofNat 7 (2 ^ i))
  let w1 := way / 4 % 2
  let w2 := way / 2 % 2
  away (away (away t 0 w1) (1 + w1) w2) (3 + 2 * w1 + w2) (way % 2)

/-- Where a line's set keeps its tree. -/
def State.bankKey (s : State) (k v : Nat) : Nat := (k * 256 + s.bankSite k v) * 128 + v % 128

/-- A hit makes its line the most recently used of its set. -/
def State.bankTouch (s : State) (b : BankLine) : State :=
  let i := s.bankKey b.core b.va
  { s with m := { s.m with bankLru := tabPut s.m.bankLru i (bankRecent (tabGet 0 s.m.bankLru i) b.way) } }

def State.setBank (s : State) (b c : BankLine) : State := { s with m := { s.m with banks := s.m.banks.map (fun x => if x = b then c else x) } }

/-- Units of a bank line that bytes from an offset touch, and those that they cover whole. -/
def unitsIn (off n : Nat) : List Nat := (List.range 16).filter (fun j => decide (off < 8 * j + 8) && decide (8 * j < off + n))
def unitsWhole (off n : Nat) : List Nat := (List.range 16).filter (fun j => decide (off ≤ 8 * j) && decide (8 * j + 8 ≤ off + n))

/-- An uncorrectable error of a bank line stops an access: any unit that it reads, or one that a write does not cover whole (R40). -/
def BankLine.stops (b : BankLine) (off n : Nat) (write : Bool) : Bool :=
  (unitsIn off n).any (fun j => b.bad.getLsbD j && !(write && (unitsWhole off n).contains j))

/-- A store that a bank accepts: the line's bytes change and are dirty, and a unit that it covers whole is good again (R40, R166, R327). -/
def State.bankStore (s : State) (b : BankLine) (off : Nat) (bs : List Byte) : State :=
  let d := b.dirty ||| BitVec.ofNat 128 ((2 ^ bs.length - 1) * 2 ^ off)
  let bad := b.bad &&& ~~~(BitVec.ofNat 16 (maskOf (unitsWhole off bs.length)))
  s.setBank b { b with data := linePatch b.data off bs, dirty := d, bad := bad }

/-- Log an error of a bank line at the core's vault controller (R42): the T-address of its unit, its way and set standing in the tile in that order
(assumption 91, DESIGN CHOICE). The step stops the tile (R270). -/
def State.logBank (s : State) (b : BankLine) (off : Nat) : State :=
  (s.logUe (Loc.key (.tile b.core (s.bankSite b.core b.va) (b.way * 16384 + b.va % 128 * 128 + off / 8 * 8))) 0).strikeTile b.core
    (s.bankSite b.core b.va)

/-- Make room in a bank's set of eight ways and name the way: the lowest that is free, else that of the pseudo-LRU victim, whose line goes
(R274). -/
def State.bankRoom (s : State) (k v : Nat) : Nat × State :=
  let n := (s.bankSites k).length
  let same : BankLine → Bool := fun b => b.core == k && bankSet n b.va == bankSet n v
  match (List.range 8).find? (fun w => !(s.m.banks.any (fun b => same b && b.way == w))) with
  | some w => (w, s)
  | none =>
    let w := bankVictim (tabGet 0 s.m.bankLru (s.bankKey k v))
    (w, s.dropLines k (fun b => same b && b.way == w))

/-- Bring a line of local HBM into a core's bank, which its slice serves (R35, R166, R274). A page that is still COW is not written there
(R158), nor a PUB page (R196). -/
def State.bankFill (s : State) (k : Nat) (asn : BitVec 16) (va p : Nat) (a : Attr) : State :=
  let (way, s1) := s.bankRoom k (va / 128)
  let key := p / 128 * 128
  let b : BankLine :=
    { core := k, way := way, asn := asn, va := va / 128, pa := key, data := lineOf (s1.bytes key 128), dirty := 0, r := a.r,
      w := a.w && !a.pub && !a.cow, pub := a.pub, bad := 0 }
  let s2 := s1.llcTouch key 0 false
  ({ s2 with m := { s2.m with banks := s2.m.banks ++ [b] } }).bankTouch b

/-! ## PUB deliveries (R176, R196) -/

/-- Whether the bank of a core to which a VA's line belongs subscribes to it: four entries in role frame 1 (R274, R311). -/
def State.subscribes (s : State) (k va : Nat) : Bool :=
  let f := ((s.site k (s.bankSite k (va / 128))).frame 1).toNat
  s.bankSites k != [] &&
  (List.range 4).any (fun e =>
    let x := f / 2 ^ (64 * e)
    let base := nbits x 35 0
    let len := nbits x 63 36
    decide (base ≤ va / 65536) && decide (va / 65536 < base + len))

/-- A delivery to a core of a line is on its way, from one node or from any. -/
def State.delivering (s : State) (k : Nat) (asn : BitVec 16) (va : Nat) (src : Option Nat) : Bool :=
  s.net.packets.any (fun p =>
    p.isPub && p.dst == coreNode k && p.asn == asn && p.addr.toNat / 128 == va / 128 && (src.isNone || src == some p.src))

/-- A core's read is served from its delivered copy, whatever its ordering, where a bank that subscribes holds the line (R176). -/
def State.fromCopy (s : State) (k va : Nat) (b : BankLine) : Bool := b.pub && s.subscribes k va

/-- Send a PUB store to every core that subscribes to its line in the same address space (R196). -/
def State.publish (s : State) (id src : Nat) (asn : BitVec 16) (va : Nat) (bs : List Byte) : State :=
  (s.cores.map (fun c => c.1)).foldl
    (fun s j =>
      if s.asnOf j = asn ∧ s.subscribes j va then
        s.sendPacket
          { id := 0, cls := 1, rclass := 0, kind := 1, src := src, sport := 15, dst := coreNode j, dport := 0, tag := 0,
            addr := BitVec.ofNat 64 va, dset := 0, lines := 0, op := 0, asn := asn, access := id, payload := bs, badHeader := false }
      else s) s

/-- Stores and atomics of an agent to PUB pages whose deliveries are still due: a later one's follow them (R176; assumption 118, DEDUCED). -/
def State.untold (s : State) (a : Agent) : List Nat :=
  ((s.outstanding a).filter (fun x => x.pub && !x.told && !x.done)).map Access.id

/-- Stores to a PUB page that a core may have read from its delivered copy before they perform at their home: a later read there follows them, so
that it is not older (R172, R176). -/
def State.seenPub (s : State) (k va : Nat) (l : Loc) (n : Nat) : List Nat :=
  if !s.subscribes k va then []
  else
    (s.net.accesses.filter (fun x =>
      x.pub && x.told && !x.done && x.loc.meets x.size l n &&
      !s.net.packets.any (fun p => p.isPub && p.access == x.id && p.dst == coreNode k))).map Access.id

/-! ## Atomics (R182) -/

/-- The bits that an atomic writes: AOP 0 to 10 are ADD, AND, OR, XOR, MIN, MAX, MINU, MAXU, XCHG, FADD and FABSMAX (R182, R298). -/
def amoNew (op n old v : Nat) : Nat :=
  let w := 8 * n
  let v := v % 2 ^ w
  match op with
  | 0 => (old + v) % 2 ^ w
  | 1 => Nat.land old v
  | 2 => Nat.lor old v
  | 3 => Nat.xor old v
  | 4 => if sInt w v < sInt w old then v else old
  | 5 => if sInt w old < sInt w v then v else old
  | 6 => if v < old then v else old
  | 7 => if old < v then v else old
  | 8 => v
  | 9 => roundFV .f32 ovNone .rne (fvAdd .rne (fpVal .f32 old) (fpVal .f32 v))
  | _ => if fpVal .f32 old = .nan ∨ fpVal .f32 v = .nan then 0x7FC00000 else max (old % 2 ^ 31) (v % 2 ^ 31)

/-- What an access at its place reads, and what it writes if it writes (R182, R183). -/
def ReqOp.effect (op : ReqOp) (old data expect : List Byte) : Option (List Byte) :=
  match op with
  | .read => none
  | .write => some data
  | .amo o => some (leBytes old.length (amoNew o.toNat old.length (leNat old) (leNat data)))
  | .cas => if old = expect then some data else none
  | .cas16 => if old = expect then some data else none

/-! ## The control core's accesses -/

/-- A memory operand of the control core with what its instruction asks: `named` is the address as the instruction names it (R202). -/
structure MemOp where
  op : ReqOp
  sp : Sp
  ea : Word
  named : Word
  size : Nat
  ord : Ord
  data : List Byte
  expect : List Byte
  dest : Dest
  deriving DecidableEq, Repr

/-- AMO, CAS and CAS16. -/
def MemOp.atomic (m : MemOp) : Bool :=
  match m.op with
  | .read => false
  | .write => false
  | _ => true

/-- A load, and anything that may write. -/
def MemOp.isLoad (m : MemOp) : Bool := m.op == .read
def MemOp.acc (m : MemOp) : Acc :=
  if m.atomic then .rmw
  else
    match m.isLoad, m.ord == .fe with
    | true, false => .read
    | true, true => .feRead
    | false, false => .write
    | false, true => .feWrite

/-- The release that an access is: its scope (R169, R177). -/
def MemOp.release (m : MemOp) : Option Scope :=
  match m.ord with
  | .sync sc => if m.isLoad then none else some sc
  | .sc => some 5
  | _ => none

/-- The acquire that an access is: its scope (R169, R177). -/
def MemOp.acquire (m : MemOp) : Option Scope :=
  match m.ord with
  | .sync sc => if m.isLoad || m.atomic then some sc else none
  | .sc => some 5
  | _ => none

/-- Data memory: the global page 0 (R238). -/
def MemOp.page0 (m : MemOp) : Bool := m.sp == .g && bits m.ea 63 16 == 0

/-- Write what an access read to its destination on core `k`, zero-extended; both halves of a CAS16 (R325, R330). -/
def State.deliver (s : State) (k : Nat) (d : Dest) (bs : List Byte) : State :=
  let c := s.ctlAt k
  match d with
  | .reg d _ => s.setCtlAt k { c with r := c.r.put d (bytesWord bs) }
  | .pair d => s.setCtlAt k { c with r := (c.r.put d (bytesWord (bs.take 8))).put (d + 1) (bytesWord (bs.drop 8)) }
  | _ => s

/-- An access to the data memory performs at issue and is never counted; ordering has no effect there (R238, R239, R327). -/
def State.dataAccess (s : State) (m : MemOp) : State :=
  let key := dmemKey s.me m.ea.toNat
  let old := s.bytes key m.size
  let s1 :=
    match m.op.effect old m.data m.expect with
    | some bs => s.store key bs
    | none => s
  (s1.deliver s.me m.dest old).advancePc

/-- A fence still holds back an access (R331): .acq every access, .rel a store or atomic, .full a load. What it waits for holds over a
pre-emption, where a withdrawn .fe load is issued again. -/
def State.fenced (s : State) (m : MemOp) : Bool :=
  s.waitsFor s.ctl.acqWait || (!m.isLoad && s.waitsFor s.ctl.relWait) || (m.isLoad && s.waitsFor s.ctl.fullWait)

/-- The bank action of an acquire fence, once what it waited for has performed (R331). -/
def State.fenceAction (s : State) : State :=
  match s.ctl.acqScope with
  | none => s
  | some sc => (s.setCtl { s.ctl with acqScope := none }).acquireBanks s.me sc

/-- A count that is full: the operation stalls (R240). -/
def State.countFull (s : State) (m : MemOp) : Bool :=
  if m.op = .write then decide (63 ≤ s.scnt s.me) else decide (63 ≤ s.lcnt s.me)

/-- Acquires of the core that have not performed: later accesses follow them (R168). -/
def State.openAcquires (s : State) : List Nat :=
  ((s.outstanding (.ctl s.cur)).filter (fun x => x.acquire.isSome)).map Access.id

/-- The bank line of a core that may serve an access of one of its agents to a place: the leaf allows it, no earlier access of the agent to
the granules is on its way, nor a delivery of the core's own (R166, R172, R317). -/
def State.bankFor (s : State) (k : Nat) (ag : Agent) (asn : BitVec 16) (va n : Nat) (write : Bool) : Option BankLine :=
  match s.bankLine k asn va with
  | none => none
  | some b =>
    if (if write then b.w else b.r) && s.sameGranule ag (.hbm (b.pa + va % 128)) n == [] && !s.delivering k asn va (some (coreNode k)) then some b
    else none

/-- The bank line that may serve an access of the control core: one that is plain or of scope .core, or an acquire's read of a delivered copy;
no acquire of the core is on its way, and a release waits for every earlier access (R166, R168, R172, R176). A .sc access is the ring's
(R177; assumption 98, DEDUCED). -/
def State.bankServes (s : State) (m : MemOp) : Option BankLine :=
  let narrow := match m.ord with
    | .plain => true
    | .sync sc => decide (sc.toNat ≤ 1)
    | _ => false
  let copied := match m.ord with | .sync _ => m.isLoad | _ => false
  if m.sp != .g || m.atomic || s.openAcquires != [] || (m.release.isSome && s.outstanding (.ctl s.cur) != []) then none
  else
    match s.bankFor s.me (.ctl s.cur) (s.asnOf s.me) m.ea.toNat m.size (!m.isLoad) with
    | none => none
    | some b => if narrow || (copied && s.fromCopy s.me m.ea.toNat b) then some b else none

/-- An access past its fault point leaves for its home (R317, R170). The core's banks give up the line, but for a PUB store whose copy the
delivery changes (R196); what writes follows what the banks hold dirty behind a release (R175). A plain PUB store is delivered at once, a
release or an atomic as it performs (R174, R176). -/
def State.issueAccess (s : State) (m : MemOp) (l : Loc) (a : Attr) : State :=
  let k := s.me
  let ag : Agent := .ctl s.cur
  let s0 := if a.pub && m.op == .write && s.subscribes k m.ea.toNat then s else s.yieldLine k l.key
  let s1 :=
    match m.release with
    | some sc => (s0.releaseBanks k sc).cleanSynced k
    | none => if m.isLoad then s0 else s0.cleanSynced k
  let early := a.pub && m.op == .write && m.release.isNone && s.untold ag == []
  let waits := if m.release.isSome then s.openIds ag else s.sameGranule ag l m.size ++ s.openAcquires
  let after := waits ++ (if !a.pub then [] else if m.isLoad then s.seenPub k m.ea.toNat l m.size else s.seenPub k m.ea.toNat l m.size ++ s.untold ag)
  let x : Access :=
    { id := 0, agent := ag, op := m.op, loc := l, ea := m.named, size := m.size, data := m.data, expect := m.expect,
      fe := m.ord == .fe, sc := m.ord == .sc, fePage := a.fe, pub := a.pub && !m.isLoad, cp := a.cp, acquire := m.acquire,
      dest := m.dest, after := after, done := false, pc := s.pc, asn := s.asnOf k, err := 0, told := early }
  let id := s1.net.nextId
  let s2 := s1.request x
  let s3 := if early then s2.publish id (coreNode k) (s.asnOf k) m.ea.toNat m.data else s2
  s3.advancePc

/-- A bank serves an access of the control core: an error of the line is a fault; a load is written and its acquire performs; a store changes
the line (R40, R166, R170, R176). -/
def State.bankAccess (s : State) (m : MemOp) (b : BankLine) : State :=
  let off := m.ea.toNat % 128
  if b.stops off m.size (!m.isLoad) then (s.logBank b off).faultTrap cEcc m.named
  else
    let s1 := s.bankTouch b
    if m.isLoad then
      let s2 := s1.deliver s1.me m.dest (((lineBytes b.data).drop off).take m.size)
      (match m.acquire with | some sc => s2.acquireBanks s2.me sc | none => s2).advancePc
    else
      let s2 := s1.bankStore b off m.data
      (match m.release with | some sc => s2.releaseBanks s2.me sc | none => s2).advancePc

/-- An access that the data memory does not serve: a bank line, or a checked address and a request (R317). -/
def State.farAccess (s : State) (m : MemOp) : State :=
  let go : State → State := fun s =>
    match s.place s.me m.sp m.ea m.size m.acc with
    | (.fault c, s1) => s1.faultTrap c m.named
    | (.hole _, s1) => s1.faultTrap cBounds m.named
    | (.stall, s1) => s1
    | (.at l a, s1) => s1.issueAccess m l a
  match s.bankServes m with
  | none => go s
  | some b => if (m.isLoad && s.fromCopy s.me m.ea.toNat b) || Config.bankHit s.draws then s.drawn.bankAccess m b else go s.drawn

/-- A memory instruction of the control core. It waits while a fence or a full count holds it back; its checks come in the order of R208:
ILLEGAL, alignment, and then what the address meets. -/
def State.memory (s : State) (m : MemOp) : State :=
  if s.fenced m then s
  else if (m.ord == .sc || m.ord == .fe) && m.sp != .g || (m.page0 && m.ord == .sc) then s.faultTrap cIllegal 0
  else if m.ea.toNat % m.size ≠ 0 then s.faultTrap (if m.atomic then cAtomicAlign else cMisalign) m.named
  else if m.page0 then
    if 0x10000 < m.ea.toNat + m.size then s.faultTrap cBounds m.named
    else if m.ord = .fe then s.faultTrap cPerm m.named
    else s.fenceAction.dataAccess m
  else if s.countFull m then s
  else s.fenceAction.farAccess m

end Sys2Proof.Machine
end

