-- ==== Sys2Proof/Machine/Pod.lean ====
section
/-! DEFINITION. Pod links (R47 to R52): their flits, what a packet is on a link, and sending a packet to another package. -/

namespace Sys2Proof.Machine

/-- A pod link before any traffic: 64 credits for each of 32 virtual lanes (R48). -/
def PodLink.reset : PodLink :=
  { up := true, txSeq := 0, unacked := [], rxNext := 0, rxSince := 0, nakSent := false, credits := List.replicate 32 64, rxBuf := [],
    fails := 0, ackDue := 0, txOut := [] }

def State.podLink (s : State) (l : Nat) : PodLink := tabGet PodLink.reset s.links.pod l

def State.setPodLink (s : State) (l : Nat) (p : PodLink) : State := { s with links := { s.links with pod := tabPut s.links.pod l p } }

/-- The link that the route table of a class gives for a package (R51). -/
def State.routeLink (s : State) (pkg : Nat) (cls : BitVec 2) : Option Nat :=
  (s.boot.test.routes.find? (fun r => r.1 == 4 * pkg + cls.toNat)).map (fun r => r.2)

/-- Whether traffic to a package has a link that is up (R50). -/
def State.reaches (s : State) (pkg : Nat) (cls : BitVec 2) : Bool :=
  match s.routeLink pkg cls with
  | none => false
  | some l => s.boot.test.podLive l && (s.podLink l).up

/-! ## Flits (R47) -/

/-- Close a flit with its CRC. -/
def sealFlit (x : Nat) : Frame :=
  let f : Frame := BitVec.ofNat 256 (x / 2 ^ 16 * 2 ^ 16)
  BitVec.ofNat 256 (f.toNat + flitCrc f)

/-- A data flit: 28 bytes of a packet, byte 0 in the low bits. -/
def dataFlit (seq : BitVec 8) (vl : Nat) (first : Bool) (bs : List Byte) : Frame :=
  sealFlit (2 ^ 254 + seq.toNat * 2 ^ 246 + vl % 32 * 2 ^ 241 + (if first then 2 ^ 240 else 0) + leNat (bs.take 28) * 2 ^ 16)

/-- A control flit: the last good SEQ, NAK, and credits returned on a virtual lane. -/
def controlFlit (ack : BitVec 8) (nak : Bool) (vl credits : Nat) : Frame :=
  sealFlit (2 ^ 255 + ack.toNat * 2 ^ 246 + (if nak then 2 ^ 245 else 0) + vl % 32 * 2 ^ 240 + credits % 256 * 2 ^ 232)

/-- The CRC of a flit is good and its KIND is not 11. -/
def flitGood (f : Frame) : Bool := bits f 255 254 != 3 && bits f 15 0 == flitCrc f

def flitKind (f : Frame) : Nat := bits f 255 254
def flitSeq (f : Frame) : BitVec 8 := BitVec.ofNat 8 (bits f 253 246)

/-! ## Packets on a link (R214) -/

/-- The header of a packet as 256 bits, with its packages; a node is die and node number together. -/
def packetHeader (dpkg spkg dst src : Nat) (p : Packet) : Nat :=
  p.cls.toNat + p.rclass.toNat * 2 ^ 2 + p.kind.toNat * 2 ^ 6 + dpkg % 64 * 2 ^ 10 + dst / 32 % 8 * 2 ^ 16 + dst % 32 * 2 ^ 19 +
  spkg % 64 * 2 ^ 24 + src / 32 % 8 * 2 ^ 30 + src % 32 * 2 ^ 33 + p.sport.toNat * 2 ^ 38 + p.tag.toNat * 2 ^ 48 +
  p.addr.toNat % 2 ^ 52 * 2 ^ 64 + p.dset.toNat * 2 ^ 128 + p.lines.toNat * 2 ^ 144 + p.op.toNat * 2 ^ 152 + p.asn.toNat * 2 ^ 160

/-- KINDs that carry a payload. -/
def kindPayload (kind : Nat) : Bool := (decide (1 ≤ kind) && decide (kind ≤ 5)) || kind == 8 || kind == 11

/-- The bytes of a packet: a header, and 128 bytes of payload for a KIND that carries one. -/
def packetBytes (dpkg spkg dst src : Nat) (p : Packet) : List Byte :=
  leBytes 32 (packetHeader dpkg spkg dst src p) ++
  (if kindPayload p.kind.toNat then (p.payload ++ List.replicate 128 0).take 128 else [])

/-- Flits of a packet on a virtual lane from a sequence number on. -/
def packetFlits (seq : BitVec 8) (vl : Nat) (bs : List Byte) : List Frame :=
  (List.range ((bs.length + 27) / 28)).map (fun j => dataFlit (seq + BitVec.ofNat 8 j) vl (j == 0) (bs.drop (28 * j)))

/-- A request as it leaves for another package: ADDR is the PA. A read names the line that holds its address, and the response brings the whole
line. OP holds an atomic's operation and size; neither the bytes of a write nor the FE attribute of the requester's leaf (R184) has a field
(assumption 45, DESIGN CHOICE). Operands stand first in the payload, what a compare expects behind them. -/
def requestPacket (p : Packet) (x : Access) : Packet :=
  { p with
    dst := 256 * (bits x.wire 50 45 + 1) + 16, addr := x.wire
    payload := if x.op = .read then [] else (x.data ++ List.replicate 16 0).take (max 16 x.data.length) ++ x.expect }

/-- The package that a packet comes from, and the one that it goes to. -/
def State.pkgOf (s : State) (node : Nat) : Nat := if node < 256 then s.boot.test.pkgId.toNat else node / 256 - 1

/-- Send a packet over the link that the route of its class gives for its package, on the virtual lane of its class and source die, which it
keeps at every hop: none where the link has no credit for every flit, or holds 128 unacknowledged flits (R48, R49). -/
def State.podSend (s : State) (p : Packet) : Option State :=
  let pkg := s.pkgOf p.dst
  match s.routeLink pkg p.cls with
  | none => none
  | some l =>
    let g := s.podLink l
    let vl := 8 * p.cls.toNat + p.src % 256 / 32
    let fs := packetFlits g.txSeq vl (packetBytes pkg (s.pkgOf p.src) (p.dst % 256) (p.src % 256) p)
    if g.credits.getD vl 0 < fs.length ∨ 128 < g.unacked.length + fs.length then none
    else
      let due := if g.unacked = [] then s.time.cycle + 200000 else g.ackDue
      some (s.setPodLink l { g with
        txSeq := g.txSeq + BitVec.ofNat 8 fs.length, unacked := g.unacked ++ fs, txOut := g.txOut ++ fs
        credits := g.credits.modify vl (· - fs.length), ackDue := due })

end Sys2Proof.Machine
end

