-- ==== Sys2Proof/Machine/Home.lean ====
section
/-! DEFINITION. What a home does with an access (R40, R46, R166, R182 to R184, R197), and what an answer does at its requester (R215, R317). -/

namespace Sys2Proof.Machine

/-! ## Performing at a home -/

/-- What a home answers: data, an acknowledgement, an error with its cause, or nothing yet: a .fe load of an empty word (R184). -/
inductive Answer where
  | data (bs : List Byte)
  | ack
  | error (cause : Nat)
  | waits
  deriving DecidableEq, Repr

/-- Units that a write covers whole lose their poison (R40). -/
def State.clearPoison (s : State) (key n : Nat) : State :=
  { s with m := { s.m with poison := s.m.poison.filter (fun u =>
      !(decide (key ≤ poisonAt u) && decide (poisonAt u + poisonSize u ≤ key + n))) } }

/-- A poisoned unit that a write to a range does not cover whole (R40). -/
def State.poisonHalf (s : State) (key n : Nat) : Option Nat :=
  (s.poisonedIn key n).find? (fun u => !(decide (key ≤ poisonAt u) && decide (poisonAt u + poisonSize u ≤ key + n)))

/-- A poisoned unit that stops an access: any it reads, or one that a write does not cover whole (R40). -/
def State.poisonStops (s : State) (x : Access) : Option Nat :=
  if x.op = .write then s.poisonHalf x.loc.key x.size else (s.poisonedIn x.loc.key x.size).head?

/-- The oldest .fe load that waits for a granule (R184). -/
def State.waitingLoad (s : State) (g : Nat) : Option Deferred :=
  s.m.deferred.find? (fun d => match s.findAccess d.access with | some x => x.loc.key / 8 == g | none => false)

/-- An access has performed; it holds the time at which it did in place of what it compared with. -/
def State.markDone (s : State) (id : Nat) : State :=
  { s with
    net := { s.net with
             accesses := s.net.accesses.map (fun x =>
               if x.id = id then { x with done := true, expect := leBytes 12 (s.timeOf 0).toNat } else x) } }

/-- A fill serves the oldest load that waits for the granule, which empties it again (R184). -/
def State.serveFill (s : State) (key : Nat) : State :=
  match s.waitingLoad (key / 8) with
  | none => s
  | some d =>
    match s.findAccess d.access with
    | none => s
    | some x =>
      let s1 := { s with m := { s.m with deferred := s.m.deferred.filter (fun e => e.access != d.access) } }
      ((s1.empty key).markDone x.id).respond x 5 0 (s1.bytes x.loc.key x.size)

/-- The bytes of a write are placed, in the order in which its home performs it (R166). -/
def State.placeWrite (s : State) (x : Access) (bs : List Byte) : State := (s.store x.loc.key bs).clearPoison x.loc.key bs.length

/-- What a release or an atomic has written to a PUB page goes to the consumers of its line, as its home has performed it (R174, R176, R196). -/
def State.publishWritten (s : State) (x : Access) (bs : List Byte) : State :=
  if x.pub && !x.told then s.publish x.id (s.agentNode x.agent) x.asn (bits x.ea 51 0) bs else s

/-- Granules of a write, as the keys of their first bytes. -/
def granuleKeys (key n : Nat) : List Nat := (List.range ((key + n + 7) / 8 - key / 8)).map (fun i => (key / 8 + i) * 8)

/-- A home logs a poisoned unit that an access meets (R42); no value of SYN is given for one, and the model logs 0 (assumption 119, DESIGN CHOICE).
One of an M tile stops the tile (R270). -/
def State.meetUe (s : State) (x : Access) (u : Nat) : State :=
  match x.loc with
  | .tile c i _ => (s.logUe u 0).strikeTile c i
  | _ => s.logUe u 0

/-- Perform an access whole at its home in this package (R40, R166, R182 to R184). A slice's tags follow the page's policy (R35). -/
def State.perform (s : State) (x : Access) : Answer × State :=
  let key := x.loc.key
  let s0 : State := match x.loc with | .hbm p => s.llcRange p x.size x.cp (x.op != ReqOp.read) | _ => s
  match s0.poisonStops x with
  | some u => (.error cEcc, s0.meetUe x u)
  | none =>
    let old := s0.bytes key x.size
    if x.fePage then
      match x.op with
      | .read =>
        if !x.fe then (.data old, s0)
        else if s0.isFull key then (.data old, s0.empty key)
        else (.waits, { s0 with m := { s0.m with deferred := s0.m.deferred ++ [⟨x.id, (x.agent.coreIx).getD 0⟩] } })
      | .write =>
        if (granuleKeys key x.size).any s0.isFull then (.error cFeConflict, s0)
        else
          let s1 := (s0.placeWrite x x.data).publishWritten x x.data
          (.ack, (granuleKeys key x.size).foldl (fun s g => (s.fill g).serveFill g) s1)
      | _ => (.error cPerm, s0)
    else
      match x.op with
      | .read => (.data old, s0)
      | .write => (.ack, (s0.placeWrite x x.data).publishWritten x x.data)
      | op =>
        match op.effect old x.data x.expect with
        | some bs => (.data old, (s0.placeWrite x bs).publishWritten x bs)
        | none => (.data old, s0)

/-- Answer an access that its home has performed (R214). -/
def State.answer (s : State) (x : Access) : Answer → State
  | .data bs => (s.markDone x.id).respond x 5 0 bs
  | .ack => (s.markDone x.id).respond x 6 0 []
  | .error c => (s.markDone x.id).respond x 7 c []
  | .waits => s

/-- Atomics that a host memory performs: ADD, XCHG, CAS and CAS16 (R46). -/
def ReqOp.onHost : ReqOp → Bool
  | .amo o => o == 0 || o == 8
  | _ => true

/-- A request leaves for the host (R46). -/
def State.toHost (s : State) (id : Nat) : State :=
  { s with host := { s.host with pcie := s.host.pcie ++ [⟨s.host.pcieIssued, id, s.time.cycle⟩], pcieIssued := s.host.pcieIssued + 1 } }

/-- A posted write fills the granules of an FE page: the oldest load that waits for one empties it, and its read leaves for the host behind the
write (R46, R184). -/
def State.hostFill (s : State) (g : Nat) : State :=
  match s.waitingLoad (g / 8) with
  | none => s.fill g
  | some d => ({ s with m := { s.m with deferred := s.m.deferred.filter (fun e => e.access != d.access) } }).toHost d.access

/-- A request for host memory, at the PCIe port: a write is posted at once; an AMO that PCIe has no form for is answered PERM; anything
else becomes a request to the host (R46). The port keeps the presence bits of the granules of FE pages: PCIe has no request that would, and their
home is the host memory behind it (R165, R184, R197; assumption 99, DEDUCED). -/
def State.hostRequest (s : State) (x : Access) : State :=
  let gs := granuleKeys x.loc.key x.size
  match x.op with
  | .write =>
    if x.fePage && gs.any s.isFull then s.answer x (.error cFeConflict)
    else
      let s1 := ((s.placeWrite x x.data).publishWritten x x.data).answer x .ack
      if x.fePage then gs.foldl State.hostFill s1 else s1
  | .read =>
    if !x.fe then s.toHost x.id
    else if s.isFull x.loc.key then (s.empty x.loc.key).toHost x.id
    else { s with m := { s.m with deferred := s.m.deferred ++ [⟨x.id, (x.agent.coreIx).getD 0⟩] } }
  | _ => if x.fePage || !x.op.onHost then s.answer x (.error cPerm) else s.toHost x.id

/-- The host completes a request: its data, taken from the outside world, with what a device atomic leaves in host memory (R46). -/
def State.hostComplete (s : State) (x : Access) (bs : List Byte) : State :=
  let old := (bs ++ List.replicate 16 0).take x.size
  match x.op.effect old x.data x.expect with
  | some new => ((s.placeWrite x new).publishWritten x new).answer x (.data old)
  | none => s.answer x (.data old)

/-- A request for another package leaves over its link once the link takes its flits; a link that is down answers LINK_DOWN (R50, R51). -/
def State.remoteRequest (s : State) (p : Packet) (x : Access) (pkg : Nat) : State :=
  if !s.reaches pkg 0 then (s.takePacket p.id).answer x (.error cLinkDown)
  else
    match s.podSend (requestPacket p x) with
    | none => s
    | some s1 => s1.takePacket p.id

/-- Change an access in flight. -/
def State.setAccess (s : State) (x : Access) : State :=
  { s with net := { s.net with accesses := s.net.accesses.map (fun y => if y.id = x.id then x else y) } }

/-- A load or store of several granules of HBM or of a vault, which its home performs granule by granule (R165, R181). An access to tile space is
applied whole (R269), and CAS16 is one (R181). -/
def Access.splits (x : Access) : Bool :=
  (x.op == .read || x.op == .write) && decide (1 < (granuleKeys x.loc.key x.size).length) && (match x.loc with | .tile .. => false | _ => true)

/-- One granule of an access performs: its bytes are read into the access, or written; a store fills it on an FE page (R184, R197). -/
def State.performGranule (s : State) (x : Access) (g : Nat) : Access × State :=
  let lo := max x.loc.key g
  let n := min (x.loc.key + x.size) (g + 8) - lo
  let i := lo - x.loc.key
  match x.op with
  | .read =>
    let old := x.data ++ List.replicate (x.size - x.data.length) 0
    ({ x with data := old.take i ++ s.bytes lo n ++ old.drop (i + n) }, s)
  | _ =>
    let s1 := (s.store lo ((x.data.drop i).take n)).clearPoison lo n
    (x, if x.fePage then (s1.fill g).serveFill g else s1)

/-- The home performs a granule of an access, any one that is left, and answers with the last (R181). Poison stops an access before its first granule,
and a read before each (R40); a full granule of an FE page stops a store there, its others written or not (R197). -/
def State.servePart (s : State) (p : Packet) (x : Access) : State :=
  let start := x.part == []
  let s0 := match start, x.loc with
    | true, .hbm q => s.llcRange q x.size x.cp (x.op != ReqOp.read)
    | _, _ => s
  match (if start || x.op == .read then s0.poisonStops x else none) with
  | some u => ((s0.meetUe x u).takePacket p.id).answer x (.error cEcc)
  | none =>
    let gs := if start then granuleKeys x.loc.key x.size else x.part
    let g := gs.getD ((Config.freeWord s0.draws).toNat % gs.length) 0
    if x.op == .write && x.fePage && s0.isFull g then (s0.drawn.takePacket p.id).answer x (.error cFeConflict)
    else
      let (y, s1) := s0.drawn.performGranule x g
      let rest := gs.filter (fun h => h != g)
      if rest ≠ [] then s1.setAccess { y with part := rest }
      else if x.op = .read then (s1.takePacket p.id).answer y (.data y.data)
      else (((s1.takePacket p.id).clearPoison x.loc.key x.size).publishWritten y y.data).answer y .ack

/-- A request's turn at its home in this package or at the host. -/
def State.homeRequest (s : State) (p : Packet) (x : Access) : State :=
  match x.loc with
  | .host _ => (s.takePacket p.id).hostRequest x
  | _ =>
    if x.splits then s.servePart p x
    else
      let (a, s1) := (s.takePacket p.id).perform x
      s1.answer x a

/-- A request for the tiles of a core that is in an exchange waits for its end, but for one of a cell that is in an exchange itself, whose drain
waits for it (R145; assumption 103, DEDUCED); one by a new route waits for its channel's flip marker (R148). -/
def State.tileHolds (s : State) (k : Nat) (p : Packet) (x : Access) : Bool :=
  (s.claimed k && !(match x.agent.coreIx with | some c => s.claimed c | none => false)) || s.awaitsFlip k p

/-- A request that its home still holds back: a .sc access, which only the SC ring performs (R177), one that waits for earlier accesses of its
agent (R170, R172), or one for a core that holds it. The old site of a moved cell holds none that it forwards (R148). -/
def State.heldBack (s : State) (p : Packet) : Bool :=
  p.cls == 0 &&
  (match s.findAccess p.access with
   | none => false
   | some x =>
     match x.loc, nodeCore p.dst with
     | .tile .., some k => (s.forwardTo k p).isNone && (s.tileHolds k p x || x.sc || s.waitsFor x.after)
     | _, _ => x.sc || s.waitsFor x.after)

/-- Two requests of one generator or engine operation: their home performs them in the order of their units (R178). -/
def State.sameStream (s : State) (p q : Packet) : Bool :=
  match s.findAccess p.access, s.findAccess q.access with
  | some x, some y => x.agent == y.agent && x.agent.streams
  | _, _ => false

/-- A request packet may be served: no older one of its source, destination and class is on its way, other than one that the node holds back
for another agent, or for a control core (R168, R178, R213, R215). What an old site has forwarded does not wait behind what came by the new
route (R148). -/
def State.served (s : State) (p : Packet) : Bool :=
  !((s.net.packets.takeWhile (fun q => q.id != p.id)).any (fun q =>
    q.src == p.src && q.dst == p.dst && q.cls == p.cls && (!s.heldBack q || s.sameStream p q) && (!p.forwarded || q.forwarded)))

/-- A packet that breaks its layout is discarded at its receiver and counted in NETERR of its die (R214). -/
def State.discardBad (s : State) (p : Packet) : State :=
  let d := nodeDie p.dst
  let s1 := s.takePacket p.id
  { s1 with net := { s1.net with netErr := tabPut s1.net.netErr d (tabGet 0 s1.net.netErr d + 1) } }

/-- A packet for another package, and one that only passes through this one. -/
def Packet.leaves (p : Packet) : Bool := decide (256 ≤ p.dst)
def Packet.transits (p : Packet) : Bool := p.leaves && decide (256 ≤ p.src)

/-- The error response to a request that meets a link which is down, in the name of the node that it was for (R50). -/
def Packet.linkError (p : Packet) : Packet :=
  { p with
    cls := 1, rclass := 0, kind := 7, src := p.dst, sport := 15, dst := p.src, dport := p.sport,
    tag := if p.cls = 2 then p.channel.setWidth 16 else p.tag, addr := 0, dset := 0, lines := 0, op := BitVec.ofNat 8 cLinkDown, access := 0, payload := [] }

/-- The request of another package that a response answers. -/
def State.farRequest (s : State) (p : Packet) : Option Access :=
  if p.cls ≠ 1 ∨ p.transits then none
  else
    match s.findAccess p.access with
    | some x => if x.agent.far then some x else none
    | none => none

/-- A request of another package has gone on over a link and waits there for its response (R50). -/
def State.passesOn (s : State) (p : Packet) (pkg : Nat) : State :=
  match s.routeLink pkg 0 with
  | some l => let g := s.podLink l; s.setPodLink l { g with through := g.through ++ [p] }
  | none => s

/-- A response that passes back answers a request: one of a read for each of its lines. -/
def Packet.meetsBack (s : State) (p q : Packet) : Bool := q.src == p.dst && q.tag == p.tag && s.pkgOf q.dst == s.pkgOf p.src

def backOne (s : State) (p : Packet) : List Packet → List Packet
  | [] => []
  | q :: rest =>
    if p.meetsBack s q then (if q.kind = 0 ∧ q.lines ≠ 0 ∧ p.kind = 5 then { q with lines := q.lines - 1 } :: rest else rest)
    else q :: backOne s p rest

def State.passesBack (s : State) (p : Packet) : State :=
  { s with links := { s.links with pod := s.links.pod.map (fun (g : Nat × PodLink) => (g.1, { g.2 with through := backOne s p g.2.through })) } }

/-- A packet that crosses this package: what it does to the requests that wait for responses. -/
def State.crosses (s : State) (p : Packet) : State :=
  if !p.transits then s
  else if p.cls = 0 then s.passesOn p (s.pkgOf p.dst)
  else if p.cls = 1 ∧ 5 ≤ p.kind.toNat ∧ p.kind.toNat ≤ 7 then s.passesBack p
  else s

/-- A packet for another package leaves over its link: a response with the tag of the request, which the model keeps in its access. Where the link is
down it is lost; a request that passes through is answered LINK_DOWN, and the sender of a token takes LINK_DOWN (R48, R50). -/
def State.leave (s : State) (p : Packet) : State :=
  let far := s.farRequest p
  let done : State → State := fun s => match far with | some x => (s.takePacket p.id).dropAccess x.id | none => s.takePacket p.id
  if !s.reaches (s.pkgOf p.dst) p.cls then
    (if (p.transits ∧ p.cls = 0) ∨ (p.cls = 2 ∧ p.kind = 8) then (s.takePacket p.id).sendPacket p.linkError else done s)
  else
    let q := match far with
      | some x => { p with tag := BitVec.ofNat 16 (bits x.pc 15 0) }
      | none => p
    match s.podSend q with
    | none => s
    | some s1 => done (s1.crosses p)

/-- Serve the request packet that the input names, if it is of a kind and may be served now. -/
def State.serveRequest (s : State) (kind : BitVec 4) : State :=
  match s.findPacket s.input.num with
  | none => s
  | some p =>
    if p.cls ≠ 0 ∨ p.kind ≠ kind ∨ !s.served p ∨ s.heldBack p then s
    else if p.badHeader then s.discardBad p
    else if p.transits then s.leave p
    else
      match s.findAccess p.access with
      | none => s.takePacket p.id
      | some x =>
        match x.loc, nodeCore p.dst with
        | .remote pkg _, _ => s.remoteRequest p x pkg.toNat
        | .tile .., some k =>
          (match s.forwardTo k p with
           | some f =>
             (s.takePacket p.id).sendPacket { p with dst := coreNode f.newCore, dset := 1 }
           | none => s.homeRequest p x)
        | _, _ => s.homeRequest p x

/-! ## Answers at their requesters -/

/-- A packet of multicast data or an error for one line of a member (R224). -/
def multiPacket (src dst op idx : Nat) (set : BitVec 16) (va : Word) (cause : BitVec 8) (bs : List Byte) : Packet :=
  { id := 0, cls := 1, rclass := 0, kind := if cause = 0 then 11 else 7, src := src, sport := 15, dst := dst, dport := 0,
    tag := BitVec.ofNat 16 idx, addr := va, dset := set, lines := 0, op := cause, asn := 0, access := op,
    payload := if cause = 0 then bs else [], badHeader := false }

/-- An answer that its requester takes up itself, or that brings a line of a multicast which no slice homes: the line goes to the requesting core
alone (R223). -/
def State.takenUp (s : State) (x : Access) (bs : List Byte) (cause : BitVec 8) : Option State :=
  match x.dest with
  | .fetch => some (s.setAccess { x with done := true, data := bs, err := cause })
  | .multi op idx => some ((s.dropAccess x.id).sendPacket (multiPacket (s.homeNode x.loc) (s.agentNode x.agent) op idx 0 x.ea cause bs))
  | _ => none

/-- Bytes of a load unit's slot arrive (R216). -/
def SlotSt.arrive (t : SlotSt) (id pos : Nat) (bs : List Byte) : SlotSt :=
  if t.pend.contains id then
    { t with pend := t.pend.filter (· != id), bytes := t.bytes.take pos ++ bs ++ t.bytes.drop (pos + bs.length) }
  else t

/-- An engine operation of a reticle. -/
def State.engOp (s : State) (copy : Bool) (ret : Nat) (slot : Nat) : Option EngOp :=
  tabFind (if copy then s.x.copies else s.x.gathers) (64 * ret + slot)

def State.setEngOp (s : State) (copy : Bool) (ret slot : Nat) (e : EngOp) : State :=
  if copy then { s with x := { s.x with copies := tabPut s.x.copies (64 * ret + slot) e } }
  else { s with x := { s.x with gathers := tabPut s.x.gathers (64 * ret + slot) e } }

def State.dropEngOp (s : State) (copy : Bool) (ret slot : Nat) : State :=
  if copy then { s with x := { s.x with copies := tabDel s.x.copies (64 * ret + slot) } }
  else { s with x := { s.x with gathers := tabDel s.x.gathers (64 * ret + slot) } }

/-- Reticle and slot of an engine's agent. -/
def Access.engine (x : Access) : Option (Bool × Nat × Nat) :=
  match x.agent with
  | .copyEng r sl => some (true, r.toNat, sl.toNat)
  | .gatherEng r sl => some (false, r.toNat, sl.toNat)
  | _ => none

/-- Space code of a location (R202). -/
def Loc.space : Loc → BitVec 2
  | .vault .. => 1
  | .tile .. => 2
  | _ => 0

/-- Access code of a fault record (R202). -/
def ReqOp.accCode : ReqOp → BitVec 2
  | .read => 0
  | .write => 1
  | _ => 2

/-- The round of a load unit: the EORs emitted before its token (R248). -/
def Port.roundAt (p : Port) (unit : Nat) : Nat :=
  p.round + (p.slots.filter (fun t => decide (t.unit < unit) && t.eor.isSome)).length

/-- A multicast of core `k` that is stopped on a fault. -/
def EngOp.stoppedAt (e : EngOp) (k : Nat) : Bool := e.fault.valid && (match e.core with | some c => c.ix == k | none => false)

/-- The record of port block p0 holds the fault of a multicast, which is an agent of its own (R222). -/
def State.multiHolds (s : State) (k n : Nat) : Bool := n == 0 && s.x.multis.any (fun e => e.2.stoppedAt k && e.2.fault == (s.port k n).fault)

/-- A port block's generator is stopped on a fault of its own (R201). -/
def State.portStopped (s : State) (k n : Nat) : Bool :=
  let p := s.port k n
  p.late != [] || (p.fault.valid && !s.multiHolds k n)

/-- Put a fault among those that wait for the record, the lowest unit first. -/
def lateIns (f : FaultRec) : List FaultRec → List FaultRec
  | [] => [f]
  | g :: rest => if f.unit.toNat < g.unit.toNat then f :: g :: rest else if f.unit = g.unit then g :: rest else g :: lateIns f rest

/-- Stop a port's generator on a fault at a unit: later units are dropped (R201, R202). A record that is VALID keeps its first fault; a fault of an
earlier unit, which was on its way, or one beside a multicast's, waits for the record (assumption 121, DEDUCED). -/
def State.portFault (s : State) (k n cause : Nat) (sp acc : BitVec 2) (unit round : Nat) (va : Word) : State :=
  let p := s.port k n
  let f : FaultRec := ⟨true, BitVec.ofNat 8 cause, sp, acc, BitVec.ofNat 6 round, BitVec.ofNat 64 unit, va⟩
  if p.fault.valid then
    (if s.multiHolds k n || decide (unit < p.fault.unit.toNat) then s.setPort k n { p with late := lateIns f p.late } else s)
  else s.setPort k n { p with fault := f, slots := p.slots.filter (fun t => decide (t.unit < unit)) }

/-- A record that has been freed takes the next fault of its port that waits, else that of a multicast of its core. -/
def State.nextRecord (s : State) (k n : Nat) : State :=
  let p := s.port k n
  if p.fault.valid then s
  else
    match p.late with
    | f :: rest => s.setPort k n { p with fault := f, late := rest, slots := p.slots.filter (fun t => decide (t.unit < f.unit.toNat)) }
    | [] =>
      match (if n = 0 then s.x.multis.find? (fun e => e.2.stoppedAt k) else none) with
      | some e => s.setPort k n { p with fault := e.2.fault }
      | none => s

/-- Stop an engine operation on a fault (R201, R202). -/
def State.engFault (s : State) (copy : Bool) (ret slot cause unit : Nat) (acc : BitVec 2) (va : Word) : State :=
  match s.engOp copy ret slot with
  | none => s
  | some e =>
    if e.fault.valid then s
    else s.setEngOp copy ret slot { e with fault := ⟨true, BitVec.ofNat 8 cause, 0, acc, 0, BitVec.ofNat 64 unit, va⟩ }

/-- A count of WAITCNT has fallen: EVPEND's WCNT (R360). -/
def State.countFell (s : State) (k : Nat) : State := s.event k 0

/-- Read data arrives (R215, R216, R317): a register is written and the acquire's bank action taken (R170), or a slot is filled. -/
def State.readArrives (s : State) (x : Access) (bs : List Byte) : State :=
  if let some s1 := s.takenUp x bs 0 then s1
  else
  match x.agent with
  | .ctl c =>
    let s1 := (s.dropAccess x.id).deliver c.ix x.dest bs
    let s2 := match x.acquire with | some sc => s1.acquireBanks c.ix sc | none => s1
    s2.countFell c.ix
  | .port c n =>
    match x.dest with
    | .slot _ _ pos =>
      let p := s.port c.ix n.toNat
      (s.dropAccess x.id).setPort c.ix n.toNat { p with slots := p.slots.map (fun t => t.arrive x.id pos bs) }
    | _ => s.dropAccess x.id
  | _ => s.dropAccess x.id

/-- A write is acknowledged: its requester's count of outstanding writes falls (R215, R327); a .sc store is an acquire too (R170, R177). -/
def State.ackArrives (s : State) (x : Access) : State :=
  if let some s1 := s.takenUp x [] 0 then s1
  else
  match x.agent with
  | .ctl c =>
    let s1 := s.dropAccess x.id
    (match x.acquire with | some sc => s1.acquireBanks c.ix sc | none => s1).countFell c.ix
  | .port c n =>
    let p := s.port c.ix n.toNat
    (s.dropAccess x.id).setPort c.ix n.toNat { p with writes := p.writes.filter (· != x.id) }
  | _ =>
    match x.engine with
    | none => s.dropAccess x.id
    | some (copy, r, sl) =>
      match s.engOp copy r sl with
      | none => s.dropAccess x.id
      | some e =>
        (s.dropAccess x.id).setEngOp copy r sl
          { e with writes := e.writes.filter (· != x.id), doneT := BitVec.ofNat 96 (max e.doneT.toNat (leNat x.expect)) }

/-- Writes of an agent that wait for one that has failed are not made (R201, R205). -/
def State.cancelAfter (s : State) (x : Access) : List Nat × State :=
  let gone := (s.net.accesses.filter (fun y => y.agent == x.agent && y.op == .write && !y.done && y.after.contains x.id)).map Access.id
  (gone, { s with net := { s.net with
      accesses := s.net.accesses.filter (fun y => !gone.contains y.id)
      packets := s.net.packets.filter (fun p => !(p.cls == 0 && gone.contains p.access)) } })

/-- An error response arrives (R201, R317): a control core traps at its next boundary, with TRAPPC and TRAPVAL naming the access; a
generator or an engine operation stops with its record written. -/
def State.errorArrives (s : State) (x : Access) (cause : BitVec 8) : State :=
  if let some s1 := s.takenUp x [] cause then s1
  else
  match x.agent with
  | .ctl c =>
    let s1 := s.dropAccess x.id
    let ct := s1.ctlAt c.ix
    let s2 := if ct.late.isNone then s1.setCtlAt c.ix { ct with late := some (cause, x.ea), lateOp := x.pc } else s1
    s2.countFell c.ix
  | .port c n =>
    let p := s.port c.ix n.toNat
    let (unit, round) := match x.dest with
      | .slot _ u _ => (u, p.roundAt u)
      | .portWrite _ u => (u / 64, u % 64)
      | _ => (0, 0)
    let (gone, s0) := s.cancelAfter x
    let s1 := (s0.dropAccess x.id).setPort c.ix n.toNat { p with writes := p.writes.filter (fun i => i != x.id && !gone.contains i) }
    s1.portFault c.ix n.toNat cause.toNat x.loc.space x.op.accCode unit round x.ea
  | _ =>
    match x.engine with
    | none => s.dropAccess x.id
    | some (copy, r, sl) =>
      match s.engOp copy r sl with
      | none => s.dropAccess x.id
      | some e =>
        let unit := match x.dest with | .engine _ _ u => u | _ => e.unit
        let (gone, s0) := s.cancelAfter x
        ((s0.dropAccess x.id).setEngOp copy r sl { e with writes := e.writes.filter (fun i => i != x.id && !gone.contains i) }).engFault copy r sl cause.toNat unit
          x.op.accCode x.ea

end Sys2Proof.Machine
end

