-- ==== Sys2Proof/Machine/Fatal.lean ====
section
/-! DEFINITION. What a fault that die firmware does not service does to the queue whose work took it (R111, R112), and where a fabric part is
named in a record (R252). -/

namespace Sys2Proof.Machine

/-- CR_VA of a fault of a part of the fabric: die, core, site and slot (R252). -/
def partVa (k i slot : Nat) : Word := BitVec.ofNat 64 (k * 2 ^ 12 + i * 2 ^ 4 + slot)

/-- CM_ID of a command (R106). -/
def Cmd.cmId (c : Cmd) : BitVec 32 := BitVec.ofNat 32 (fieldAt c.bytes 4 4)

/-- NOTIFY of a command (R106). -/
def Cmd.notify (c : Cmd) : Bool := (byteAt c.bytes 1).getLsbD 1

/-- Command codes (R106). -/
def Cmd.op (c : Cmd) : Nat := (byteAt c.bytes 0).toNat
def opLaunch : Nat := 1
def opSignal : Nat := 2
def opWait : Nat := 3
def opCopy : Nat := 4
def opCkpt : Nat := 5
def opRestore : Nat := 6
def opStop : Nat := 7
def opQreset : Nat := 8

/-- A LAUNCH or a RESTORE, whose last record sets GRAPHDONE, CR_FLAGS [1] (R110). -/
def Cmd.launches (c : Cmd) : Bool := c.op == opLaunch || c.op == opRestore
def Cmd.lastFlags (c : Cmd) : BitVec 8 := if c.launches then 2 else 0

/-- The place of an entry of the queue table in host memory, and of a host address (R46, R100). -/
def hostKey (a : Nat) : Nat := Loc.key (.host (a % 2 ^ 50))
def State.entryKey (s : State) (q : Nat) : Nat := hostKey (s.host.qtBase.toNat + 64 * q)

/-- Die firmware writes QE_HEAD, QE_STATE and QE_ERR of a queue's entry (R100). -/
def State.tellHead (s : State) (q head : Nat) : State := s.store (s.entryKey q + 0x30) (leBytes 8 head)
def State.tellState (s : State) (q st err : Nat) : State := s.store (s.entryKey q + 0x38) (leBytes 1 st ++ leBytes 1 err)

/-- Queue a completion record (R110). -/
def State.record (s : State) (r : Record) : State := { s with host := { s.host with records := s.host.records ++ [r] } }

/-- Status codes of a record (R110). -/
def stOk : Nat := 0
def stFault : Nat := 1
def stDiscarded : Nat := 2
def stStopped : Nat := 3
def stBadCmd : Nat := 4
def stOverrun : Nat := 5
def stShape : Nat := 6
def stRefused : Nat := 7

/-- A record of a command with a status, the last of a LAUNCH or RESTORE. CR_DONET is the time now where the effect has performed, and free
where none has (R110; assumption 84, DESIGN CHOICE). HELD is set where a restart has delayed it. -/
def State.cmdRecord (s : State) (q : Nat) (c : Cmd) (status cause : Nat) (va : Word) : Record :=
  { queue := BitVec.ofNat 10 q, id := c.cmId, task := 0, status := BitVec.ofNat 8 status, cause := BitVec.ofNat 8 cause, launchT := c.time,
    doneT := if status = stOk then s.timeOf 0 else Config.openTime s.draws (3 * c.n), va := va,
    flags := c.lastFlags ||| (if c.held then 16 else 0), msi := c.notify, uid := none, succs := [], frees := none }

/-- The record of a command that is discarded: CR_VA of a COPY is what it has copied (R110, R111). -/
def State.discardRecord (s : State) (q : Nat) (c : Cmd) : Record :=
  s.cmdRecord q c stDiscarded 0 (if c.op = opCopy then BitVec.ofNat 64 c.left else 0)

/-- Blocks of a saved range, and data blocks of ranges (R155). -/
def blocksOf (len : Nat) : Nat := (len + 4095) / 4096
def dataBlocks (rs : List (Word × Nat × BitVec 8)) : Nat := (rs.map (fun r => blocksOf r.2.1)).sum

/-- Bytes of a sidecar for a number of data blocks (R155). -/
def sidecarBytes (blocks : Nat) : Nat := (8 * blocks + 65535) / 65536 * 65536

/-- Bytes of a slot that holds a number of blocks (R155). -/
def slotBytes (blocks : Nat) : Nat := 65536 + sidecarBytes blocks + 4096 * blocks

/-- Agents of a core. -/
def agentOfCore (k : Nat) (a : Agent) : Bool :=
  match a with
  | .ctl c => c.ix == k
  | .port c _ => c.ix == k
  | .multi c _ => c.ix == k
  | _ => false

/-- Whether a flow table entry is aimed at the cell of core `k`: directly, or at a landing ring that a vault grant of its region covers
(R55, R58). -/
def State.flowAims (s : State) (k : Nat) (e : List Byte) : Bool :=
  let die := (byteAt e 0x34).toNat % 8
  let u := (byteAt e 0x35).toNat
  let v := 16 * die + u % 16
  if (byteAt e 0).getLsbD 1 then v == k
  else
    match tabFind s.links.rings (8 * v + u / 16 % 8) with
    | some r => (s.grants k).any (fun g => grantCovers g die (u % 16) r.base (128 * r.slots))
    | none => false

/-- Die firmware clears VALID of every flow table entry aimed at the cell of core `k`, which stops or is pre-empted (R59). -/
def State.clearFlows (s : State) (k : Nat) : State :=
  let off : Nat × List Byte → Nat × List Byte := fun f => (f.1, if s.flowAims k f.2 then flowOff f.2 else f.2)
  { s with links := { s.links with eth := s.links.eth.map (fun e => (e.1, { e.2 with flows := e.2.flows.map off })) } }

/-- Discard a cell on core `k`: dirty lines are written back, reads that have not performed are dropped with its packets, its contention
ports are disarmed, and everything the core holds goes. The core stays taken until its writes are acknowledged, but for a core of an
exchange, whose partner moves in (R86, R111, R150). No frame lands for it any more (R59). -/
def State.dropCell (s : State) (k : Nat) : State :=
  let s1 := (s.clearFlows k).dropLines k (fun _ => true)
  let gone : List Nat := (s1.net.accesses.filter (fun x => agentOfCore k x.agent && x.op == .read)).map Access.id
  let c := s1.core k
  let c' : CoreSt := { CoreSt.reset (isHub k) with occ := if s1.claimed k then none else c.occ }
  let s2 := s1.setCore k c'
  { s2 with
    m := { s2.m with deferred := s2.m.deferred.filter (fun d => !gone.contains d.access), lost := s2.m.lost.filter (fun e => e.1 != k) }
    net := { s2.net with
      accesses := s2.net.accesses.filter (fun x => !gone.contains x.id)
      packets := s2.net.packets.filter (fun p => !(p.cls == 2 && p.dst == coreNode k)) }
    swap := { s2.swap with
      flips := s2.swap.flips.filter (fun f => f.src != k && f.newCore != k)
      far := s2.swap.far.filter (fun f => f.core != k)
      exchanges := s2.swap.exchanges.map (fun x =>
        match c.occ with
        | some o => if 16 * x.die.toNat + x.a.toNat = k ∨ 16 * x.die.toNat + x.b.toNat = k then { x with dead := x.dead ++ [o.queue] } else x
        | none => x) }
    plane := s2.plane.disarm (fun j => j == k) }

/-- An agent of core `k` is stopped on a fault that waits for its service: its control core, a port block, or an operation of an engine (R209). -/
def State.agentStopped (s : State) (k : Nat) : Bool :=
  let c := s.core k
  let ops : Tab EngOp → Bool := fun t => t.any (fun e => e.2.fault.valid && (match e.2.core with | some c => c.ix == k | none => false))
  (c.ctl.run == .stopped && c.ctl.r.trapCause != 0) || c.ports.any (fun p => p.2.fault.valid) || ops s.x.copies || ops s.x.gathers || ops s.x.multis

/-- Free a core of a dropped cell once no access of it is on its way. -/
def State.freeCore (s : State) (k : Nat) : State :=
  if s.net.accesses.any (fun x => agentOfCore k x.agent) then s else s.setCore k (CoreSt.reset (isHub k))

/-- Cores whose cell belongs to a task that the pool no longer holds. -/
def State.deadCores (s : State) : List Nat :=
  (s.cores.filter (fun c =>
    match c.2.occ with
    | some o => !s.sched.tasks.any (fun t => t.uid == o.task)
    | none => false)).map (fun c => c.1)

/-- A write to the slot of a checkpoint (R155). -/
def Ckpt.writes (j : Ckpt) (x : Access) : Bool :=
  x.fetches && x.op == .write && x.asn == j.asn && j.started && decide (j.slotVa.toNat ≤ x.ea.toNat) &&
  decide (x.ea.toNat < j.slotVa.toNat + slotBytes (dataBlocks j.ranges))

/-- An access that die firmware or a checkpoint engine issued for a command or a checkpoint which is gone. -/
def State.orphan (s : State) (x : Access) : Bool :=
  x.fetches && (match x.agent with | .firmware _ => true | .ckptEng .. => true | _ => false) &&
  !s.host.queues.any (fun q => q.2.cmds.any (fun c => c.access == some x.id)) && !s.ckpt.jobs.any (fun j => j.writes x)

/-- Free every dead core that has drained, and forget what answers no command any more. -/
def State.freeDead (s : State) : State :=
  let s1 := s.deadCores.foldl State.freeCore s
  { s1 with net := { s1.net with accesses := s1.net.accesses.filter (fun x => !(s1.orphan x && x.done)) } }

/-- The queue that an engine operation belongs to. -/
def State.engQueue (s : State) (e : EngOp) : Option Nat :=
  match e.cmd, e.core with
  | some (q, _), _ => some q.toNat
  | none, some c => ((s.core c.ix).occ).map (fun o => o.queue.toNat)
  | none, none => none

/-- Clear COW in the leaf of a page of an address space whose table is at `root`, and invalidate the page (R157, R158, R162). -/
def State.clearCow (s : State) (asn : BitVec 16) (root : Nat) (page : Word) : State :=
  match s.leafPlace page.toNat 3 root with
  | none => s
  | some (a, e, lv) =>
    let s1 := if e.testBit 4 then s.store a (leBytes 8 (e - 2 ^ 4)) else s
    s1.invalidate asn (page.toNat / 65536) (2 ^ levelBit lv / 65536)

/-- Drop the checkpoints that a condition selects: COW is cleared on their pages, but for pages that another one still copies (R162). -/
def State.dropJobs (s : State) (sel : Ckpt → Bool) : State :=
  let gone := s.ckpt.jobs.filter (fun j => sel j && j.cut)
  let s1 : State := { s with ckpt := { s.ckpt with jobs := s.ckpt.jobs.filter (fun j => !sel j) } }
  gone.foldl
    (fun s j =>
      j.pages.foldl
        (fun s p => if (s.copying j.asn p.1.toNat).isSome then s else s.clearCow j.asn j.root p.1) s) s1

/-- Accesses of the commands of a queue. -/
def Queue.accesses (x : Queue) : List Nat := x.cmds.filterMap Cmd.access

/-- What a COPY command has copied: whole units, the last of which may be short (R110, R205). -/
def EngOp.copied (e : EngOp) : Nat := min (256 * e.unit) (fieldAt e.desc 0x10 8)

/-- A queue's COPY commands note what their operations have copied. -/
def Queue.noteCopies (x : Queue) (q : Nat) (t : Tab EngOp) : Queue :=
  { x with
    cmds := x.cmds.map (fun c =>
      match t.find? (fun e => e.2.cmd == some (BitVec.ofNat 10 q, c.n)) with
      | some e => { c with left := e.2.copied }
      | none => c) }

/-- An access that its home has not taken: its request is still on its way. -/
def State.unsent (s : State) (id : Nat) : Bool := s.net.packets.any (fun p => p.cls == 0 && p.access == id)

/-- Stop the work of a queue: its tasks leave the pool, their cells are discarded, and its engines' operations, its commands' accesses and its
checkpoints stop (R111, R162). A checkpoint that a cell asked for has its record here, as a command has with its queue. -/
def State.stopQueue (s0 : State) (q : Nat) : State :=
  let s := s0.setQueue q ((s0.queue q).noteCopies q s0.x.copies)
  let mine : EngOp → Bool := fun e => s.engQueue e == some q
  let ops : Tab EngOp → Tab EngOp := fun t => t.filter (fun e => !mine e.2)
  let held := s.ckpt.asked.filter (fun a => a.2.2.2.queue.toNat == q)
  let asked : List Record :=
    ((((s.ckpt.jobs.filter (fun j => j.queue.toNat == q)).flatMap Ckpt.records).filter (fun r => r.1 == 0)).map (fun r => r.2) ++
      held.map (fun a => a.2.2.2)).mapIdx (fun i r =>
      { r with status := BitVec.ofNat 8 stDiscarded, doneT := Config.openTime s.draws (3 * i + 2) })
  let left : Access → Bool := fun x =>
    match x.engine with
    | some (copy, r, i) => x.fetches && (match s.engOp copy r i with | some e => mine e | none => false)
    | none => (s.queue q).accesses.contains x.id && s.unsent x.id
  let s1 : State := { s with
    x := { s.x with copies := ops s.x.copies, gathers := ops s.x.gathers, multis := ops s.x.multis }
    ckpt := { s.ckpt with asked := s.ckpt.asked.filter (fun a => !(a.2.2.2.queue.toNat == q)) }
    net := { s.net with
      accesses := s.net.accesses.filter (fun x => !left x)
      adders := s.net.adders.filter (fun a => !s.sched.tasks.any (fun t => t.queue.toNat == q && t.uid == a.2.task)) }
    sched := { s.sched with
      tasks := s.sched.tasks.filter (fun t => t.queue.toNat != q)
      requests := s.sched.requests.filter (fun r => s.sched.tasks.any (fun t => t.uid == r.1 && t.queue.toNat != q)) } }
  let s2 := s1.dropJobs (fun j => j.queue.toNat == q)
  let cells := (s2.cores.filter (fun c => match c.2.occ with | some o => o.queue.toNat == q | none => false)).map (fun c => c.1)
  (asked.foldl State.record (cells.foldl State.dropCell s2)).drawn

/-- A fatal event of a queue: one record names the command or the task whose work it was, and its work stops. Once that has drained, the record is
written, a DISCARDED record follows for every other unfinished command, and the queue is faulted (R110, R112). An event of no command carries CR_ID
0xFFFF_FFFF and CR_TASK 0xFFFF. -/
def State.queueFatal (s : State) (q : Nat) (n : Option Nat) (t : Option Task) (status cause : Nat) (va : Word) : State :=
  let x := s.queue q
  if x.st ≠ .active ∨ x.resetBy ≠ [] then s
  else
    let own := x.cmds.find? (fun c => n == some c.n)
    let base := s.cmdRecord q (own.getD default) status cause va
    let first : Record :=
      match own, t with
      | some _, some t => { base with task := t.index, launchT := t.launchT.getD (Config.openTime s.draws (3 * t.uid + 1)), flags := base.flags ||| t.flags }
      | some _, none => base
      | none, _ => { base with id := BitVec.allOnes 32, task := BitVec.allOnes 16, launchT := Config.openTime s.draws 1 }
    let s1 := (s.record first).stopQueue q
    let y := s1.queue q
    (s1.setQueue q { y with st := .faulting, cmds := y.cmds.filter (fun c => n != some c.n) }).drawn

/-- Nothing of a queue's work is on its way any more: its cores are free, and so is every engine slot that it has left; every exchange that one of
its cells was in has ended, and no command's access, of one that the queue still holds or of one that is gone, waits for its acknowledgement
(R111, R150). -/
def State.drained (s : State) (q : Nat) : Bool :=
  !s.cores.any (fun c => match c.2.occ with | some o => o.queue.toNat == q | none => false) &&
  !s.swap.exchanges.any (fun x => x.dead.contains (BitVec.ofNat 10 q)) &&
  !s.net.accesses.any (fun x =>
    s.orphan x || (x.op != .read && (s.queue q).accesses.contains x.id && !s.answered x) ||
    (match x.engine with | some (c, r, i) => (s.engOp c r i).isNone | none => false) ||
    (match x.agent.coreIx with | some k => s.claimed k && x.op != .read | none => false))

/-- A faulting queue whose work has drained is faulted, with its DISCARDED records (R112). -/
def State.settleFault (s : State) (q : Nat) : State :=
  let s1 := s.freeDead
  let x := s1.queue q
  if x.st ≠ .faulting ∨ x.resetBy ≠ [] ∨ !s1.drained q then s
  else
    let s2 := (x.cmds.map (s1.discardRecord q)).foldl State.record s1
    ((s2.setQueue q { x with st := .faulted, cmds := [] }).tellState q 2 0).drawn

/-- A fault of a cell on core `k` that is not serviced (R112). -/
def State.coreFatal (s : State) (k cause : Nat) (va : Word) : State :=
  match (s.core k).occ with
  | none => s
  | some o =>
    match s.sched.tasks.find? (fun t => t.uid == o.task) with
    | none => s
    | some t => s.queueFatal o.queue.toNat (some t.cmdN) (some t) stFault cause va

/-- A part of the fabric stops on a fault that is never serviced (R252, R270, R385). -/
def State.partFatal (s : State) (k i slot cause : Nat) : State := s.coreFatal k cause (partVa k i slot)

end Sys2Proof.Machine
end

