-- ==== Sys2Proof/Machine/Token.lean ====
section
/-! DEFINITION. Tokens and marks: their fields, identities and how they are formed (R244 to R247, R257, R258). -/

namespace Sys2Proof.Machine

/-- Lane `n` of a payload (R244). -/
def laneOf (l : Line) (n : Nat) : Nat := l.toNat / 2 ^ (32 * n) % 2 ^ 32

/-- A payload of 32 lanes. -/
def lineOfLanes (ls : List Nat) : Line := BitVec.ofNat 1024 (ls.foldr (fun x a => a * 2 ^ 32 + x % 2 ^ 32) 0)

/-- The lanes of a payload. -/
def lanesOf (l : Line) : List Nat := (List.range 32).map (laneOf l)

/-- A group mask has group `g`. -/
def hasGroup (mask : BitVec 4) (g : Nat) : Bool := mask.getLsbD g

/-- A payload with zero in the groups outside a mask (R244). -/
def maskLine (l : Line) (mask : BitVec 4) : Line :=
  lineOfLanes ((List.range 32).map (fun n => if hasGroup mask (n / 8) then laneOf l n else 0))

/-- A mark (R245). -/
def Token.isMark (t : Token) : Bool := t.tag.getLsbD 15

/-- Fields of a data token's tag (R244). -/
def Token.round (t : Token) : BitVec 6 := BitVec.ofNat 6 (bits t.tag 14 9)
def Token.valid (t : Token) : BitVec 4 := BitVec.ofNat 4 (bits t.tag 8 5)
def Token.fmt (t : Token) : BitVec 4 := BitVec.ofNat 4 (bits t.tag 4 1)

/-- The tag of a data token (R244). -/
def dataTag (round : BitVec 6) (valid fmt : BitVec 4) : BitVec 16 :=
  BitVec.ofNat 16 (round.toNat * 2 ^ 9 + valid.toNat * 2 ^ 5 + fmt.toNat * 2)

/-- A data token. -/
def mkData (l : Line) (round : BitVec 6) (valid fmt : BitVec 4) : Token := ⟨l, dataTag round valid fmt⟩

/-- A lane as a node reads it: zero in an invalid group (R244). -/
def Token.lane (t : Token) (n : Nat) : Nat := if hasGroup t.valid (n / 8) then laneOf t.payload n else 0

/-- The payload as a node reads it. -/
def Token.line (t : Token) : Line := maskLine t.payload t.valid

/-- A data token with another ROUND. -/
def Token.withRound (t : Token) (r : BitVec 6) : Token := { t with tag := dataTag r t.valid t.fmt }

/-! ## Marks (R245) -/

def kEor : Nat := 0
def kCfg : Nat := 1
def kWsw : Nat := 2
def kMod : Nat := 3
def kFls : Nat := 4
def kSav : Nat := 5
def kRst : Nat := 6
def kSwp : Nat := 7
def kTsc : Nat := 8
def kFen : Nat := 9
def kQsc : Nat := 10
def kBrk : Nat := 11

def Token.kind (t : Token) : Nat := bits t.payload 3 0
def Token.level (t : Token) : Nat := bits t.payload 6 4
def Token.seq (t : Token) : Nat := bits t.payload 31 16
def Token.origin (t : Token) : Nat := bits t.payload 47 36
def Token.pl (t : Token) : Nat := bits t.payload 127 64

/-- RUN of a SAV, RST or QSC: the tokens of the state run behind it (R259). -/
def Token.run (t : Token) : Nat := if t.kind = kSav ∨ t.kind = kRst ∨ t.kind = kQsc then t.pl % 2 ^ 32 else 0

/-- Where a mark comes from: ODIE, OCORE and OPORT (R245). -/
def markOrigin (core port : Nat) : Nat := (core / 16) * 2 ^ 9 + (core % 16) * 2 ^ 5 + port

/-- A mark that die firmware or the swap arbiter has injected: OPORT 17 or 18 (R245). -/
def Token.injected (t : Token) : Bool := t.isMark && (t.origin % 32 == 17 || t.origin % 32 == 18)

/-- A mark (R245). -/
def mkMark (kind level seq origin pl : Nat) : Token :=
  ⟨BitVec.ofNat 1024 (kind % 16 + level % 8 * 16 + seq % 65536 * 2 ^ 16 + origin % 4096 * 2 ^ 36 + pl % 2 ^ 64 * 2 ^ 64), 0x8000⟩

/-- PAYLOAD's reserved bits by kind are clear (R245); MOD's rounding code is one of 0 to 4 (R283). -/
def markPayloadOk (kind pl : Nat) : Bool :=
  match kind with
  | 0 => decide (pl < 2)
  | 1 => decide (pl < 2 ^ 32)
  | 2 => pl == 0
  | 3 => decide (pl < 32) && decide (pl % 8 ≤ 4)
  | 4 => pl == 0
  | 5 => decide (pl < 2 ^ 32)
  | 6 => decide (pl < 2 ^ 32)
  | 7 => decide (pl < 256)
  | 8 => pl == 0
  | 9 => decide (pl < 8)
  | 10 => decide (pl < 2 ^ 32)
  | 11 => decide (pl < 65536)
  | _ => false

/-- A mark that raises MARK_BAD at the first node it reaches (R245). -/
def Token.badMark (t : Token) : Bool :=
  bits t.tag 14 0 != 0 || decide (12 ≤ t.kind) || bits t.payload 15 7 != 0 || (t.kind != kEor && t.level != 0) ||
  bits t.payload 35 32 != 0 || bits t.payload 63 48 != 0 || decide (2 ^ 128 ≤ t.payload.toNat) || !markPayloadOk t.kind t.pl

/-- Two marks of one identity (R247). -/
def Token.sameMark (a b : Token) : Bool :=
  a.kind == b.kind && a.seq == b.seq && (if a.kind = kEor then a.level == b.level else a.origin == b.origin)

/-- A mark with another RUN (R247, R259). -/
def Token.withRun (t : Token) (r : Nat) : Token := mkMark t.kind t.level t.seq t.origin r

/-- The state header of a state unit (R257). -/
def stateHeader (cell site slot kind k : Nat) (round : BitVec 6) : Token :=
  mkData (BitVec.ofNat 1024 (cell % 256 + site % 256 * 2 ^ 8 + slot % 256 * 2 ^ 16 + kind % 256 * 2 ^ 24 + k % 2 ^ 32 * 2 ^ 32)) round 1 0

/-- The time token behind a TSC (R258). -/
def timeToken (t : BitVec 96) (round : BitVec 6) : Token := mkData (t.setWidth 1024) round 1 1

end Sys2Proof.Machine
end

