-- ==== Sys2Proof/Machine/Fabric.lean ====
section
/-! DEFINITION. The fabric of a core: switch boxes and the routes they configure (R229 to R231, R312), elastic buffers (R275, R276), outputs and
how tokens leave a core (R217, R218, R313), packets that enter it (R219 to R221), and align timers (R251). -/

namespace Sys2Proof.Machine

/-! ## Switch frames (R312) -/

/-- The first switch frame of a site's set (R308). -/
def swBase (i : Nat) : Nat := if isCSite i then 19 else if isMSite i then 3 else 0

def Site.sw (x : Site) (i f : Nat) : Frame := x.frame (swBase i + f)

/-- Bits of operator entry `m`. -/
def Site.opField (x : Site) (i m hi lo : Nat) : Nat := bits (x.sw i 0) (64 * m + hi) (64 * m + lo)

def Site.opKind (x : Site) (i m : Nat) : Nat := x.opField i m 3 0
def Site.opLevel (x : Site) (i m : Nat) : Nat := x.opField i m 6 4
def Site.opPad (x : Site) (i m : Nat) : Nat := x.opField i m 63 32

/-- The box's compression threshold (R276). -/
def Site.threshold (x : Site) (i : Nat) : Nat := x.opField i 0 15 12

/-- Sink entry of a box: EN in bit 7 and SOURCE. -/
def Site.sinkEntry (x : Site) (i snk : Nat) : Nat := bits (x.sw i (1 + snk / 32)) (8 * (snk % 32) + 7) (8 * (snk % 32))

def Site.sinkOn (x : Site) (i snk : Nat) : Bool := decide (128 ≤ x.sinkEntry i snk)
def Site.feeds (x : Site) (i snk src : Nat) : Bool := x.sinkEntry i snk == 128 + src

/-- The next segment end of a track along a channel of `n` positions (R230, R312). -/
def trackNext (n tau pos : Nat) (up : Bool) : Option Nat :=
  let go : Nat → Option Nat := fun d =>
    if up then (if pos + d < n then some (pos + d) else none) else if d ≤ pos then some (pos - d) else none
  if tau < 6 then go 1
  else if tau < 10 then (if pos % 4 = tau - 6 then go 4 else none)
  else if up && pos == tau - 10 then some (n - 12 + tau)
  else if !up && pos == n - 12 + tau then some (tau - 10)
  else none

/-- The box at the other end of an outgoing track: 0 north, 1 east, 2 south, 3 west; rows count from north. -/
def trackEnd (i d tau : Nat) : Option Nat :=
  let r := siteRow i
  let c := siteCol i
  match d with
  | 0 => (trackNext 12 tau r false).map (fun r' => 18 * r' + c)
  | 1 => (trackNext 18 tau c true).map (fun c' => 18 * r + c')
  | 2 => (trackNext 12 tau r true).map (fun r' => 18 * r' + c)
  | _ => (trackNext 18 tau c false).map (fun c' => 18 * r + c')

/-- Whether a track has a segment end at a box (R312). -/
def trackAt (i d tau : Nat) : Bool :=
  let n := if d % 2 = 0 then 12 else 18
  let pos := if d % 2 = 0 then siteRow i else siteCol i
  if tau < 6 then true
  else if tau < 10 then pos % 4 == tau - 6
  else pos == tau - 10 || pos == n - 12 + tau

/-- Where a source of a box leads: sites and sink inputs, following tracks. A track that arrives is numbered as it left (R312). -/
def State.fanout (s : State) (k : Nat) : Nat → Nat → Nat → List (Nat × Nat)
  | 0, _, _ => []
  | fuel + 1, i, src =>
    ((List.range 68).filter (fun snk => (s.site k i).feeds i snk src)).flatMap (fun snk =>
      if snk < 48 then
        match trackEnd i (snk / 12) (snk % 12) with
        | none => []
        | some j => s.fanout k fuel j snk
      else [(i, snk)])

/-- The inputs that a source of a site feeds: no route has more segments than the core has track ends. -/
def State.dests (s : State) (k i src : Nat) : List (Nat × Nat) := s.fanout k 10400 i src

/-! ## Elastic buffers (R275, R276) -/

/-- Quarters that a token takes, compressed or not. -/
def tokQuarters (t : Token) (squeeze : Bool) : Nat :=
  if squeeze then max 1 ((List.range 4).filter (hasGroup t.valid)).length else 4

/-- TD_FLAGS of the task of a core's occupant: RESIDENT, LATENCY, PINNED (R116). -/
def State.taskOf (s : State) (k : Nat) : Option Task :=
  match (s.core k).occ with
  | none => none
  | some o => s.sched.tasks.find? (fun t => t.uid == o.task)

def Task.flag (t : Task) (b : Nat) : Bool := (byteAt t.desc 0x0D).getLsbD b

/-- The compression threshold of a box: compression is off on every path of a latency task (R135, R276). -/
def State.squeezeAt (s : State) (k i : Nat) : Nat :=
  if (match s.taskOf k with | some t => t.flag 1 | none => false) then 8 else (s.site k i).threshold i

/-- Two data tokens of a run: equal in tag and in the payload of their valid groups (R276). -/
def Token.joins (a b : Token) : Bool := a.tag == b.tag && a.line == b.line && !a.isMark

/-- A token entering a buffer: none where it does not fit. Once more than CT tokens are queued, data is stored compressed. -/
def chanPush (ct : Nat) (q : List Queued) (t : Token) : Option (List Queued) :=
  let squeeze := decide (ct < 8) && decide (ct < (q.map Queued.run).sum) && !t.isMark
  let need := tokQuarters t squeeze
  let fresh := if q.length < 8 ∧ (q.map Queued.q).sum + need ≤ 32 then some (q ++ [{ tok := t, q := need, more := [] }]) else none
  match q.getLast? with
  | some e => if squeeze && e.tok.joins t && decide (e.run < 256) then some (q.dropLast ++ [{ e with more := e.more ++ [t.payload] }]) else fresh
  | none => fresh

/-- A token leaving a buffer: each keeps its bits. -/
def chanPop : List Queued → List Queued
  | [] => []
  | e :: q =>
    match e.more with
    | p :: ps => { e with tok := { e.tok with payload := p }, more := ps } :: q
    | [] => q

/-- The token at the head of an input: none that a part may take while its site's new frames come behind a CFG mark (R243). -/
def State.head (s : State) (k i snk : Nat) : Option Token :=
  if (s.site k i).via.isSome then none else ((s.chan k i snk).head?).map Queued.tok

def State.pop (s : State) (k i snk : Nat) : State := s.setChan k i snk (chanPop (s.chan k i snk))

/-- An M tile without a role, and a cache bank, have no fabric port (R235, R266). -/
def Site.portless (x : Site) (i snk : Nat) : Bool := isMSite i && decide (48 ≤ snk) && decide (snk < 52) && (x.role == 0 || x.role == 4)

/-- An input accepts a token: its site has passed its CFG mark, it is a port of the tile's role, and the buffer has room (R127, R235, R275). -/
def State.accepts (s : State) (k : Nat) (t : Token) (d : Nat × Nat) : Bool :=
  let x := s.site k d.1
  x.frames != [] && !x.portless d.1 d.2 && (chanPush (s.squeezeAt k d.1) (s.chan k d.1 d.2) t).isSome

def State.push (s : State) (k : Nat) (t : Token) (d : Nat × Nat) : State :=
  match chanPush (s.squeezeAt k d.1) (s.chan k d.1 d.2) t with
  | some q => s.setChan k d.1 d.2 q
  | none => s

/-! ## Parts of a site -/

/-- Input `n` of a tile is bound to node `j` (R309). -/
def Site.nodeIn (x : Site) (j n : Nat) : Bool := bits (x.frame 0) (32 + n) (32 + n) == 1 && bits (x.frame 0) (24 + n) (24 + n) == j
def Site.nodeOut (x : Site) (j n : Nat) : Bool := bits (x.frame 0) (36 + n) (36 + n) == 1 && bits (x.frame 0) (28 + n) (28 + n) == j

/-- Header fields of node `j` (R309). -/
def Site.nodeRule (x : Site) (j : Nat) : Nat := bits (x.frame 0) (41 + 2 * j) (40 + 2 * j)
def Site.nodeCtl (x : Site) (j : Nat) : Nat := bits (x.frame 0) (45 + 2 * j) (44 + 2 * j)
def Site.nodeT (x : Site) (j : Nat) : Nat := bits (x.frame 0) (51 + 4 * j) (48 + 4 * j)
def Site.nodeLr (x : Site) (j : Nat) : Nat := bits (x.frame 0) (58 + 4 * j) (56 + 4 * j)
def Site.nodeRlen (x : Site) (j : Nat) : Bool := bits (x.frame 0) (59 + 4 * j) (59 + 4 * j) == 1
def Site.nodeSink (x : Site) (j : Nat) : Bool := bits (x.frame 0) (64 + j) (64 + j) == 1

/-- Frames 4 to 7 of a port block's site: handlers, SINK and T, send bindings, grants (R308, R313). -/
def State.portFrame (s : State) (k n f : Nat) : Nat := ((s.site k (portSite n)).frame (4 + f)).toNat

/-- Handler entry of a class (R218). -/
def State.handler (s : State) (k n c : Nat) : Nat := s.portFrame k n 0 / 2 ^ (16 * c) % 2 ^ 16

/-- Send binding `b` of a port block (R313). -/
def State.binding (s : State) (k n b : Nat) : Nat := s.portFrame k n 2 / 2 ^ (32 * b) % 2 ^ 32

def State.bindings (s : State) (k n : Nat) : List Nat := (List.range 8).filter (fun b => s.binding k n b % 2 == 1)

/-- The send binding of a class (R313). -/
def State.bindingOf (s : State) (k n c : Nat) : Option Nat := (s.bindings k n).find? (fun b => nbits (s.binding k n b) 4 1 == c)

/-- A port block whose frame marks it as a sink (R313). -/
def State.portSink (s : State) (k n : Nat) : Bool := s.portFrame k n 1 % 2 == 1

/-- A tile input that a handler entry of the core names. -/
def State.handled (s : State) (k i n : Nat) : Bool :=
  (List.range 16).any (fun p => (List.range 16).any (fun c => nbits (s.handler k p c) 10 0 == 1 + 2 * i + 2 ^ 9 * n))

/-- Inputs of a switch operator in use. -/
def Site.opIns (x : Site) (i m : Nat) : List Nat := ((List.range 4).filter (fun n => x.sinkOn i (52 + 4 * m + n))).map (fun n => 52 + 4 * m + n)

/-- Bound inputs of an M tile. -/
def State.tileIns (s : State) (k i : Nat) : List Nat :=
  ((List.range 4).filter (fun n => (s.site k i).sinkOn i (48 + n) || s.handled k i n)).map (fun n => 48 + n)

/-- The bound inputs of a port block. -/
def State.portIns (s : State) (k n : Nat) : List Nat :=
  (List.range 4).filter (fun i => (s.site k (portSite n)).sinkOn (portSite n) (48 + i) || s.handled k (portSite n) i)

/-- The port block whose input i3 a stream takes its indices from (R314, R402). -/
def StreamSt.indexPort (t : StreamSt) : Option Nat := if bits t.spb 100 100 = 1 then some (bits t.spb 99 96) else none

/-- The stream of an entry, and the active stream of a port block: the one that has started. -/
def PortItem.stream? (x : PortItem) : Option StreamSt :=
  match x with
  | .stream t => some t
  | .mark .. => none

def Port.active (p : Port) : Option StreamSt := (p.items.filterMap PortItem.stream?).find? StreamSt.started

/-- Input i3 of a port block serves index streams: one holds it, or one in a queue names it (R404). -/
def State.indexed (s : State) (k n : Nat) : Bool :=
  (s.port k n).ixq != [] ||
  (s.core k).ports.any (fun p => (p.2.items.filterMap PortItem.stream?).any (fun t => t.indexPort == some n))

/-- The inputs that align at a port block, with their sites: its own but for an index input, and the index input of a SCAT (R250, R403). -/
def State.portJoins (s : State) (k n : Nat) : List (Nat × Nat) :=
  let own := ((s.portIns k n).filter (fun i => i != 3 || !s.indexed k n)).map (fun i => (portSite n, 48 + i))
  match (s.port k n).active with
  | none => own
  | some t =>
    match t.indexPort with
    | some x => if bits t.spb 68 67 = 2 then own ++ [(portSite x, 51)] else own
    | none => own

/-- The inputs that align under Rule J at a part: all of a node's, of an operator's but for the back edge of a CARRY, of an M tile's (R250,
R253, R266). A ring takes marks as it takes data (R272). -/
def State.joins (s : State) (k i slot : Nat) : List Nat :=
  let x := s.site k i
  if slot < 2 then ((List.range 4).filter (x.nodeIn slot)).map (fun n => 48 + n)
  else if slot < 6 then
    let m := slot - 2
    if x.opKind i m = 7 then (x.opIns i m).filter (fun k => k != 52 + 4 * m + 1) else x.opIns i m
  else if slot = 6 then
    if x.role = 1 then s.tileIns k i else if x.role = 3 then [48, 49] else []
  else []

/-- The bound outputs of a part, lowest first. -/
def State.outs (s : State) (k i slot : Nat) : List Nat :=
  let x := s.site k i
  if slot < 2 then ((List.range 4).filter (x.nodeOut slot)).map (fun n => 48 + n)
  else if slot < 6 then ((List.range 4).map (fun n => 52 + 4 * (slot - 2) + n)).filter (fun o => s.dests k i o != [])
  else ((List.range 4).map (fun n => 48 + n)).filter (fun o => s.dests k i o != [])

/-! ## Outputs -/

/-- An output of a C tile: it holds one token until the box accepts it (R232). -/
def isTileOut (i src : Nat) : Bool := isCSite i && decide (48 ≤ src) && decide (src < 52)

/-- An output has room for a token. -/
def State.outRoom (s : State) (k i : Nat) (t : Token) (src : Nat) : Bool :=
  if isTileOut i src then (((s.site k i).ct.o.getD (src - 48) none)).isNone else (s.dests k i src).all (s.accepts k t)

/-- Emit a token on an output that has room: to every input it feeds. -/
def State.emit (s : State) (k i : Nat) (t : Token) (src : Nat) : State :=
  if isTileOut i src then
    let x := s.site k i
    s.setSite k i { x with ct := { x.ct with o := x.ct.o.set (src - 48) (some t) } }
  else (s.dests k i src).foldl (fun s d => s.push k t d) s

/-! ## Packets of class STR -/

/-- The core where a cell of a region of the same task as core `k`'s occupant lies (R313). -/
def State.regionCore (s : State) (k region cell : Nat) : Option Nat :=
  match (s.core k).occ with
  | none => none
  | some o =>
    (s.cores.find? (fun c =>
      match c.2.occ with
      | some p => p.task == o.task && p.region.toNat == region && p.cell.toNat == cell
      | none => false)).map (fun c => c.1)

/-- An STR packet that carries a token (R214, R217). -/
def strPacket (src sport dst dport rclass : Nat) (t : Token) : Packet :=
  { id := 0, cls := 2, rclass := BitVec.ofNat 4 rclass, kind := 8, src := src, sport := BitVec.ofNat 4 sport, dst := dst,
    dport := BitVec.ofNat 4 dport, tag := t.tag, addr := 0, dset := 0, lines := 0, op := 0, asn := 0, access := 0,
    payload := lineBytes t.payload, badHeader := false }

/-- The token of a packet. -/
def Packet.token (p : Packet) : Token := ⟨lineOf p.payload, p.tag⟩

/-- Send a token on a binding, which costs a credit; none without one, or while the destination is not loaded and released (R127, R128, R217). -/
def State.sendBinding (s : State) (k n b : Nat) (t : Token) : Option State :=
  let e := s.binding k n b
  let p := s.port k n
  if p.credits.getD b 0 = 0 then none
  else
    match (s.regionCore k (nbits e 18 16) (nbits e 8 5)).filter (fun j => match (s.core j).occ with | some o => o.configured | none => false) with
    | none => none
    | some j =>
      let s1 := s.setPort k n { p with credits := p.credits.modify b (· - 1) }
      let r := s.routeTo 2 (BitVec.ofNat 4 (nbits e 4 1)) k j
      some (s1.sendPacket (strPacket (coreNode r.1) n (coreNode r.2) (nbits e 12 9) (nbits e 4 1) t))

/-- The credit of a packet goes back to its sender, on the class that it was sent on (R217, R227). -/
def State.returnCredit (s : State) (p : Packet) : State :=
  s.sendPacket
    { id := 0, cls := 1, rclass := 0, kind := 12, src := p.dst, sport := p.dport, dst := p.src, dport := p.sport,
      tag := p.channel.setWidth 16, addr := 0, dset := 0, lines := 0, op := 0, asn := 0, access := 0, payload := [], badHeader := false }

/-- The header of an STR packet as it has come (R214): what the model keeps in its ADDR and DSET is none of it. -/
def State.headerOf (s : State) (p : Packet) : Frame :=
  BitVec.ofNat 256 (packetHeader (s.pkgOf p.dst) (s.pkgOf p.src) (p.dst % 256) (p.src % 256) { p with addr := 0, dset := 0 })

/-- The unbound handler logs a packet's header, drops it and answers UNBOUND_CLASS, which returns the credit (R220). -/
def State.unbound (s : State) (p : Packet) : State :=
  ({ s with net := { s.net with unbound := s.net.unbound ++ [s.headerOf p] } }).sendPacket
    { id := 0, cls := 1, rclass := 0, kind := 7, src := p.dst, sport := p.dport, dst := p.src, dport := p.sport,
      tag := p.channel.setWidth 16, addr := 0, dset := 0, lines := 0, op := BitVec.ofNat 8 cUnbound, asn := 0, access := 0,
      payload := [], badHeader := false }

/-- A packet that came by a new route waits for the flip marker of its channel (R148): `dset` 2 marks it, 1 a forwarded packet. -/
def State.flipHolds (s : State) (k : Nat) (p : Packet) : Bool :=
  p.dset == 2 && s.swap.flips.any (fun f => coreNode f.src == p.src && f.newCore == k && f.cls == p.cls && f.rclass == p.channel)

/-- The sender of a packet: where a moved cell sent it from its old core, the core it stands on now (R148). -/
def State.senderNode (s : State) (k : Nat) (p : Packet) : Nat :=
  match s.swap.flips.find? (fun f => f.oldSrc != f.src && f.carries p && f.newCore == k) with
  | some f => if p.dset = 2 then p.src else coreNode f.src
  | none => p.src

/-- The SWP that a receiving port of core `k` has inserted waits for room at its fabric input (R145). -/
def Packet.isCut (p : Packet) (k : Nat) : Bool := p.token.kind == kSwp && p.token.isMark && p.src == coreNode k

/-- The handler entry by which a packet goes: the one that stood as it arrived, which its ADDR keeps, or for one that has been held the one that
stands as it is released (R219, R221). -/
def State.entryFor (s : State) (k : Nat) (p : Packet) : Nat :=
  if 65536 ≤ p.addr.toNat then p.addr.toNat % 65536 else s.handler k p.dport.toNat p.rclass.toNat

/-- A packet enters the fabric by its handler entry, or goes to the unbound handler; none where it has to wait: its class is masked, its
core is in an exchange, its flip marker is due, or the input is full (R127, R145, R148, R219, R221). -/
def State.enterStr (s : State) (k : Nat) (p : Packet) : Option State :=
  let n := p.dport.toNat
  let e := s.entryFor k p
  let d := (nbits e 8 1, 48 + nbits e 10 9)
  if p.isCut k then (if s.accepts k p.token d then some (s.push k p.token d) else none)
  else if (s.port k n).mask.getLsbD p.rclass.toNat || s.claimed k || s.flipHolds k p then none
  else if e % 2 = 0 then
    (if (s.site k (portSite n)).frames = [] then none else some (s.unbound { p with src := s.senderNode k p }))
  else
    if s.accepts k p.token d then some ((s.push k p.token d).returnCredit { p with src := s.senderNode k p }) else none

/-- Release what a port holds, in arrival order within each class; a packet that waits for its flip marker holds no other (R148, R221). -/
def State.releaseHeld (k n : Nat) : List Packet → List (BitVec 4) → State → State
  | [], _, s => s
  | p :: ps, shut, s =>
    if shut.contains p.rclass || s.flipHolds k p then State.releaseHeld k n ps shut s
    else
      match s.enterStr k p with
      | none => State.releaseHeld k n ps (p.rclass :: shut) s
      | some s1 =>
        let q := s1.port k n
        State.releaseHeld k n ps shut (s1.setPort k n { q with held := q.held.filter (fun h => h.id != p.id) })

/-! ## Settling -/

/-- Tokens that a port has formed leave by its outputs and bindings, in order on each; a token for an output that nothing connects is
discarded (R338). -/
def State.flushPort (k n : Nat) : List (Nat × Token) → List Nat → List (Nat × Token) → State → List (Nat × Token) × State
  | [], _, kept, s => (kept, s)
  | (t, x) :: rest, shut, kept, s =>
    if shut.contains t then State.flushPort k n rest shut (kept ++ [(t, x)]) s
    else if t < 8 then
      let ds := s.dests k (portSite n) (48 + t)
      if ds.all (s.accepts k x) then State.flushPort k n rest shut kept (ds.foldl (fun s d => s.push k x d) s)
      else State.flushPort k n rest (t :: shut) (kept ++ [(t, x)]) s
    else
      match s.sendBinding k n (t - 8) x with
      | some s1 => State.flushPort k n rest shut kept s1
      | none => State.flushPort k n rest (t :: shut) (kept ++ [(t, x)]) s

/-- The time tokens behind a TSC hold the time at which the mark leaves (R258): until it has left an output they take the time now. Nothing else
is queued behind a TSC before it has left. -/
def Port.restamp (p : Port) (now : BitVec 96) : Port :=
  { p with
    outq := p.outq.map (fun q =>
      if !q.2.isMark && p.outq.any (fun r => r.1 == q.1 && r.2.isMark && r.2.kind == kTsc) then (q.1, timeToken now q.2.round) else q) }

/-- A port hands on what it can, both ways. -/
def State.settlePort (s : State) (k n : Nat) : State :=
  let p := (s.port k n).restamp (s.timeOf (reticleOf k))
  let (kept, s1) := if p.outq = [] then ([], s) else State.flushPort k n p.outq [] [] s
  let s2 := if p.outq = kept then s1 else s1.setPort k n { s1.port k n with outq := kept }
  State.releaseHeld k n p.held [] s2

/-- A C tile's outputs move on where the box accepts them (R232). -/
def State.settleTile (s : State) (k i : Nat) : State :=
  (List.range 4).foldl
    (fun s n =>
      match (s.site k i).ct.o.getD n none with
      | none => s
      | some t =>
        let ds := s.dests k i (48 + n)
        if ds != [] && ds.all (s.accepts k t) then
          let x := s.site k i
          ds.foldl (fun s d => s.push k t d) (s.setSite k i { x with ct := { x.ct with o := x.ct.o.set n none } })
        else s) s

/-- A part has a mark at an input that aligns. -/
def State.hasMark (s : State) (k i slot : Nat) : Bool :=
  (s.joins k i slot).any (fun snk => match s.head k i snk with | some t => t.isMark | none => false)

/-- The align timer: it starts when an input becomes blocked (R251). -/
def timerAt (now : Nat) (old : Option Nat) (mark : Bool) : Option Nat := if mark then some (old.getD now) else none

/-- The timer pauses: a generator of the task holds a VALID record, the core is in an exchange, or the task is being pre-empted (R251). -/
def State.timerPaused (s : State) (k : Nat) : Bool :=
  match (s.core k).occ with
  | none => s.claimed k
  | some o =>
    s.claimed k || o.quiescing ||
    s.cores.any (fun c =>
      match c.2.occ with
      | some q => q.task == o.task && (q.quiescing || c.2.ports.any (fun p => p.2.fault.valid))
      | none => false)

/-- The align timers of a site. -/
def State.timers (s : State) (k i : Nat) : State :=
  let x := s.site k i
  let now := s.time.cycle
  let t : Nat → Option Nat → Option Nat := fun slot old => timerAt now old (s.hasMark k i slot)
  let ops := x.ops.mapIdx (fun m o => { o with blocked := t (2 + m) o.blocked })
  let c := x.ct
  let ct := { c with
    node0 := { c.node0 with blocked := t 0 c.node0.blocked }
    node1 := { c.node1 with blocked := t 1 c.node1.blocked } }
  s.setSite k i { x with ops := ops, ct := ct, mt := { x.mt with blocked := t 6 x.mt.blocked } }

/-- The align timer of a port block. -/
def State.portTimer (s : State) (k n : Nat) : State :=
  let p := s.port k n
  let mark := (s.portJoins k n).any (fun d => match s.head k d.1 d.2 with | some t => t.isMark | none => false)
  s.setPort k n { p with blocked := timerAt s.time.cycle p.blocked mark }

/-- After a step in a core's fabric: outputs move on, ports hand on what they can, and the timers follow. -/
def State.settle (s : State) (k : Nat) : State :=
  let sites := ((s.core k).sites).map (fun x => x.1)
  let s1 := (sites.filter isCSite).foldl (fun s i => s.settleTile k i) s
  let ports := ((s.core k).ports).map (fun p => p.1)
  let s2 := ports.foldl (fun s n => s.settlePort k n) s1
  let s3 := sites.foldl (fun s i => s.timers k i) s2
  ports.foldl (fun s n => s.portTimer k n) s3

end Sys2Proof.Machine
end

