-- ==== Sys2Proof/Machine/Adders.lean ====
section
/-! DEFINITION. In-flight adders of die edges and pod links (R227, R228). -/

namespace Sys2Proof.Machine

open Host (Outcome)

/-- The elements of a token in an adder's format: those of invalid groups read as +0 (R227). -/
def adderElem (bf16 : Bool) (t : Token) (e : Nat) : Nat :=
  if bf16 then t.lane (e / 2) / 2 ^ (16 * (e % 2)) % 2 ^ 16 else t.lane e

/-- One sum: rounded to nearest even, a NaN canonical (R227). -/
def adderSum (bf16 : Bool) (a b : Nat) : Nat :=
  let f : Fmt := if bf16 then .bf16 else .f32
  roundFV f ovNone .rne (fvAdd .rne (fpVal f a) (fpVal f b))

/-- The token that an adder makes of its heads U and L (R227). -/
def adderToken (bf16 : Bool) (u l : Token) : Token :=
  let sum : Nat → Nat := fun e => adderSum bf16 (adderElem bf16 u e) (adderElem bf16 l e)
  let lanes := (List.range 32).map (fun n => if bf16 then sum (2 * n) + sum (2 * n + 1) * 2 ^ 16 else sum n)
  mkData (lineOfLanes lanes) l.round (l.valid ||| u.valid) (if bf16 then 4 else 3)

/-- An adder takes an STR packet on its way: by which input, if it is on that packet's path and of that input's class. -/
def Adder.takes (a : Adder) (place : Nat) (p : Packet) : Option Bool :=
  if a.dst ≠ p.dst ∨ a.dport ≠ p.dport then none
  else if a.lCls = p.rclass ∧ a.lFrom = p.access ∧ (16 ≤ place ∨ p.access ≠ 0 ∨ p.src / 32 = place / 2) then some false
  else if a.uCls = p.rclass ∧ a.uFrom = some p.access then some true
  else none

/-- The node of the core that a packet's destination cell stands on now: one sent by an old route goes to the cell's old site first (R148). -/
def State.finalNode (s : State) (p : Packet) : Nat :=
  match s.swap.flips.find? (fun f => f.carries p && coreNode f.oldCore == p.dst && !f.gone) with
  | some f => coreNode f.newCore
  | none => p.dst

/-- The adder that takes a packet, and whether at U. -/
def State.adderFor (s : State) (p : Packet) : Option (Nat × Adder × Bool) :=
  s.net.adders.findSome? (fun a => (a.2.takes a.1 { p with dst := s.finalNode p }).map (fun u => (a.1, a.2, u)))

def State.setAdder (s : State) (place : Nat) (a : Adder) : State := { s with net := { s.net with adders := tabPut s.net.adders place a } }

/-- A head waits with a mark: the align timer starts (R228, R251). -/
def Adder.timed (a : Adder) (now : Nat) : Adder :=
  let mark := (a.l.head?.map (fun p => p.token.isMark)).getD false || (a.u.head?.map (fun p => p.token.isMark)).getD false
  { a with blocked := if mark then some (a.blocked.getD now) else none }

/-- A packet waits at an adder's input. -/
def State.adderPut (s : State) (place : Nat) (a : Adder) (atU : Bool) (p : Packet) : State :=
  s.setAdder place ((if atU then { a with u := a.u ++ [p] } else { a with l := a.l ++ [p] }).timed s.time.cycle)

/-- MARK_SKEW at an adder stops it and is fatal to the queue of its task (R228, R252). The spec gives its location no form: a free value. -/
def State.adderSkew (s : State) (place : Nat) (a : Adder) : State :=
  let s1 := (s.setAdder place { a with cause := BitVec.ofNat 8 cMarkSkew }).drawn
  match s1.sched.tasks.find? (fun t => t.uid == a.task) with
  | some t => s1.queueFatal t.queue.toNat (some t.cmdN) (some t) stFault cMarkSkew (Config.freeWord s.draws)
  | none => s1

/-- What an adder emits: the packet of a head on its downstream class, which goes on to the next adder or its port, or over a pod link to the next
package (R227). -/
def State.adderEmit (s : State) (place : Nat) (p : Packet) (t : Token) : State :=
  let a := tabFind s.net.adders place
  let cls := match a with | some a => a.cls | none => p.rclass
  let dest := (a.bind Adder.next).getD (p.dst, p.dport)
  s.sendPacket
    { p with
      tag := t.tag, payload := lineBytes t.payload, access := place + 1, rclass := cls, op := p.channel.setWidth 8 + 1, dst := dest.1, dport := dest.2 }

/-- One act of an adder: a token of a state run behind a mark; without U its head unchanged; else a strict join of its two heads, whose
packet of U gives its credit back (R227, R228). -/
def State.adderStep (s : State) (place : Nat) (a : Adder) : State :=
  let now := s.time.cycle
  match a.runL, a.runU, a.l, a.u with
  | n + 1, _, p :: ps, _ => (s.setAdder place (({ a with runL := n, l := ps } : Adder).timed now)).adderEmit place p p.token
  | _ + 1, _, [], _ => s
  | 0, n + 1, _, p :: ps => (s.setAdder place (({ a with runU := n, u := ps } : Adder).timed now)).adderEmit place p p.token
  | 0, _ + 1, _, [] => s
  | 0, 0, [], _ => s
  | 0, 0, p :: ps, us =>
    if a.uFrom = none then (s.setAdder place (({ a with l := ps, blocked := none } : Adder).timed now)).adderEmit place p p.token
    else
      match us with
      | [] => s
      | q :: qs =>
        let l := p.token
        let u := q.token
        let a1 := { a with l := ps, u := qs }
        if !l.isMark && !u.isMark then
          ((s.setAdder place (a1.timed now)).adderEmit place p (adderToken a.bf16 u l)).returnCredit q
        else if l.isMark && u.isMark then
          if !l.sameMark u then s.adderSkew place a
          else
            let m := if l.run = 0 ∧ u.run = 0 then l else l.withRun (l.run + u.run)
            let a2 := { a1 with runL := l.run, runU := u.run, blocked := none }
            ((s.setAdder place (a2.timed now)).adderEmit place p m).returnCredit q
        else s

/-- ADDER_FIRE: the adder that the input's number names acts (R227, R228). -/
def execAdderFire (s : State) : Outcome State Fault Refusal :=
  let place := s.input.num
  .next (match tabFind s.net.adders place with
    | none => s
    | some a => if a.cause = 0 then s.adderStep place a else s)

/-- The align timer of an adder pauses as those of the cell that its stream goes to (R228, R251). -/
def State.adderPaused (s : State) (a : Adder) : Bool := match nodeCore a.dst with | some k => s.timerPaused k | none => false

/-- The align timer of an adder reaches 2^20 cycles (R228). -/
def State.adderTimeout (s : State) (place : Nat) : State :=
  match tabFind s.net.adders place with
  | none => s
  | some a =>
    match a.blocked with
    | none => s
    | some since => if a.cause = 0 ∧ !s.adderPaused a ∧ since + 2 ^ 20 ≤ s.time.cycle then s.adderSkew place a else s

end Sys2Proof.Machine
end

