-- ==== Sys2Proof/Machine/Alu.lean ====
section
/-! DEFINITION. The ALU group and the immediate forms (R318 to R320). -/

namespace Sys2Proof.Machine

open Host (Outcome)

/-- ADD: a + b, modulo 2^64 (R318). -/
def execAdd (d a b : Reg) (s : State) : Outcome State Fault Refusal := .next (s.compute3 d a b (· + ·))

/-- SUB: a − b, modulo 2^64 (R318). -/
def execSub (d a b : Reg) (s : State) : Outcome State Fault Refusal := .next (s.compute3 d a b (· - ·))

/-- AND, bitwise (R318). -/
def execAnd (d a b : Reg) (s : State) : Outcome State Fault Refusal := .next (s.compute3 d a b (· &&& ·))

/-- OR, bitwise (R318). -/
def execOr (d a b : Reg) (s : State) : Outcome State Fault Refusal := .next (s.compute3 d a b (· ||| ·))

/-- XOR, bitwise (R318). -/
def execXor (d a b : Reg) (s : State) : Outcome State Fault Refusal := .next (s.compute3 d a b (· ^^^ ·))

/-- SHL: a shifted left by b[5:0] (R318). -/
def execShl (d a b : Reg) (s : State) : Outcome State Fault Refusal := .next (s.compute3 d a b (fun a b => a <<< shiftOf b))

/-- SHR: a shifted right with zero fill (R318). -/
def execShr (d a b : Reg) (s : State) : Outcome State Fault Refusal := .next (s.compute3 d a b (fun a b => a >>> shiftOf b))

/-- SRA: a shifted right with sign fill (R318). -/
def execSra (d a b : Reg) (s : State) : Outcome State Fault Refusal := .next (s.compute3 d a b (fun a b => a.sshiftRight (shiftOf b)))

/-- SLT: 1 if a < b as signed values (R318). -/
def execSlt (d a b : Reg) (s : State) : Outcome State Fault Refusal := .next (s.compute3 d a b (fun a b => flagWord (sltCond a b)))

/-- SLTU: 1 if a < b as unsigned values (R318). -/
def execSltu (d a b : Reg) (s : State) : Outcome State Fault Refusal := .next (s.compute3 d a b (fun a b => flagWord (ultCond a b)))

/-- MIN, signed (R318). -/
def execMin (d a b : Reg) (s : State) : Outcome State Fault Refusal := .next (s.compute3 d a b (fun a b => if sltCond b a then b else a))

/-- MAX, signed (R318). -/
def execMax (d a b : Reg) (s : State) : Outcome State Fault Refusal := .next (s.compute3 d a b (fun a b => if sltCond a b then b else a))

/-- MINU, unsigned (R318). -/
def execMinu (d a b : Reg) (s : State) : Outcome State Fault Refusal := .next (s.compute3 d a b (fun a b => if ultCond b a then b else a))

/-- MAXU, unsigned (R318). -/
def execMaxu (d a b : Reg) (s : State) : Outcome State Fault Refusal := .next (s.compute3 d a b (fun a b => if ultCond a b then b else a))

/-- MUL: bits [63:0] of the product (R318). -/
def execMul (d a b : Reg) (s : State) : Outcome State Fault Refusal := .next (s.compute3 d a b (· * ·))

/-- MULH: bits [127:64] of the exact signed product (R318). -/
def execMulh (d a b : Reg) (s : State) : Outcome State Fault Refusal :=
  .next (s.compute3 d a b (fun a b => BitVec.ofInt 64 (a.toInt * b.toInt / 2 ^ 64)))

/-- MULHU: bits [127:64] of the exact unsigned product (R318). -/
def execMulhu (d a b : Reg) (s : State) : Outcome State Fault Refusal :=
  .next (s.compute3 d a b (fun a b => BitVec.ofNat 64 (a.toNat * b.toNat / 2 ^ 64)))

/-- DIV, truncated towards zero, with its corners (R318). -/
def execDiv (d a b : Reg) (s : State) : Outcome State Fault Refusal := .next (s.compute3 d a b divValue)

/-- DIVU (R318). -/
def execDivu (d a b : Reg) (s : State) : Outcome State Fault Refusal := .next (s.compute3 d a b divuValue)

/-- REM (R318). -/
def execRem (d a b : Reg) (s : State) : Outcome State Fault Refusal := .next (s.compute3 d a b remValue)

/-- REMU (R318). -/
def execRemu (d a b : Reg) (s : State) : Outcome State Fault Refusal := .next (s.compute3 d a b remuValue)

/-- CLZ: zero bits above the highest set bit, 64 for zero (R318). -/
def execClz (d a : Reg) (s : State) : Outcome State Fault Refusal := .next (s.compute2 d a (fun a => BitVec.ofNat 64 (clzNat 64 a.toNat)))

/-- CTZ: zero bits below the lowest set bit, 64 for zero (R318). -/
def execCtz (d a : Reg) (s : State) : Outcome State Fault Refusal := .next (s.compute2 d a (fun a => BitVec.ofNat 64 (ctzFrom a.toNat 64 0)))

/-- POPC: set bits (R318). -/
def execPopc (d a : Reg) (s : State) : Outcome State Fault Refusal := .next (s.compute2 d a (fun a => BitVec.ofNat 64 (popcNat 64 a.toNat)))

/-- BSWAP: byte i of the result is byte 7 − i of a (R318). -/
def execBswap (d a : Reg) (s : State) : Outcome State Fault Refusal := .next (s.compute2 d a (fun a => bytesWord (regBytes a 8).reverse))

/-- LEA: a + (b << k) (R318). -/
def execLea (d a b : Reg) (k : BitVec 2) (s : State) : Outcome State Fault Refusal := .next (s.compute3 d a b (fun a b => a + b <<< k.toNat))

/-- ADDI: a plus the sign-extended immediate (R319). -/
def execAddi (d a : Reg) (i : BitVec 16) (s : State) : Outcome State Fault Refusal := .next (s.compute2 d a (· + immS i))

/-- ANDI, with the zero-extended immediate (R319). -/
def execAndi (d a : Reg) (i : BitVec 16) (s : State) : Outcome State Fault Refusal := .next (s.compute2 d a (· &&& immZ i))

/-- ORI, with the zero-extended immediate (R319). -/
def execOri (d a : Reg) (i : BitVec 16) (s : State) : Outcome State Fault Refusal := .next (s.compute2 d a (· ||| immZ i))

/-- XORI, with the zero-extended immediate (R319). -/
def execXori (d a : Reg) (i : BitVec 16) (s : State) : Outcome State Fault Refusal := .next (s.compute2 d a (· ^^^ immZ i))

/-- SLTI: 1 if a is below the sign-extended immediate as signed values (R319). -/
def execSlti (d a : Reg) (i : BitVec 16) (s : State) : Outcome State Fault Refusal :=
  .next (s.compute2 d a (fun a => flagWord (sltCond a (immS i))))

/-- SLTIU: 1 if a is below the sign-extended immediate as unsigned values (R319). -/
def execSltiu (d a : Reg) (i : BitVec 16) (s : State) : Outcome State Fault Refusal :=
  .next (s.compute2 d a (fun a => flagWord (ultCond a (immS i))))

/-- SHLI (R319). -/
def execShli (d a : Reg) (n : BitVec 6) (s : State) : Outcome State Fault Refusal := .next (s.compute2 d a (· <<< n.toNat))

/-- SHRI (R319). -/
def execShri (d a : Reg) (n : BitVec 6) (s : State) : Outcome State Fault Refusal := .next (s.compute2 d a (· >>> n.toNat))

/-- SRAI (R319). -/
def execSrai (d a : Reg) (n : BitVec 6) (s : State) : Outcome State Fault Refusal := .next (s.compute2 d a (·.sshiftRight n.toNat))

/-- LIZ: the immediate at its position over zeros (R320). -/
def execLiz (d : Reg) (p : BitVec 2) (i : BitVec 16) (s : State) : Outcome State Fault Refusal :=
  .next (s.compute2 d 0 (fun _ => lizValue p i))

/-- LIK: the immediate at its position, the other bits of sD kept; it reads sD (R320). -/
def execLik (d : Reg) (p : BitVec 2) (i : BitVec 16) (s : State) : Outcome State Fault Refusal :=
  .next (s.compute2 d d (fun old => likValue old p i))

end Sys2Proof.Machine
end

