-- ==== Sys2Proof/Machine/Atomic.lean ====
section
/-! DEFINITION. AMO, CAS and CAS16 (R328 to R330). -/

namespace Sys2Proof.Machine

open Host (Outcome)

/-- The space of an atomic, which its address's bits [63:62] name; 0b11 names none (R328). -/
def atomicSpace (ea : Word) : Option Sp :=
  match bits ea 63 62 with
  | 0 => some .g
  | 1 => some .v
  | 2 => some .t
  | _ => none

/-- The address that an atomic checks and accesses: its bits [63:62] cleared (R328). -/
def atomicAddr (ea : Word) : Word := BitVec.ofNat 64 (bits ea 61 0)

/-- An atomic at an effective address (R328). -/
def State.atomicAt (s : State) (op : ReqOp) (ea : Word) (size : Nat) (o : Ord) (data expect : List Byte) (dest : Dest) : State :=
  match atomicSpace ea with
  | none => s.faultTrap cIllegal 0
  | some sp =>
    s.memory { op := op, sp := sp, ea := atomicAddr ea, named := ea, size := size, ord := o, data := data, expect := expect, dest := dest }

/-- An AMO of a size with its operation code (R329). -/
def State.amo (s : State) (op : BitVec 4) (d base : Reg) (o : Ord) (z : Sz) (off : BitVec 6) : State :=
  s.whenReady [d, base] (fun s =>
    s.atomicAt (.amo op) (effAddr (s.reg base) off z.bytes) z.bytes o (regBytes (s.reg d) z.bytes) [] (.reg d z))

/-- AMO.ADD (R182, R329). -/
def execAmoAdd (d base : Reg) (o : Ord) (dword : Bool) (off : BitVec 6) (s : State) : Outcome State Fault Refusal :=
  .next (s.amo 0 d base o (szOf dword) off)

/-- AMO.AND (R182, R329). -/
def execAmoAnd (d base : Reg) (o : Ord) (dword : Bool) (off : BitVec 6) (s : State) : Outcome State Fault Refusal :=
  .next (s.amo 1 d base o (szOf dword) off)

/-- AMO.OR (R182, R329). -/
def execAmoOr (d base : Reg) (o : Ord) (dword : Bool) (off : BitVec 6) (s : State) : Outcome State Fault Refusal :=
  .next (s.amo 2 d base o (szOf dword) off)

/-- AMO.XOR (R182, R329). -/
def execAmoXor (d base : Reg) (o : Ord) (dword : Bool) (off : BitVec 6) (s : State) : Outcome State Fault Refusal :=
  .next (s.amo 3 d base o (szOf dword) off)

/-- AMO.MIN, signed (R182, R329). -/
def execAmoMin (d base : Reg) (o : Ord) (dword : Bool) (off : BitVec 6) (s : State) : Outcome State Fault Refusal :=
  .next (s.amo 4 d base o (szOf dword) off)

/-- AMO.MAX, signed (R182, R329). -/
def execAmoMax (d base : Reg) (o : Ord) (dword : Bool) (off : BitVec 6) (s : State) : Outcome State Fault Refusal :=
  .next (s.amo 5 d base o (szOf dword) off)

/-- AMO.MINU (R182, R329). -/
def execAmoMinu (d base : Reg) (o : Ord) (dword : Bool) (off : BitVec 6) (s : State) : Outcome State Fault Refusal :=
  .next (s.amo 6 d base o (szOf dword) off)

/-- AMO.MAXU (R182, R329). -/
def execAmoMaxu (d base : Reg) (o : Ord) (dword : Bool) (off : BitVec 6) (s : State) : Outcome State Fault Refusal :=
  .next (s.amo 7 d base o (szOf dword) off)

/-- AMO.XCHG (R182, R329). -/
def execAmoXchg (d base : Reg) (o : Ord) (dword : Bool) (off : BitVec 6) (s : State) : Outcome State Fault Refusal :=
  .next (s.amo 8 d base o (szOf dword) off)

/-- AMO.FADD, .w only (R182, R329). -/
def execAmoFadd (d base : Reg) (o : Ord) (off : BitVec 6) (s : State) : Outcome State Fault Refusal := .next (s.amo 9 d base o .w off)

/-- AMO.FABSMAX, .w only (R182, R329). -/
def execAmoFabsmax (d base : Reg) (o : Ord) (off : BitVec 6) (s : State) : Outcome State Fault Refusal := .next (s.amo 10 d base o .w off)

/-- CAS: expect s[D], write s[N], return the old value (R183, R330). -/
def execCas (d base : Reg) (o : Ord) (n : Reg) (dword : Bool) (off : BitVec 5) (s : State) : Outcome State Fault Refusal :=
  let z := szOf dword
  .next (s.whenReady [d, base, n] (fun s =>
    s.atomicAt .cas (effAddr (s.reg base) off z.bytes) z.bytes o (regBytes (s.reg n) z.bytes) (regBytes (s.reg d) z.bytes) (.reg d z)))

/-- CAS16: expect s[D+1] ∥ s[D], write s[N+1] ∥ s[N], return the old 16 bytes (R183, R330). -/
def execCas16 (d base : Reg) (o : Ord) (n : Reg) (off : BitVec 5) (s : State) : Outcome State Fault Refusal :=
  .next (s.whenReady [d, d + 1, base, n, n + 1] (fun s =>
    s.atomicAt .cas16 (effAddr (s.reg base) off 16) 16 o (regBytes (s.reg n) 8 ++ regBytes (s.reg (n + 1)) 8)
      (regBytes (s.reg d) 8 ++ regBytes (s.reg (d + 1)) 8) (.pair d)))

end Sys2Proof.Machine
end

