-- ==== Sys2Proof/Machine/Routes.lean ====
section
/-! DEFINITION. The pod as boot learns it (R51): the joined links, the packages they reach, and the up*/down* route to each. -/

namespace Sys2Proof

open Sys2Proof.Machine

/-- The joined ends of links, each as a package, its link and the package at the far end. A link of this package that is not live joins
nothing (R15). -/
def SelfTest.joints (t : SelfTest) : List (Nat × Nat × Nat) :=
  let live : Nat → Nat → Bool := fun k l => k != t.pkgId.toNat || t.podLive l
  ((t.podMap.filter (fun e => live e.1 e.2.1 && live e.2.2.1 e.2.2.2)).map
    (fun e => [(e.1, e.2.1, e.2.2.1), (e.2.2.1, e.2.2.2, e.1)])).flatten

/-- A pod link with no partner at its far end fails training (R15). -/
def SelfTest.unpaired (t : SelfTest) : List (BitVec 4) :=
  ((List.range 12).filter (fun l =>
    !t.podMap.any (fun e => (e.1 == t.pkgId.toNat && e.2.1 == l) || (e.2.2.1 == t.pkgId.toNat && e.2.2.2 == l)))).map (BitVec.ofNat 4)

/-- The packages that joints reach from a rising list of packages in at most a number of steps. -/
def spread (joints : List (Nat × Nat × Nat)) : Nat → List Nat → List Nat
  | 0, ks => ks
  | n + 1, ks =>
    let more := (joints.filter (fun e => ks.contains e.1)).foldl (fun a e => setIns a e.2.2) ks
    if more = ks then ks else spread joints n more

/-- The packages of the pod, ascending: DT_PODMASK (R24, R51). -/
def SelfTest.reach (t : SelfTest) : List Nat := spread t.joints 64 [t.pkgId.toNat]

/-- Links from the root of the spanning tree, the lowest package index, to a package (R51). -/
def SelfTest.depth (t : SelfTest) (k : Nat) : Nat :=
  ((List.range 64).find? (fun n => (spread t.joints n [t.reach.headD 0]).contains k)).getD 64

/-- A link from one package to another leads up: towards the root, and between packages of one depth to the lower index (R51; assumption 89,
DEDUCED). -/
def SelfTest.leadsUp (t : SelfTest) (a b : Nat) : Bool := decide (t.depth b < t.depth a) || (t.depth b == t.depth a && decide (b < a))

/-- Least distances over a list of edges from the packages that a table lists, in at most a number of rounds. -/
def nearest (edges : List (Nat × Nat)) : Nat → Tab Nat → Tab Nat
  | 0, d => d
  | n + 1, d =>
    let d' := edges.foldl (fun d e =>
      match tabFind d e.2, tabFind d e.1 with
      | none, _ => d
      | some x, none => tabPut d e.1 (x + 1)
      | some x, some y => if x + 1 < y then tabPut d e.1 (x + 1) else d) d
    if d' = d then d else nearest edges n d'

/-- Links to a package from every other over links that lead down, and over legal routes: up first, then down (R51). -/
def SelfTest.downDist (t : SelfTest) (dst : Nat) : Tab Nat :=
  nearest ((t.joints.filter (fun e => !t.leadsUp e.1 e.2.2)).map (fun e => (e.1, e.2.2))) 64 [(dst, 0)]
def SelfTest.legalDist (t : SelfTest) (dst : Nat) : Tab Nat :=
  nearest ((t.joints.filter (fun e => t.leadsUp e.1 e.2.2)).map (fun e => (e.1, e.2.2))) 64 (t.downDist dst)

/-- The outgoing link of the shortest legal route to a package; a tie goes to the lower link number (R51). -/
def SelfTest.outLink (t : SelfTest) (dst : Nat) : Option Nat :=
  let down := t.downDist dst
  let legal := t.legalDist dst
  let far : Nat → Option Nat := fun l =>
    match t.joints.find? (fun e => e.1 == t.pkgId.toNat && e.2.1 == l) with
    | none => none
    | some e => tabFind (if t.leadsUp e.1 e.2.2 then legal else down) e.2.2
  (List.range 12).foldl
    (fun best l =>
      match far l, best with
      | none, _ => best
      | some _, none => some l
      | some d, some b => if (far b).any (fun x => decide (d < x)) then some l else best) none

/-- The route tables: for a package and a class the outgoing link, keyed by 4 × package + class (R51). -/
def SelfTest.routeTables (t : SelfTest) : List (Nat × Nat) :=
  ((t.reach.filter (· != t.pkgId.toNat)).map (fun k =>
    match t.outLink k with
    | none => []
    | some l => (List.range 4).map (fun c => (4 * k + c, l)))).flatten

/-- What boot makes of the links it finds (R15, R24, R51): links without a partner are not live, and a package without a live pod link is a
pod of its own. The pod may count packages that no live link reaches, as self-test's input says (assumption 115, DESIGN CHOICE). -/
def SelfTest.settled (t0 : SelfTest) : SelfTest :=
  let t := { t0 with untrainedPod := t0.untrainedPod ++ t0.unpaired }
  if (List.range 12).any t.podLive then
    let ks := t.reach
    { t with
      podCount := max ks.length (min 64 t.podCount), podMask := BitVec.ofNat 64 (maskOf ks), routes := t.routeTables
      podUnits := t.podUnits.filter (fun u => ks.contains u.1 && u.1 != t.pkgId.toNat) }
  else { t with pkgId := 0, podCount := 1, podMask := 1, routes := [], podUnits := [] }

end Sys2Proof
end

