-- ==== Sys2Proof/Machine/Crypto.lean ====
section
/-! DEFINITION. SHA-384 and the check of an ECDSA P-384 signature, which boot ROM, the mapper cache, measurements and checkpoints use (R89, R91,
R92, R95, R160). -/

namespace Sys2Proof.Machine

/-! ## SHA-384 -/

/-- The first forty round constants of SHA-512: the fractions of the cube roots of the first primes. -/
def sha512KA : List Nat :=
  [0x428A2F98D728AE22, 0x7137449123EF65CD, 0xB5C0FBCFEC4D3B2F, 0xE9B5DBA58189DBBC, 0x3956C25BF348B538,
   0x59F111F1B605D019, 0x923F82A4AF194F9B, 0xAB1C5ED5DA6D8118, 0xD807AA98A3030242, 0x12835B0145706FBE,
   0x243185BE4EE4B28C, 0x550C7DC3D5FFB4E2, 0x72BE5D74F27B896F, 0x80DEB1FE3B1696B1, 0x9BDC06A725C71235,
   0xC19BF174CF692694, 0xE49B69C19EF14AD2, 0xEFBE4786384F25E3, 0x0FC19DC68B8CD5B5, 0x240CA1CC77AC9C65,
   0x2DE92C6F592B0275, 0x4A7484AA6EA6E483, 0x5CB0A9DCBD41FBD4, 0x76F988DA831153B5, 0x983E5152EE66DFAB,
   0xA831C66D2DB43210, 0xB00327C898FB213F, 0xBF597FC7BEEF0EE4, 0xC6E00BF33DA88FC2, 0xD5A79147930AA725,
   0x06CA6351E003826F, 0x142929670A0E6E70, 0x27B70A8546D22FFC, 0x2E1B21385C26C926, 0x4D2C6DFC5AC42AED,
   0x53380D139D95B3DF, 0x650A73548BAF63DE, 0x766A0ABB3C77B2A8, 0x81C2C92E47EDAEE6, 0x92722C851482353B]

/-- The other forty. -/
def sha512KB : List Nat :=
  [0xA2BFE8A14CF10364, 0xA81A664BBC423001, 0xC24B8B70D0F89791, 0xC76C51A30654BE30, 0xD192E819D6EF5218,
   0xD69906245565A910, 0xF40E35855771202A, 0x106AA07032BBD1B8, 0x19A4C116B8D2D0C8, 0x1E376C085141AB53,
   0x2748774CDF8EEB99, 0x34B0BCB5E19B48A8, 0x391C0CB3C5C95A63, 0x4ED8AA4AE3418ACB, 0x5B9CCA4F7763E373,
   0x682E6FF3D6B2B8A3, 0x748F82EE5DEFB2FC, 0x78A5636F43172F60, 0x84C87814A1F0AB72, 0x8CC702081A6439EC,
   0x90BEFFFA23631E28, 0xA4506CEBDE82BDE9, 0xBEF9A3F7B2C67915, 0xC67178F2E372532B, 0xCA273ECEEA26619C,
   0xD186B8C721C0C207, 0xEADA7DD6CDE0EB1E, 0xF57D4F7FEE6ED178, 0x06F067AA72176FBA, 0x0A637DC5A2C898A6,
   0x113F9804BEF90DAE, 0x1B710B35131C471B, 0x28DB77F523047D84, 0x32CAAB7B40C72493, 0x3C9EBE0A15C9BEBC,
   0x431D67C49C100D4C, 0x4CC5D4BECB3E42B6, 0x597F299CFC657E2A, 0x5FCB6FAB3AD6FAEC, 0x6C44198C4A475817]

/-- The start of SHA-384: the fractions of the square roots of the ninth to sixteenth primes. -/
def sha384Start : List Nat :=
  [0xCBBB9D5DC1059ED8, 0x629A292A367CD507, 0x9159015A3070DD17, 0x152FECD8F70E5939, 0x67332667FFC00B31,
   0x8EB44A8768581511, 0xDB0C2E0D64F98FA7, 0x47B5481DBEFA4FA4]

def word64 (x : Nat) : Nat := x % 2 ^ 64
def rotr64 (x n : Nat) : Nat := x / 2 ^ n + x % 2 ^ n * 2 ^ (64 - n)
def xor3 (a b c : Nat) : Nat := Nat.xor (Nat.xor a b) c

/-- The sixteen words of a block, then the sixty-four that the schedule adds; the list holds the latest word first. -/
def sha512Schedule : Nat → List Nat → List Nat
  | 0, w => w
  | n + 1, w =>
    let a := w.getD 1 0
    let b := w.getD 14 0
    let s1 := xor3 (rotr64 a 19) (rotr64 a 61) (a / 2 ^ 6)
    let s0 := xor3 (rotr64 b 1) (rotr64 b 8) (b / 2 ^ 7)
    sha512Schedule n (word64 (s1 + w.getD 6 0 + s0 + w.getD 15 0) :: w)

/-- One round. -/
def sha512Round (h : List Nat) (kw : Nat × Nat) : List Nat :=
  let g : Nat → Nat := fun i => h.getD i 0
  let e := g 4
  let a := g 0
  let ch := Nat.xor (Nat.land e (g 5)) (Nat.land (2 ^ 64 - 1 - e) (g 6))
  let t1 := g 7 + xor3 (rotr64 e 14) (rotr64 e 18) (rotr64 e 41) + ch + kw.1 + kw.2
  let maj := xor3 (Nat.land a (g 1)) (Nat.land a (g 2)) (Nat.land (g 1) (g 2))
  let t2 := xor3 (rotr64 a 28) (rotr64 a 34) (rotr64 a 39) + maj
  [word64 (t1 + t2), a, g 1, g 2, word64 (g 3 + t1), e, g 5, g 6]

/-- One block of 128 bytes. -/
def sha512Block (h : List Nat) (b : List Byte) : List Nat :=
  let w := (List.range 16).map (fun i => beNat ((b.drop (8 * i)).take 8))
  let ws := (sha512Schedule 64 w.reverse).reverse
  let h' := ((sha512KA ++ sha512KB).zip ws).foldl sha512Round h
  (h.zip h').map (fun p => word64 (p.1 + p.2))

/-- Blocks of a padded message. -/
def sha512Blocks : Nat → List Nat → List Byte → List Nat
  | 0, h, _ => h
  | n + 1, h, bs => sha512Blocks n (sha512Block h (bs.take 128)) (bs.drop 128)

/-- Big-endian bytes of a number. -/
def beBytes (n v : Nat) : List Byte := (leBytes n v).reverse

/-- SHA-384 of bytes. -/
def sha384 (bs : List Byte) : BitVec 384 :=
  let pad := (239 - bs.length % 128) % 128
  let msg := bs ++ [0x80] ++ List.replicate pad 0 ++ beBytes 16 (8 * bs.length)
  BitVec.ofNat 384 (((sha512Blocks (msg.length / 128) sha384Start msg).take 6).foldl (fun a x => a * 2 ^ 64 + x) 0)

/-- A digest as its 48 bytes. -/
def digestBytes (d : BitVec 384) : List Byte := beBytes 48 d.toNat

/-! ## ECDSA P-384 -/

def p384P : Nat := 2 ^ 384 - 2 ^ 128 - 2 ^ 96 + 2 ^ 32 - 1
def p384N : Nat := 0xFFFFFFFFFFFFFFFFFFFFFFFFFFFFFFFFFFFFFFFFFFFFFFFFC7634D81F4372DDF581A0DB248B0A77AECEC196ACCC52973
def p384B : Nat := 0xB3312FA7E23EE7E4988E056BE3F82D19181D9C6EFE8141120314088F5013875AC656398D8A2ED19D2A85C8EDD3EC2AEF
def p384G : Nat × Nat :=
  (0xAA87CA22BE8B05378EB1C71EF320AD746E1D3B628BA79B9859F741E082542A385502F25DBF55296C3A545E3872760AB7,
   0x3617DE4A96262C6F5D9E98BF9292DC29F8F41DBD289A147CE9DA3113B5F0B8C00A60B1CE1D7E819D7A431D7C90EA0E5F)

/-- Powers modulo `m` by the bits of the exponent, from bit `k - 1` down. -/
def powMod (m b e : Nat) : Nat → Nat → Nat
  | 0, a => a
  | k + 1, a =>
    let a2 := a * a % m
    powMod m b e k (if e.testBit k then a2 * b % m else a2)

/-- The inverse modulo a prime. -/
def invMod (m a : Nat) : Nat := powMod m (a % m) (m - 2) 384 1

/-- Differences modulo `p384P`. -/
def subP (a b : Nat) : Nat := (a + p384P - b % p384P) % p384P

/-- A point in Jacobian coordinates; z = 0 is the point at infinity. -/
structure EcPoint where
  x : Nat
  y : Nat
  z : Nat
  deriving DecidableEq, Repr

/-- Twice a point of a curve with a = -3. -/
def EcPoint.double (p : EcPoint) : EcPoint :=
  let m := p384P
  let zz := p.z * p.z % m
  let yy := p.y * p.y % m
  let s := 4 * p.x * yy % m
  let t := 3 * (subP p.x zz) * (p.x + zz) % m
  let x := subP (t * t) (2 * s)
  { x := x, y := subP (t * subP s x) (8 * yy * yy), z := 2 * p.y * p.z % m }

/-- The sum of two points. -/
def EcPoint.add (p q : EcPoint) : EcPoint :=
  if p.z = 0 then q
  else if q.z = 0 then p
  else
    let m := p384P
    let pz := p.z * p.z % m
    let qz := q.z * q.z % m
    let u1 := p.x * qz % m
    let u2 := q.x * pz % m
    let s1 := p.y * qz % m * q.z % m
    let s2 := q.y * pz % m * p.z % m
    if u1 = u2 then (if s1 = s2 then p.double else ⟨1, 1, 0⟩)
    else
      let h := subP u2 u1
      let r := subP s2 s1
      let hh := h * h % m
      let hhh := hh * h % m
      let v := u1 * hh % m
      let x := subP (r * r) (hhh + 2 * v)
      { x := x, y := subP (r * subP v x) (s1 * hhh), z := p.z * q.z % m * h % m }

/-- A multiple of a point by the bits of `e`, from bit `k - 1` down. -/
def EcPoint.times (p : EcPoint) (e : Nat) : Nat → EcPoint → EcPoint
  | 0, a => a
  | k + 1, a =>
    let d := a.double
    EcPoint.times p e k (if e.testBit k then d.add p else d)

/-- The point of an uncompressed public key, if it is one of the curve (R91). -/
def keyPoint (k : BitVec 776) : Option (Nat × Nat) :=
  let x := bits k 767 384
  let y := bits k 383 0
  if bits k 775 768 ≠ 4 ∨ p384P ≤ x ∨ p384P ≤ y then none
  else if y * y % p384P = subP (x * x * x + p384B) (3 * x) then some (x, y)
  else none

/-- A signature of 96 bytes, r and s of 48 each, verifies for a digest under a key (R89). The two numbers are little-endian, as every field of the
image is (R2, R89). -/
def verifies (k : BitVec 776) (digest : BitVec 384) (sig : List Byte) : Bool :=
  let r := leNat (sig.take 48)
  let s := leNat ((sig.drop 48).take 48)
  match keyPoint k with
  | none => false
  | some (x, y) =>
    if r = 0 ∨ p384N ≤ r ∨ s = 0 ∨ p384N ≤ s ∨ sig.length ≠ 96 then false
    else
      let w := invMod p384N s
      let inf : EcPoint := ⟨1, 1, 0⟩
      let a := EcPoint.times ⟨p384G.1, p384G.2, 1⟩ (digest.toNat * w % p384N) 384 inf
      let b := EcPoint.times ⟨x, y, 1⟩ (r * w % p384N) 384 inf
      let q := a.add b
      if q.z = 0 then false
      else
        let zi := invMod p384P q.z
        q.x * (zi * zi % p384P) % p384P % p384N == r

end Sys2Proof.Machine
end

