-- ==== Sys2Proof/Machine/Net.lean ====
section
/-! DEFINITION. Steps of the memory network: requests at their homes, answers at their requesters, PUB deliveries, the SC ring, cache banks,
the host link's completions and the ATU (R46, R166, R176 to R184, R186 to R215, R274, R317). -/

namespace Sys2Proof.Machine

open Host (Outcome)

/-- NET_READ: the read request named by the input is served at its home (R166, R184, R214). -/
def execNetRead (s : State) : Outcome State Fault Refusal := .next (s.serveRequest 0)

/-- NET_WRITE: the write request performs at its home, in the order of writes to its granule; a store to an empty granule of an FE page
fills it and serves the oldest waiting load (R166, R184). -/
def execNetWrite (s : State) : Outcome State Fault Refusal := .next (s.serveRequest 1)

/-- NET_AMO: one read-modify-write at the home (R182). -/
def execNetAmo (s : State) : Outcome State Fault Refusal := .next (s.serveRequest 2)

/-- NET_CAS: a compare and swap at the home (R183). -/
def execNetCas (s : State) : Outcome State Fault Refusal := .next (s.serveRequest 3)

/-- NET_CAS16: a compare and swap of 16 bytes at the home (R183). -/
def execNetCas16 (s : State) : Outcome State Fault Refusal := .next (s.serveRequest 4)

/-- Hand the answer packet that the input names to its access, if it is of a kind and may be handed over. -/
def State.takeAnswer (s : State) (kind : BitVec 4) (f : State → Access → Packet → State) : State :=
  match s.findPacket s.input.num with
  | none => s
  | some p =>
    if p.cls ≠ 1 ∨ p.kind ≠ kind ∨ !s.deliverable p then s
    else if p.badHeader then s.discardBad p
    else if p.leaves then s.leave p
    else
      match s.findAccess p.access with
      | none => s.takePacket p.id
      | some x => f (s.takePacket p.id) x p

/-- READ_DATA: read data fills a register's load or a response slot (R215). -/
def execReadData (s : State) : Outcome State Fault Refusal := .next (s.takeAnswer 5 (fun s x p => s.readArrives x p.payload))

/-- WRITE_ACK: the requester's count of outstanding writes falls (R52, R215). -/
def execWriteAck (s : State) : Outcome State Fault Refusal := .next (s.takeAnswer 6 (fun s x _ => s.ackArrives x))

/-- An Ethernet port of the package as reset leaves it, and as it stands (R53 to R62). -/
def EthPort.reset : EthPort := ⟨[], [], List.replicate 8 0, [], [], [], [], []⟩
def State.eth (s : State) (n : Nat) : EthPort := tabGet EthPort.reset s.links.eth n
def State.setEth (s : State) (n : Nat) (e : EthPort) : State := { s with links := { s.links with eth := tabPut s.links.eth n e } }

/-- A credit of a direct landing target comes back to the landing path of an Ethernet port (R59, R217). -/
def State.landingCredit (s : State) (p : Packet) : State :=
  match nodeCore p.src with
  | none => s
  | some c =>
    let n := p.dst - 16
    let e := s.eth n
    let key := 16 * c + p.tag.toNat
    s.setEth n { e with credits := tabPut e.credits key (tabGet 0 e.credits key + 1) }

/-- The sender of a dropped STR packet stops: on UNBOUND_CLASS, where the credit returns to its binding, or on LINK_DOWN; a landing path goes on (R50,
R217, R220). -/
def State.unboundArrives (s : State) (p : Packet) : State :=
  match nodeCore p.dst with
  | none => s.landingCredit p
  | some k =>
    let n := p.dport.toNat
    let q := s.port k n
    let q' := match (if p.op.toNat = cUnbound then s.bindingOf k n p.tag.toNat else none) with
      | some b => { q with credits := q.credits.modify b (· + 1) }
      | none => q
    (s.setPort k n q').portFault k n p.op.toNat 0 1 0 0 0

/-- A multicast stops at a line on a fault, the lowest that has met one: its own generator alone (R201, R222). It keeps its fault, and the record of
port block p0, to which the operation was handed, shows it once that is free (R223). -/
def State.multiFault (s : State) (op line cause : Nat) (va : Word) : State :=
  match tabFind s.x.multis op with
  | none => s
  | some e =>
    match e.core with
    | none => s
    | some c =>
      if e.fault.valid && decide (e.fault.unit.toNat ≤ line) then s
      else
        let p := s.port c.ix 0
        let f : FaultRec := ⟨true, BitVec.ofNat 8 cause, 0, 0, BitVec.ofNat 6 p.round, BitVec.ofNat 64 line, va⟩
        let s1 : State := { s with x := { s.x with multis := tabPut s.x.multis op { e with fault := f } } }
        if !p.fault.valid || p.fault == e.fault then s1.setPort c.ix 0 { p with fault := f } else s1

/-- ERROR_RESPONSE: the requester takes the cause that the response carries; a response to no access answers an STR packet or a multicast
(R214, R220, R224, R317). -/
def execErrorResponse (s : State) : Outcome State Fault Refusal :=
  .next (match s.findPacket s.input.num with
    | none => s
    | some p =>
      if p.cls ≠ 1 ∨ p.kind ≠ 7 ∨ !s.deliverable p then s
      else if p.badHeader then s.discardBad p
      else if p.leaves then s.leave p
      else
        match s.findAccess p.access with
        | some x => (s.takePacket p.id).errorArrives x p.op
        | none =>
          if (tabFind s.x.multis p.access).isSome then (s.takePacket p.id).multiFault p.access p.tag.toNat p.op.toNat (p.addr)
          else if p.op.toNat = cUnbound ∨ p.op.toNat = cLinkDown then (s.takePacket p.id).unboundArrives p
          else s.takePacket p.id)

/-- PUB_DELIVERY: a PUB store reaches a subscribed core: the line changes if a bank holds it, which is an event of the core; otherwise
the delivery is ignored (R196, R274, R360). -/
def execPubDelivery (s : State) : Outcome State Fault Refusal :=
  .next (match s.findPacket s.input.num with
    | none => s
    | some p =>
      if !p.isPub || !s.deliverable p then s
      else
        let s1 := s.takePacket p.id
        match nodeCore p.dst with
        | none => s1
        | some k =>
          match s1.bankLine k p.asn p.addr.toNat with
          | none => s1
          | some b =>
            let b' := { b with data := linePatch b.data (p.addr.toNat % 128) p.payload }
            ({ s1 with m := { s1.m with banks := s1.m.banks.map (fun c => if c = b then b' else c) } }).event k 3)

/-! ## The SC ring (R177) -/

/-- The stops of the ring in order: a slice's stack, or 16 plus a die for a vault-die stop. -/
def scStops : List Nat :=
  ((List.range 4).map (fun r => [4 * r, 4 * r + 1, 16 + 2 * r, 4 * r + 2, 4 * r + 3, 16 + 2 * r + 1])).flatten

/-- Stops of removed units are bypassed. -/
def State.scLive (s : State) (stop : Nat) : Bool :=
  if stop < 16 then s.boot.test.stackLive stop else s.boot.test.dieLive (stop - 16)

/-- The stop that performs a .sc access: the slice that homes its line, or the vault-die stop of its issuer's die for host memory and other
packages. -/
def State.scStopOf (s : State) (x : Access) : Nat :=
  match x.loc with
  | .hbm p => (s.boot.test.stackOf p).1
  | _ => 16 + (x.agent.coreIx).getD 0 / 16

/-- A .sc access that a stop may perform now. -/
def State.scReady (s : State) (stop : Nat) (x : Access) : Bool := x.sc && !s.waitsFor x.after && s.scStopOf x == stop

/-- The oldest queued .sc access of a stop, with its packet. -/
def State.scQueued (s : State) (stop : Nat) : Option (Packet × Access) :=
  s.net.packets.findSome? (fun p =>
    if p.cls ≠ 0 then none
    else (s.findAccess p.access).bind (fun x => if s.scReady stop x then some (p, x) else none))

/-- A stop performs one .sc access: a slice at once; a vault-die stop sends it to the host or the other package, which the link may still hold
up. -/
def State.scOne (s : State) (p : Packet) (x : Access) : State :=
  match x.loc with
  | .remote pkg _ => s.remoteRequest p x pkg.toNat
  | _ => s.homeRequest p x

/-- An access has not been answered yet. -/
def State.scOpen (s : State) (id : Nat) : Bool := s.net.accesses.any (fun x => x.id == id && !x.done)

/-- Perform up to `n` queued .sc accesses at a stop, oldest first, and say whether it holds the token for a response. -/
def State.scPerform (stop : Nat) : Nat → State → Bool × State
  | 0, s => (false, s)
  | n + 1, s =>
    match s.scQueued stop with
    | none => (false, s)
    | some (p, x) =>
      let s1 := s.scOne p x
      if s1.scOpen x.id then (true, { s1 with net := { s1.net with scLeft := n, scWait := some x.id } })
      else State.scPerform stop n s1

/-- What the stop that holds the token does: while a response is due it waits, sending a request that the link has held up; then it goes on with
what is left of its eight accesses. -/
def State.scVisit (s : State) (stop : Nat) : Bool × State :=
  match s.net.scWait with
  | none => if s.scLive stop then State.scPerform stop 8 s else (false, s)
  | some id =>
    let s1 := match s.net.packets.find? (fun p => p.cls == 0 && p.access == id), s.findAccess id with
      | some p, some x => s.scOne p x
      | _, _ => s
    if s1.scOpen id then (true, s1)
    else State.scPerform stop s1.net.scLeft { s1 with net := { s1.net with scWait := none } }

/-- The next live stop after position `i`, looked for around the ring. -/
def State.scNext (s : State) : Nat → Nat → Nat
  | 0, i => i
  | n + 1, i =>
    let j := (i + 1) % 24
    if s.scLive (scStops.getD j 0) then j else s.scNext n j

/-- SC_TOKEN_VISIT: the stop that holds the token performs at most 8 queued accesses, holding the token until each response of the host or of
another package returns, and passes it on (R177). -/
def execScTokenVisit (s : State) : Outcome State Fault Refusal :=
  let i := s.net.scStop.toNat % 24
  .next (match s.scVisit (scStops.getD i 0) with
    | (true, s1) => s1
    | (false, s1) => { s1 with net := { s1.net with scStop := BitVec.ofNat 5 (s1.scNext 24 i), scLeft := 8 } })

/-! ## Cache banks, the ATU and invalidations -/

/-- Nothing on its way keeps a core's bank from filling a line: no access of the core that has not performed, no store to a PUB page there, whose
value the core may have read before, and no delivery (R172, R176). -/
def State.fillSafe (s : State) (k : Nat) (asn : BitVec 16) (va key : Nat) : Bool :=
  !s.net.accesses.any (fun x => (x.agent.coreIx == some k || x.pub) && !x.done && x.loc.meets x.size (.hbm key) 128) && !s.delivering k asn va none

/-- CACHE_BANK_ACCESS: a bank of the input's core serves the line of the input's address: a line it holds goes, written back if dirty; a
line it does not hold comes from its home, if its page has policy 00 (R35, R166, R274). FE pages go to their homes (R184). -/
def execCacheBankAccess (s : State) : Outcome State Fault Refusal :=
  let k := s.input.core.ix
  let asn := s.asnOf k
  let va : Word := s.input.addr.setWidth 64
  .next (match s.bankLine k asn va.toNat with
    | some b => s.dropLines k (fun c => c == b)
    | none =>
      if s.bankSites k = [] then s
      else
        match s.translate (reticleOf k) asn va .read with
        | (.at (.hbm p) a, s1) =>
          if a.cp = 0 ∧ !a.fe ∧ s1.poisonedIn (p / 128 * 128) 128 = [] ∧ s1.fillSafe k asn va.toNat (p / 128 * 128) then s1.bankFill k asn va.toNat p a else s1
        | (_, s1) => s1)

/-- ATU_TRANSLATE: the ATU of the input's reticle translates an address of an address space: its cache keeps the valid entries it met,
and a write to a page that a checkpoint is copying puts that page first (R158, R186, R198). -/
def execAtuTranslate (s : State) : Outcome State Fault Refusal :=
  .next (s.translate s.input.reticle.toNat s.input.asn (s.input.addr.setWidth 64) s.input.acc).2

/-- INVALIDATION_COMPLETE: the invalidation that the input names reports, once its core's earlier accesses have been answered and every
access that used an old translation has performed (R210, R352). -/
def execInvalidationComplete (s : State) : Outcome State Fault Refusal :=
  .next (match s.x.invals.find? (fun v => v.k == s.input.num) with
    | none => s
    | some v =>
      if s.waitsFor v.before || s.usesRange v.asn v.first v.count then s
      else
        let s1 := s.invalidate v.asn v.first v.count
        let s2 := { s1 with x := { s1.x with invals := s1.x.invals.filter (fun w => w.k != v.k) } }
        match v.core with
        | none => s2
        | some c =>
          let ct := s2.ctlAt c.ix
          if ct.wait = .tinv v.k then s2.setCtlAt c.ix { ct with wait := .none, r := { ct.r with pc := ct.r.pc + 4 } } else s2)

/-! ## The host link (R46) -/

/-- The host's answer to the request that the input names, handed to its access if that is still in flight. -/
def State.pcieAnswer (s : State) (f : State → Access → State) : State :=
  match s.host.pcie.find? (fun r => r.id == s.input.num) with
  | none => s
  | some r =>
    let s1 := { s with host := { s.host with pcie := s.host.pcie.filter (fun q => q.id != r.id) } }
    match s1.findAccess r.access with
    | none => s1
    | some x => f s1 x

/-- PCIE_COMPLETION: the host answers a request; UR and CA make the requester take PERM (R46). -/
def execPcieCompletion (s : State) : Outcome State Fault Refusal :=
  .next (s.pcieAnswer (fun s x => if s.input.status = .sc then s.hostComplete x s.input.bytes else s.answer x (.error cPerm)))

/-- PCIE_COMPLETION_TIMEOUT: a request without completion for 50 ms makes its requester take LINK_DOWN (R46). -/
def execPcieCompletionTimeout (s : State) : Outcome State Fault Refusal :=
  let s1 := s.elapse
  .next (match s1.host.pcie.find? (fun r => r.id == s1.input.num) with
    | some r => if r.since + 100000000 ≤ s1.time.cycle then s1.pcieAnswer (fun s x => s.answer x (.error cLinkDown)) else s1
    | none => s1)

end Sys2Proof.Machine
end

