-- ==== Sys2Proof/Machine/Lanes.lean ====
section
/-! DEFINITION. A firing of a C-tile node: its operands, how results are written, and how it starts and ends (R232 to R234, R363 to R367). -/

namespace Sys2Proof.Machine

open Host (Outcome)

/-! ## The node whose turn it is -/

def State.nk (s : State) : Nat := s.curNode.c.ix
def State.ni (s : State) : Nat := s.curNode.site.toNat
def State.nj (s : State) : Nat := s.curNode.slot.toNat

/-- Its site, tile and state. -/
def State.nsite (s : State) : Site := s.site s.nk s.ni
def State.ntile (s : State) : CTile := s.nsite.ct
def State.nnode (s : State) : NodeSt := s.ntile.node s.nj

def State.setNtile (s : State) (t : CTile) : State := s.setSite s.nk s.ni { s.nsite with ct := t }
def State.setNnode (s : State) (n : NodeSt) : State := s.setNtile (s.ntile.setNode s.nj n)

/-- An operand: lanes, mask and format; `varies` for inputs and registers, whose masks make a result's (R364, R365). -/
structure Opnd where
  lanes : List Nat
  mask : BitVec 4
  fmt : BitVec 4
  varies : Bool
  deriving DecidableEq, Repr

def Opnd.lane (o : Opnd) (n : Nat) : Nat := o.lanes.getD n 0

/-- A lane that is selected: zero where its group is invalid (R373, R378). -/
def Opnd.valid (o : Opnd) (n : Nat) : Nat := if hasGroup o.mask (n / 8) then o.lane n else 0

/-- The constant `kc` of a tile (R310). -/
def Site.konst (x : Site) (c : Nat) : Line :=
  BitVec.ofNat 1024 (((List.range 4).map (fun q => (x.frame (3 + 4 * c + q)).toNat * 2 ^ (256 * q))).sum)

/-- Read a source (R364): every micro-op of a firing sees the token that stood at an input's head as the firing
started (R363). In a release firing an input reads as zero lanes with an empty mask (R366). -/
def State.source (s : State) (x : Src) : Opnd :=
  match x with
  | .v r =>
    let (l, m, f) := s.ntile.v.getD r.toNat (0, 0, 0)
    ⟨lanesOf l, m, f, true⟩
  | .k c => ⟨lanesOf (s.nsite.konst c.toNat), 15, 0, false⟩
  | .i n =>
    if s.nnode.release.isSome then ⟨lanesOf 0, 0, 0, true⟩
    else
      match tabFind s.nnode.seen (48 + n.toNat) with
      | some t => ⟨lanesOf t.line, t.valid, t.fmt, true⟩
      | none => ⟨lanesOf 0, 0, 0, true⟩

/-- The result mask of sources: the OR of those that vary, all groups where none does (R365). -/
def maskOfOpnds (l : List Opnd) : BitVec 4 :=
  let v := l.filter Opnd.varies
  if v = [] then 15 else v.foldl (fun m o => m ||| o.mask) 0

/-- A result: lanes, mask and format. -/
structure Res where
  lanes : List Nat
  mask : BitVec 4
  fmt : BitVec 4
  deriving DecidableEq, Repr

/-- A result lane by lane, zero outside its mask (R365). -/
def mkRes (mask : BitVec 4) (fmt : Nat) (f : Nat → Nat) : Res :=
  ⟨(List.range 32).map (fun n => if hasGroup mask (n / 8) then f n % 2 ^ 32 else 0), mask, BitVec.ofNat 4 fmt⟩

/-- p of lane `n`. -/
def State.pred (s : State) (n : Nat) : Bool := s.ntile.p.getLsbD n

/-- ROUND of what the node emits: that of its lowest input's head as the firing started, or in a release firing the last round it popped there
(R248, R366). -/
def State.roundOut (s : State) : BitVec 6 :=
  match s.nnode.release with
  | some _ => s.nnode.lastRound
  | none =>
    match (s.joins s.nk s.ni s.nj).head? with
    | none => 0
    | some snk => match tabFind s.nnode.seen snk with | some t => t.round | none => 0

/-- Write a result. With `keep`, PRED, a lane whose p is 0 keeps its old value in a register or p, and is zero at an output (R365). -/
def State.writeDst (s : State) (d : Dst) (keep : Bool) (r : Res) : State :=
  let on : Nat → Bool := fun n => !keep || s.pred n
  let t := s.ntile
  match d with
  | .v n =>
    let old := (t.v.getD n.toNat (0, 0, 0)).1
    let lanes := (List.range 32).map (fun i => if on i then r.lanes.getD i 0 else laneOf old i)
    s.setNtile { t with v := t.v.set n.toNat (lineOfLanes lanes, r.mask, r.fmt) }
  | .p =>
    let bit : Nat → Bool := fun i => if on i then hasGroup r.mask (i / 8) && r.lanes.getD i 0 != 0 else s.pred i
    s.setNtile { t with p := BitVec.ofNat 32 (maskOf ((List.range 32).filter bit)) }
  | .o n =>
    let lanes := (List.range 32).map (fun i => if on i then r.lanes.getD i 0 else 0)
    s.emit s.nk s.ni (mkData (lineOfLanes lanes) s.roundOut r.mask r.fmt) (48 + n.toNat)

/-- The output that a destination names. -/
def dstOut : Dst → Option (BitVec 2)
  | .o n => some n
  | _ => none

/-- The node writes p: one of its micro-ops has destination p (R366). -/
def Site.writesP (x : Site) (j : Nat) : Bool :=
  (List.range (x.nodeCount j)).any (fun n => nbits (x.micro (x.nodeFirst j + n)) 23 20 == 12)

/-- Registers of a node's share (R233). -/
def Site.share (x : Site) (j : Nat) : List Nat :=
  let sp := bits (x.frame 0) 21 18
  if j = 0 then List.range (min sp 8) else (List.range 8).filter (fun r => decide (sp ≤ r))

/-- The node owns the matrix unit (R309). -/
def Site.ownsMatrix (x : Site) (j : Nat) : Bool := bits (x.frame 0) 23 23 == 1 && bits (x.frame 0) 22 22 == j

/-- The reset of a node after a release: registers, p and FCNT, and the chains of a matrix unit it owns (R366, R392). -/
def Site.releaseReset (x : Site) (j : Nat) : Site :=
  let t := x.ct
  let v := t.v.mapIdx (fun r y => if (x.share j).contains r then (0, 0, 0) else y)
  let p := if x.writesP j then BitVec.allOnes 32 else t.p
  let mx := if x.ownsMatrix j then { t.mx with ev := [], od := [], q := 0 } else t.mx
  let n := t.node j
  { x with ct := { t with v := v, p := p, mx := mx }.setNode j { n with fcnt := 0 } }

/-- Pop the data token at the head of an input. -/
def State.popData (s : State) (snk : Nat) : State :=
  match s.head s.nk s.ni snk with
  | some t => if t.isMark then s else s.pop s.nk s.ni snk
  | none => s

/-- A micro-op takes a token from a data input during its firing; where that is the node's lowest input, its ROUND is kept (R366, R389, R391). -/
def State.takeData (s : State) (snk : Nat) (t : Token) : State :=
  let s1 := if (s.joins s.nk s.ni s.nj).head? = some snk then s.setNnode { s.nnode with lastRound := t.round } else s
  s1.pop s.nk s.ni snk

/-- End an ordinary firing: inputs are popped by the node's rule, the round of its lowest input is kept, and FCNT counts (R363, R366). -/
def State.endFiring (s : State) : State :=
  let x := s.nsite
  let ins := s.joins s.nk s.ni s.nj
  let ctl := 48 + x.nodeCtl s.nj
  let popped :=
    if x.nodeRule s.nj = 1 then
      let c := match s.head s.nk s.ni ctl with | some t => t.lane 0 | none => 0
      ins.filter (fun snk => snk == ctl || c.testBit (snk - 48))
    else ins
  let n := s.nnode
  let last :=
    match ins.head? with
    | some i0 => if popped.contains i0 then (match s.head s.nk s.ni i0 with | some t => t.round | none => n.lastRound) else n.lastRound
    | none => n.lastRound
  let n' : NodeSt := { n with
    firing := false
    slot := 0
    step := 0
    armed := false
    result := none
    fcnt := if x.nodeRlen s.nj then n.fcnt + 1 else n.fcnt
    lastRound := last }
  popped.foldl State.popData (s.setNnode n')

/-- Go on at the next slot; a firing that has issued its last micro-op ends, but for a release firing, whose mark ends it (R363, R366). -/
def State.nextSlot (s : State) : State :=
  let x := s.nsite
  let n := s.nnode
  let s1 := s.setNnode { n with slot := n.slot + 1, step := 0, armed := false, result := none }
  if n.slot + 1 < x.nodeFirst s.nj + x.nodeCount s.nj || n.release.isSome then s1 else s1.endFiring

/-- Issue a micro-op with a destination: skipped where its firing does not issue it, held while its output has no room (R363, R366). -/
def State.issueMicro (s : State) (out : Option (BitVec 2)) (f : State → State) : State :=
  let rel := s.nnode.release.isSome
  match out with
  | none => if rel then s.nextSlot else f s
  | some o =>
    if s.nsite.nodeRlen s.nj && !rel then s.nextSlot
    else if (s.ntile.o.getD o.toNat none).isSome then s
    else f s

/-- A micro-op that writes one result. -/
def State.micro (s : State) (d : Dst) (keep : Bool) (r : State → Res) : State :=
  (s.issueMicro (dstOut d) (fun s => (s.writeDst d keep (r s)).nextSlot)).settle s.nk

/-- Lane-wise operations of one, two and three sources (R365). -/
def State.lanes1 (s : State) (d : Dst) (a : Src) (keep : Bool) (fmt : Nat) (f : Nat → Nat) : State :=
  s.micro d keep (fun s =>
    let x := s.source a
    mkRes (maskOfOpnds [x]) fmt (fun n => f (x.lane n)))

def State.lanes2 (s : State) (d : Dst) (a b : Src) (keep : Bool) (fmt : Nat) (f : Nat → Nat → Nat) : State :=
  s.micro d keep (fun s =>
    let x := s.source a
    let y := s.source b
    mkRes (maskOfOpnds [x, y]) fmt (fun n => f (x.lane n) (y.lane n)))

def State.lanes3 (s : State) (d : Dst) (a b c : Src) (keep : Bool) (fmt : Nat) (f : Nat → Nat → Nat → Nat) : State :=
  s.micro d keep (fun s =>
    let x := s.source a
    let y := s.source b
    let z := s.source c
    mkRes (maskOfOpnds [x, y, z]) fmt (fun n => f (x.lane n) (y.lane n) (z.lane n)))

/-- Rounding modes by their codes (R245, R282, R305). -/
def rmOf (c : Nat) : Rm :=
  match c with
  | 0 => .rne
  | 1 => .rtz
  | 2 => .rdn
  | 3 => .rup
  | _ => .rna

/-- The rounding mode that a micro-op names: its own, or the tile's as its firing started (R283, R367, R369). -/
def State.rounding (s : State) (m : Mode) : Rm :=
  match m with
  | .rm r => r
  | .tile => rmOf (bits s.nnode.mode 2 0)

/-- Overflow flags of a mode in the layout of MOD (R245, R284). -/
def ovOf (mode : BitVec 5) : OvFlags := ⟨mode.getLsbD 3, mode.getLsbD 4⟩

/-- The rounding direction and the overflow flags of the tile's mode, for a micro-op that takes the tile's (R283). -/
def State.ovFlags (s : State) : OvFlags := ovOf s.nnode.mode

/-! ## Firing -/

/-- A part is free to act: it holds its frames, has raised no fault, and passes no state run. -/
def NodeSt.free (n : NodeSt) : Bool := !n.firing && n.cause == 0 && n.run.ins == [] && n.run.own == [] && !n.reported

/-- The firing rule of a node is satisfied: every input shows data, every output has room (R234, R363). -/
def State.mayFire (s : State) : Bool :=
  let x := s.nsite
  isCSite s.ni && x.frames != [] && decide (s.nj < 2) && decide (0 < x.nodeCount s.nj) && s.nnode.free &&
  (s.joins s.nk s.ni s.nj).all (fun snk => match s.head s.nk s.ni snk with | some t => !t.isMark | none => false) &&
  (s.outs s.nk s.ni s.nj).all (fun o => (s.ntile.o.getD (o - 48) none).isNone)

/-- Start a firing: a node without RLEN that writes p starts with p all ones (R366). -/
def State.startFiring (s : State) : State :=
  let x := s.nsite
  let t := s.ntile
  let t' := if !x.nodeRlen s.nj && x.writesP s.nj then { t with p := BitVec.allOnes 32 } else t
  let n := t.node s.nj
  s.setNtile (t'.setNode s.nj { n with
    firing := true, slot := x.nodeFirst s.nj, step := 0, release := none, mode := t.mode
    seen := (s.joins s.nk s.ni s.nj).filterMap (fun snk => (s.head s.nk s.ni snk).map (fun h => (snk, h))) })

/-- NODE_FIRE: the node that the input names starts a firing, if its rule is satisfied (R234, R363). Its micro-ops issue in its turns. -/
def execNodeFire (s : State) : Outcome State Fault Refusal :=
  let s1 := { s with curNode := s.input.node }
  .next (if s1.mayFire then s1.startFiring else s)

end Sys2Proof.Machine
end

