-- ==== Sys2Proof/Machine/NodeMatrix.lean ====
section
/-! DEFINITION. The matrix unit: MMA, MOUT and MLDB (R287, R288, R386 to R394). -/

namespace Sys2Proof.Machine

open Host (Outcome)

/-- Fields of a control token (R387). -/
def mxOpc (t : Token) : Nat := t.lane 1 % 4
def mxAcc (t : Token) : Bool := nbits (t.lane 1) 2 2 == 1
def mxM (t : Token) : Nat := nbits (t.lane 1) 9 4 + 1
def mxRb (t : Token) : Nat := nbits (t.lane 1) 15 10
def mxN (t : Token) : Nat := nbits (t.lane 1) 20 16 + 1
def mxK (t : Token) : Nat := nbits (t.lane 2) 9 0
def mxLine (t : Token) : Nat := nbits (t.lane 2) 6 0
def mxB0 (t : Token) : Nat := nbits (t.lane 2) 5 0
def mxCol (t : Token) : Nat := nbits (t.lane 2) 12 8

/-- A line of a table of lines, zero where it lists none. -/
def tabLine (t : Tab Line) (n : Nat) : Line := tabGet 0 t n

/-- Put a line; a line of zeros is not listed. -/
def putLine (t : Tab Line) (n : Nat) (l : Line) : Tab Line := if l = 0 then tabDel t n else tabPut t n l

/-- Byte `i` of a line. -/
def byteOf (l : Line) (i : Nat) : Nat := l.toNat / 2 ^ (8 * i) % 256

/-- Elements of an A token, its first element's place and its block scale (R389). -/
def mxKa (af : Fmt) (asc : Bool) : Nat := if af = .bf16 ∨ asc then 64 else 128

def aElem (af : Fmt) (l : Line) (x : Nat) : FV :=
  if af = .bf16 then fpVal .bf16 (byteOf l (2 * x) + 256 * byteOf l (2 * x + 1)) else fpVal af (byteOf l x)

/-- Blocks that a buffer holds in a B format (R390). -/
def mxBMax (bf : Fmt) : Nat :=
  match bf with
  | .bf16 => 28
  | .e2m1 => 64
  | _ => 56

/-- Element t of block blk, column j, of a buffer (R390). -/
def bElem (bf : Fmt) (b : Tab Line) (blk j t : Nat) : FV :=
  match bf with
  | .bf16 =>
    let l := tabLine b (4 * blk + j / 8)
    let i := 16 * (j % 8) + 2 * t
    fpVal .bf16 (byteOf l i + 256 * byteOf l (i + 1))
  | .e2m1 => fpVal .e2m1 ((tabLine b blk).toNat / 2 ^ (32 * j + 4 * t) % 16)
  | f => fpVal f (byteOf (tabLine b (2 * blk + j / 16)) (8 * (j % 16) + t))

/-- The scale of block blk, column j (R390). -/
def bScale (b : Tab Line) (blk j : Nat) : Nat := byteOf (tabLine b (112 + blk / 4)) (32 * (blk % 4) + j)

/-- The value f of a block: eight exact products, one exact sum, one rounding (R287). `sa` and `sb` are scale codes, 127 where none. -/
def blockValue (terms : List (FV × FV)) (sa sb : Nat) : Nat :=
  if sa = 0xFF ∨ sb = 0xFF then 0x7FC00000
  else
    match fvSum .rne (terms.map (fun p => fvMul p.1 p.2)) with
    | .fin _ 0 _ => 0
    | v => roundFV .f32 ovNone .rne (fvScale v ((sa : Int) - 127 + ((sb : Int) - 127)))

/-- One addition to a chain (R287). -/
def chainAdd (c f : Nat) : Nat := roundFV .f32 ovNone .rne (fvAdd .rne (fpVal .f32 c) (fpVal .f32 f))

/-- What one block of a row does to the accumulator (R287, R388). -/
def Matrix.block (mx : Matrix) (bf : Fmt) (bsc : Bool) (row blk n : Nat) (av : List FV) (bv : Nat → Nat → Bool) (sa : Nat) : Matrix :=
  let q := mx.q.getLsbD row
  let old := tabLine (if q then mx.od else mx.ev) row
  let lane : Nat → Nat := fun j =>
    let live := decide (j < n) && decide (blk < mxBMax bf)
    let terms := (List.range 8).map (fun t =>
      (av.getD t (.fin false 0 0), if live && bv j t then bElem bf mx.active blk j t else .fin false 0 0))
    chainAdd (laneOf old j) (blockValue terms sa (if bsc && live then bScale mx.active blk j else 127))
  let new := lineOfLanes ((List.range 32).map lane)
  let mx' := if q then { mx with od := putLine mx.od row new } else { mx with ev := putLine mx.ev row new }
  { mx' with q := mx'.q ^^^ BitVec.ofNat 64 (2 ^ row) }

/-- A row of the accumulator starts at +0 with parity 0. -/
def Matrix.clearRow (mx : Matrix) (row : Nat) : Matrix :=
  { mx with ev := tabDel mx.ev row, od := tabDel mx.od row, q := mx.q &&& ~~~(BitVec.ofNat 64 (2 ^ row)) }

/-- Take one A token: the blocks it holds of its row, in ascending order (R388, R389). -/
def Matrix.take (mx : Matrix) (bf af : Fmt) (bsc asc : Bool) (row n k u : Nat) (a : Token) : Matrix :=
  let ka := mxKa af asc
  let first := u * (ka / 8)
  let count := min (ka / 8) ((k + 7) / 8 - first)
  let l := a.line
  (List.range count).foldl
    (fun mx b =>
      let blk := first + b
      let av := (List.range 8).map (fun t => if 8 * blk + t < k then aElem af l (8 * b + t) else .fin false 0 0)
      let sa := if asc then byteOf l (64 + b) else 127
      mx.block bf bsc row blk n av (fun _ t => decide (8 * blk + t < k)) sa) mx

/-- A node stops on a fault that is not serviced (R252, R385). -/
def State.stopNode (s : State) (cause : Nat) : State :=
  (s.setNnode { s.nnode with firing := false, cause := BitVec.ofNat 8 cause }).partFatal s.nk s.ni s.nj cause

/-- One turn of an acting MMA: with no A token to take it ends at once; else it takes the next one, waits for it, or meets a mark
(R388, R389). -/
def State.mmaTurn (s : State) (a : BitVec 2) (bf af : Fmt) (bsc asc : Bool) (c : Token) : State :=
  let k := mxK c
  let per := (k + mxKa af asc - 1) / mxKa af asc
  let t := s.ntile
  if per = 0 then
    let mx := if mxAcc c then t.mx else (List.range (mxM c)).foldl (fun mx i => mx.clearRow ((mxRb c + i) % 64)) t.mx
    (s.setNtile { t with mx := mx }).nextSlot
  else
    match s.head s.nk s.ni (48 + a.toNat) with
    | none => s
    | some x =>
      if x.isMark then s.stopNode cMarkSkew
      else
        let step := s.nnode.step
        let row := (mxRb c + step / per) % 64
        let mx0 := if step % per = 0 && !mxAcc c then t.mx.clearRow row else t.mx
        let mx := mx0.take bf af bsc asc row (mxN c) k (step % per) x
        let s1 := (s.setNtile { t with mx := mx }).takeData (48 + a.toNat) x
        if step + 1 < mxM c * per then s1.setNnode { s1.nnode with step := step + 1 } else s1.nextSlot

/-- MMA: acts only where the control token holds OPC 2 (R388). -/
def execMma (a b : BitVec 2) (bf af : Fmt) (bsc asc : Bool) (s : State) : Outcome State Fault Refusal :=
  .next ((s.issueMicro none (fun s =>
    match s.head s.nk s.ni (48 + b.toNat) with
    | none => s.nextSlot
    | some c => if mxOpc c = 2 then s.mmaTurn a bf af bsc asc c else s.nextSlot)).settle s.nk)

/-- MOUT: accumulator rows, one token in each turn, each EV + OD rounded to the format in the mode (R287, R392). -/
def execMout (d : BitVec 2) (rows base : BitVec 4) (f : Fmt) (m : Mode) (s : State) : Outcome State Fault Refusal :=
  .next ((s.issueMicro (some d) (fun s =>
    let i := s.nnode.step
    let row := (4 * base.toNat + i) % 64
    let ev := tabLine s.ntile.mx.ev row
    let od := tabLine s.ntile.mx.od row
    let r := mkRes 15 (fmtCode f) (fun j =>
      roundFV f s.ovFlags (s.rounding m) (fpVal .f32 (chainAdd (laneOf ev j) (laneOf od j))))
    let s1 := s.writeDst (.o d) false r
    if i + 1 < 4 * (rows.toNat + 1) then s1.setNnode { s1.nnode with step := i + 1 } else s1.nextSlot)).settle s.nk)

/-- Replace a byte of a table of lines. -/
def putByte (b : Tab Line) (line i v : Nat) : Tab Line := putLine b line (linePatch (tabLine b line) i [BitVec.ofNat 8 v])

/-- Write bytes of a token into a table of lines. -/
def putBytes (b : Tab Line) (line i : Nat) (bs : List Byte) : Tab Line := putLine b line (linePatch (tabLine b line) i bs)

/-- What one LDB firing writes into the standby buffer (R390, R391). -/
def ldbWrite (f : LdbMode) (b : Tab Line) (c a : Token) : Tab Line :=
  let l := a.line
  let bytes := lineBytes l
  let col := mxCol c
  let blocks : Nat → Nat → (Tab Line → Nat → Nat → Tab Line) → Tab Line := fun n lim put =>
    (List.range n).foldl (fun b j => if mxB0 c + j < lim then put b j (mxB0 c + j) else b) b
  let scale : Tab Line → Nat → Nat → Tab Line := fun b j blk => putByte b (112 + blk / 4) (32 * (blk % 4) + col) (byteOf l (64 + j))
  match f with
  | .line => putLine b (mxLine c) l
  | .bf16 => blocks 8 28 (fun b j blk => putBytes b (4 * blk + col / 8) (16 * (col % 8)) ((bytes.drop (16 * j)).take 16))
  | .e2m1 => blocks 16 64 (fun b j blk => scale (putBytes b blk (4 * col) ((bytes.drop (4 * j)).take 4)) j blk)
  | _ => blocks 8 56 (fun b j blk => scale (putBytes b (2 * blk + col / 16) (8 * (col % 16)) ((bytes.drop (8 * j)).take 8)) j blk)

/-- MLDB: in a firing whose control token holds OPC 1, the head token of a goes to the standby buffer (R391). -/
def execMldb (a b : BitVec 2) (f : LdbMode) (s : State) : Outcome State Fault Refusal :=
  .next ((s.issueMicro none (fun s =>
    match s.head s.nk s.ni (48 + b.toNat), s.head s.nk s.ni (48 + a.toNat) with
    | some c, some x =>
      if mxOpc c = 1 then
        if x.isMark then s.stopNode cMarkSkew
        else
          let t := s.ntile
          let t' := { t with mx := { t.mx with standby := ldbWrite f t.mx.standby c x } }
          ((s.setNtile t').takeData (48 + a.toNat) x).nextSlot
      else s.nextSlot
    | some c, none => if mxOpc c = 1 then s else s.nextSlot
    | none, _ => s.nextSlot)).settle s.nk)

end Sys2Proof.Machine
end

