-- ==== Sys2Proof/Machine/SwitchOps.lean ====
section
/-! DEFINITION. Firings of switch operators: PASS, FORK, STEER, MERGE, CARRY and INV on data (R253, R254, R261 to R265). -/

namespace Sys2Proof.Machine

open Host (Outcome)

/-- Operator `m` of a site. -/
def Site.op (x : Site) (m : Nat) : OpSt := x.ops.getD m OpSt.reset
def State.op (s : State) (k i m : Nat) : OpSt := (s.site k i).op m

def State.setOp (s : State) (k i m : Nat) (o : OpSt) : State :=
  let x := s.site k i
  s.setSite k i { x with ops := x.ops.set m o }

/-- Input and output `n` of operator `m` (R312). -/
def opPort (m n : Nat) : Nat := 52 + 4 * m + n

/-- An operator stops on a fault that is not serviced (R252). -/
def State.stopOp (s : State) (k i m cause : Nat) : State :=
  (s.setOp k i m { s.op k i m with cause := BitVec.ofNat 8 cause }).partFatal k i (2 + m) cause

/-- No state run is being passed. -/
def RunSt.idle (r : RunSt) : Bool := r.ins == [] && r.own == []

/-- An operator of a kind that may fire: it is configured, has raised no fault and passes no run. -/
def State.opReady (s : State) (k i m kind : Nat) : Bool :=
  let o := s.op k i m
  (s.site k i).frames != [] && (s.site k i).opKind i m == kind && decide (m < 4) && o.cause == 0 && o.run.idle && o.run2.idle

/-- Data at an input of an operator. -/
def State.opData (s : State) (k i m n : Nat) : Option Token :=
  match s.head k i (opPort m n) with
  | some t => if t.isMark then none else some t
  | none => none

/-- An operator's event: the place that the input names, and the core's fabric settled behind it. -/
def State.opEvent (s : State) (kind : Nat) (f : State → Nat → Nat → Nat → State) : State :=
  let k := s.input.node.c.ix
  let i := s.input.node.site.toNat
  let m := s.input.node.slot.toNat - 2
  if s.opReady k i m kind && decide (2 ≤ s.input.node.slot.toNat) then (f s k i m).settle k else s

/-- PASS moves its head unchanged, data or mark (R262), but for a CFG mark, which its site takes (R243). -/
def State.passOp (s : State) (k i m : Nat) : State :=
  match s.head k i (opPort m 0) with
  | none => s
  | some t =>
    if t.isMark && t.badMark then s.stopOp k i m cMarkBad
    else if t.isMark && t.kind == kCfg then s
    else if s.outRoom k i t (opPort m 0) then (s.pop k i (opPort m 0)).emit k i t (opPort m 0)
    else s

/-- PASS_FIRE (R262). -/
def execPassFire (s : State) : Outcome State Fault Refusal := .next (s.opEvent 1 State.passOp)

/-- Copies of a mark on outputs: the lowest carries the run, the others RUN 0 (R249, R250). -/
def markCopies (t : Token) (run : Nat) (outs : List Nat) : List (Nat × Token) :=
  let low := outs.head?
  outs.map (fun o =>
    (o, if t.kind = kSav ∨ t.kind = kRst ∨ t.kind = kQsc then t.withRun (if some o = low then run else 0) else t))

/-- Every output of a list has room for its token. -/
def State.roomFor (s : State) (k i : Nat) (l : List (Nat × Token)) : Bool := l.all (fun p => s.outRoom k i p.2 p.1)

def State.emitAll (s : State) (k i : Nat) (l : List (Nat × Token)) : State := l.foldl (fun s p => s.emit k i p.2 p.1) s

/-- FORK copies its head on every bound output in one firing, but for a CFG mark; a state run goes to the lowest only (R243, R249, R262). -/
def State.forkOp (s : State) (k i m : Nat) : State :=
  match s.head k i (opPort m 0) with
  | none => s
  | some t =>
    let outs := s.outs k i (2 + m)
    let copies := if t.isMark then markCopies t t.run outs else outs.map (fun o => (o, t))
    if t.isMark && t.badMark then s.stopOp k i m cMarkBad
    else if t.isMark && t.kind == kCfg then s
    else if s.roomFor k i copies then
      let s1 := (s.pop k i (opPort m 0)).emitAll k i copies
      if t.isMark && t.run != 0 then
        s1.setOp k i m { s1.op k i m with run := ⟨[(opPort m 0, t.run)], []⟩ }
      else s1
    else s

/-- One token of the run that a FORK passes (R249). -/
def State.forkRun (s : State) (k i m : Nat) : State :=
  let o := s.op k i m
  match o.run.ins, s.opData k i m 0 with
  | (snk, c) :: _, some t =>
    let low := ((s.outs k i (2 + m)).take 1).map (fun p => (p, t))
    if s.roomFor k i low then
      ((s.setOp k i m { o with run := ⟨if c ≤ 1 then [] else [(snk, c - 1)], []⟩ }).pop k i snk).emitAll k i low
    else s
  | _, _ => s

/-- FORK_FIRE (R262). -/
def execForkFire (s : State) : Outcome State Fault Refusal :=
  let k := s.input.node.c.ix
  let i := s.input.node.site.toNat
  let m := s.input.node.slot.toNat - 2
  .next (if (s.site k i).opKind i m = 2 ∧ (s.op k i m).run.ins ≠ [] then (s.forkRun k i m).settle k else s.opEvent 2 State.forkOp)

/-- A token-mode STEER sends its data token by lane 0 of the control token, or drops it (R263). -/
def State.steerOp (s : State) (k i m : Nat) : State :=
  match s.opData k i m 0, s.opData k i m 1 with
  | some d, some c =>
    let v := c.lane 0 % 8
    let sel := (s.outs k i (2 + m)).filter (fun o => o == opPort m v && decide (v < 4))
    let out := sel.map (fun o => (o, d))
    if s.roomFor k i out then ((s.pop k i (opPort m 0)).pop k i (opPort m 1)).emitAll k i out else s
  | _, _ => s

/-- STEER_TOKEN_FIRE (R263). -/
def execSteerTokenFire (s : State) : Outcome State Fault Refusal := .next (s.opEvent 3 State.steerOp)

/-- The tag fields of a compaction token's last data token, and its lanes, with one more (R264): a full token leaves. -/
def Compact.put (c : Compact) (x : Nat) (d : Token) : Compact × Option Token :=
  let lanes := c.lanes ++ [BitVec.ofNat 32 x]
  if lanes.length = 32 then
    (⟨[], 0, 0⟩, some (mkData (lineOfLanes (lanes.map BitVec.toNat)) d.round 15 d.fmt))
  else (⟨lanes, d.fmt, d.round⟩, none)

/-- Fill compaction tokens with the lanes of a data token, in ascending order (R264). -/
def Compact.fill (sel : Nat → Bool) (d : Token) : List Nat → Compact → List Token → Compact × List Token
  | [], c, out => (c, out)
  | n :: ns, c, out =>
    if hasGroup d.valid (n / 8) && sel n then
      let (c1, t) := c.put (d.lane n) d
      Compact.fill sel d ns c1 (out ++ t.toList)
    else Compact.fill sel d ns c out

/-- A lane-mode STEER keeps the lanes whose control lane is not zero, and the others for o1 where it is bound (R264). -/
def State.steerLaneOp (s : State) (k i m : Nat) : State :=
  match s.opData k i m 0, s.opData k i m 1 with
  | some d, some c =>
    let o := s.op k i m
    let outs := s.outs k i (2 + m)
    let (kp, ko) := Compact.fill (fun n => c.lane n != 0) d (List.range 32) o.kept []
    let (rj, ro) :=
      if outs.contains (opPort m 1) then Compact.fill (fun n => c.lane n == 0) d (List.range 32) o.rejected [] else (o.rejected, [])
    let sends := ((ko.map (fun t => (opPort m 0, t))) ++ (ro.map (fun t => (opPort m 1, t))))
    if s.roomFor k i sends then
      (((s.setOp k i m { o with kept := kp, rejected := rj }).pop k i (opPort m 0)).pop k i (opPort m 1)).emitAll k i sends
    else s
  | _, _ => s

/-- STEER_LANE_FIRE (R264). -/
def execSteerLaneFire (s : State) : Outcome State Fault Refusal := .next (s.opEvent 4 State.steerLaneOp)

/-- The partial compaction token that a lane-mode STEER emits ahead of a mark: padded to whole groups (R264). -/
def Compact.rest (c : Compact) (pad : Nat) : Option Token :=
  if c.lanes = [] then none
  else
    let g := (c.lanes.length + 7) / 8
    let lanes := c.lanes.map BitVec.toNat ++ List.replicate (8 * g - c.lanes.length) pad
    some (mkData (lineOfLanes (lanes ++ List.replicate (32 - 8 * g) 0)) c.round (BitVec.ofNat 4 (2 ^ g - 1)) c.fmt)

/-- Emit the partial tokens of a lane-mode STEER. -/
def State.flushSteer (s : State) (k i m : Nat) : State :=
  let o := s.op k i m
  let pad := (s.site k i).opPad i m
  let sends := ((o.kept.rest pad).toList.map (fun t => (opPort m 0, t))) ++ ((o.rejected.rest pad).toList.map (fun t => (opPort m 1, t)))
  if s.roomFor k i sends then (s.setOp k i m { o with kept := ⟨[], 0, 0⟩, rejected := ⟨[], 0, 0⟩ }).emitAll k i sends else s

/-- A controlled MERGE reads the bound data input that its control token selects; one whose head is a mark raises MARK_SKEW (R250, R265). -/
def State.mergeCtlOp (s : State) (k i m : Nat) : State :=
  match s.opData k i m 3 with
  | none => s
  | some c =>
    let data := (List.range 3).filter (fun n => (s.site k i).sinkOn i (opPort m n))
    let n := data.getD (c.lane 0 % 4 % data.length) 0
    match s.head k i (opPort m n) with
    | none => s
    | some t =>
      if t.isMark then s.stopOp k i m cMarkSkew
      else if s.outRoom k i t (opPort m 0) then ((s.pop k i (opPort m n)).pop k i (opPort m 3)).emit k i t (opPort m 0)
      else s

/-- MERGE_CONTROLLED_FIRE (R265). -/
def execMergeControlledFire (s : State) : Outcome State Fault Refusal := .next (s.opEvent 5 State.mergeCtlOp)

/-- The next of `n` choices that is ready, round-robin after the one served last (R137, R265, R266). -/
def nextServed (n served : Nat) (ready : Nat → Bool) : Option Nat :=
  ((List.range n).map (fun j => (served + 1 + j) % n)).find? ready

/-- A fair MERGE forwards the head of the next input that holds data (R265). -/
def State.mergeFairOp (s : State) (k i m : Nat) : State :=
  let o := s.op k i m
  match nextServed 4 o.served (fun n => (s.site k i).sinkOn i (opPort m n) && (s.opData k i m n).isSome) with
  | none => s
  | some n =>
    match s.opData k i m n with
    | none => s
    | some t =>
      if s.outRoom k i t (opPort m 0) then
        ((s.setOp k i m { o with served := n }).pop k i (opPort m n)).emit k i t (opPort m 0)
      else s

/-- MERGE_FAIR_FIRE (R265). -/
def execMergeFairFire (s : State) : Outcome State Fault Refusal := .next (s.opEvent 6 State.mergeFairOp)

/-- A mark that closes a CARRY of a loop level (R253). -/
def Token.closes (t : Token) (level : Nat) : Bool :=
  t.kind == kFls || t.kind == kRst || (t.kind == kEor && decide (level ≤ t.level))

/-- A data trigger of a CARRY: it takes a token from init while closed, from the back edge while open; while a closing mark goes round it
waits (R253). -/
def State.carryTriggerOp (s : State) (k i m : Nat) : State :=
  let o := s.op k i m
  match s.opData k i m 2 with
  | none => s
  | some _ =>
    if o.pend.any (fun t => t.closes ((s.site k i).opLevel i m)) then s
    else
      let n := if o.isOpen then 1 else 0
      match s.opData k i m n with
      | none => s
      | some d =>
        if s.outRoom k i d (opPort m 0) then
          let o' := { o with isOpen := true, last := if o.isOpen then some d else o.last }
          (((s.setOp k i m o').pop k i (opPort m n)).pop k i (opPort m 2)).emit k i d (opPort m 0)
        else s

/-- One token of the run behind a mark that has returned to a CARRY (R253). -/
def State.carryRun (s : State) (k i m : Nat) : State :=
  let o := s.op k i m
  let out : Token → List (Nat × Token) := fun t => (s.outs k i (2 + m)).filter (· == opPort m 1) |>.map (fun p => (p, t))
  match o.run2.ins, o.run2.own with
  | (snk, c) :: _, own =>
    match s.opData k i m 1 with
    | none => s
    | some t =>
      if s.roomFor k i (out t) then
        ((s.setOp k i m { o with run2 := ⟨if c ≤ 1 then [] else [(snk, c - 1)], own⟩ }).pop k i snk).emitAll k i (out t)
      else s
  | [], t :: ts => if s.roomFor k i (out t) then (s.setOp k i m { o with run2 := ⟨[], ts⟩ }).emitAll k i (out t) else s
  | [], [] => s

/-- The back edge of a CARRY: a mark in `pend` leaves by the exit with its run and, for SAV and QSC, the state unit of `last`; data leaves
while the CARRY is closed (R253, R257). -/
def State.carryBackOp (s : State) (k i m : Nat) : State :=
  let o := s.op k i m
  let exit := (s.outs k i (2 + m)).filter (· == opPort m 1)
  match s.head k i (opPort m 1) with
  | none => s
  | some b =>
    if b.isMark then
      if b.badMark then s.stopOp k i m cMarkBad
      else if !o.pend.any (fun t => t.sameMark b) then s.stopOp k i m cMarkSkew
      else
        let cell := match (s.core k).occ with | some x => x.cell.toNat | none => 0
        let own :=
          if b.kind = kSav ∨ b.kind = kQsc then
            match o.last with
            | some l => [stateHeader cell i (2 + m) b.kind 1 l.round, l]
            | none => []
          else []
        let total := b.run + own.length
        let mark := if b.kind = kSav ∨ b.kind = kQsc ∨ b.kind = kRst then b.withRun total else b
        let sends := exit.map (fun p => (p, mark))
        if s.roomFor k i sends then
          let run2 : RunSt := ⟨if b.run = 0 then [] else [(opPort m 1, b.run)], own⟩
          let o' := { o with pend := o.pend.eraseP (fun t => t.sameMark b), run2 := run2 }
          ((s.setOp k i m o').pop k i (opPort m 1)).emitAll k i sends
        else s
    else if o.isOpen then s
    else
      let sends := exit.map (fun p => (p, b))
      if s.roomFor k i sends then (s.pop k i (opPort m 1)).emitAll k i sends else s

/-- CARRY_BACK_EDGE (R253). -/
def execCarryBackEdge (s : State) : Outcome State Fault Refusal :=
  let k := s.input.node.c.ix
  let i := s.input.node.site.toNat
  let m := s.input.node.slot.toNat - 2
  let o := s.op k i m
  .next (if (s.site k i).opKind i m = 7 ∧ !o.run2.idle ∧ o.cause = 0 then (s.carryRun k i m).settle k
    else if (s.site k i).frames ≠ [] ∧ (s.site k i).opKind i m = 7 ∧ o.cause = 0 ∧ 2 ≤ s.input.node.slot.toNat then
      (s.carryBackOp k i m).settle k
    else s)

/-- An INV: a value becomes held or pending; a trigger emits the held token with its own ROUND (R254). -/
def State.invOp (s : State) (k i m : Nat) : State :=
  let o := s.op k i m
  match s.opData k i m 0, o.held, o.wait with
  | some v, none, _ => (s.setOp k i m { o with held := some v }).pop k i (opPort m 0)
  | some v, some _, none => (s.setOp k i m { o with wait := some v }).pop k i (opPort m 0)
  | _, held, _ =>
    match held, s.opData k i m 1 with
    | some h, some t =>
      let out := h.withRound t.round
      if s.outRoom k i out (opPort m 0) then (s.pop k i (opPort m 1)).emit k i out (opPort m 0) else s
    | _, _ => s

/-- INV_FIRE (R254). -/
def execInvFire (s : State) : Outcome State Fault Refusal := .next (s.opEvent 8 State.invOp)

end Sys2Proof.Machine
end

