-- ==== Sys2Proof/Machine/Marks.lean ====
section
/-! DEFINITION. Marks at tile nodes, switch operators and M tiles: alignment, effects, copies and state runs (R247 to R260, R266, R273, R366,
R393). -/

namespace Sys2Proof.Machine

/-! ## A part's run and faults -/

def State.partRun (s : State) (k i slot : Nat) : RunSt :=
  let x := s.site k i
  if slot < 2 then (x.ct.node slot).run else if slot < 6 then (x.op (slot - 2)).run else x.mt.run

def State.setPartRun (s : State) (k i slot : Nat) (r : RunSt) : State :=
  let x := s.site k i
  if slot < 2 then s.setSite k i { x with ct := x.ct.setNode slot { x.ct.node slot with run := r } }
  else if slot < 6 then s.setOp k i (slot - 2) { x.op (slot - 2) with run := r }
  else s.setSite k i { x with mt := { x.mt with run := r } }

def State.partCause (s : State) (k i slot : Nat) : BitVec 8 :=
  let x := s.site k i
  if slot < 2 then (x.ct.node slot).cause else if slot < 6 then (x.op (slot - 2)).cause else x.mt.cause

/-- A part stops on a fault that is not serviced (R252, R270). -/
def State.stopPart (s : State) (k i slot cause : Nat) : State :=
  let x := s.site k i
  let c := BitVec.ofNat 8 cause
  let s1 :=
    if slot < 2 then s.setSite k i { x with ct := x.ct.setNode slot { x.ct.node slot with firing := false, cause := c } }
    else if slot < 6 then s.setOp k i (slot - 2) { x.op (slot - 2) with cause := c }
    else s.setSite k i { x with mt := { x.mt with cause := c } }
  s1.partFatal k i slot cause

/-- An uncorrectable error in a bank of an M tile, which its core's vault controller logs, stops the tile (R42, R270). -/
def State.tileError (s : State) (k i u : Nat) : State := (s.logUe u 0).stopPart k i 6 cEcc

/-- A mark has been applied: the align timer stops (R251). -/
def State.stopTimer (s : State) (k i slot : Nat) : State :=
  let x := s.site k i
  if slot < 2 then s.setSite k i { x with ct := x.ct.setNode slot { x.ct.node slot with blocked := none } }
  else if slot < 6 then s.setOp k i (slot - 2) { x.op (slot - 2) with blocked := none }
  else s.setSite k i { x with mt := { x.mt with blocked := none } }

/-! ## Alignment (R250) -/

/-- What the heads of a part's joined inputs show. -/
inductive Aligned where
  | wait
  | skew
  | bad
  | mark (t : Token)
  deriving DecidableEq, Repr

/-- Marks of different identities at two heads raise MARK_SKEW at once; a malformed one MARK_BAD; one identity at every head aligns
(R245, R250). -/
def alignHeads (heads : List (Option Token)) : Aligned :=
  let marks := (heads.filterMap id).filter Token.isMark
  match marks with
  | [] => .wait
  | t :: ts =>
    if (t :: ts).any Token.badMark then .bad
    else if !ts.all (fun u => t.sameMark u) then .skew
    else if marks.length = heads.length then .mark t
    else .wait

def State.aligned (s : State) (k i slot : Nat) : Aligned := alignHeads ((s.joins k i slot).map (s.head k i))

/-- The outputs on which a part emits marks: a CARRY's body alone (R253). -/
def State.markOuts (s : State) (k i slot : Nat) : List Nat :=
  if decide (2 ≤ slot) && decide (slot < 6) && (s.site k i).opKind i (slot - 2) == 7 then
    (s.outs k i slot).filter (· == opPort (slot - 2) 0)
  else s.outs k i slot

/-- The runs behind a mark's copies in the order they pass: input order, but a CARRY's trigger before its init (R250, R253). -/
def State.runsIn (s : State) (k i slot : Nat) : List (Nat × Nat) :=
  let ins := s.joins k i slot
  let ord := if decide (2 ≤ slot) && decide (slot < 6) && (s.site k i).opKind i (slot - 2) == 7 then ins.reverse else ins
  (ord.map (fun snk => (snk, match s.head k i snk with | some t => t.run | none => 0))).filter (fun p => p.2 != 0)

/-- One token of a run behind a mark, on the lowest output; a part without an output ends it (R250). -/
def State.passRun (s : State) (k i slot : Nat) : State :=
  let r := s.partRun k i slot
  let low := (s.markOuts k i slot).take 1
  match r.ins, r.own with
  | (snk, c) :: rest, own =>
    match s.head k i snk with
    | none => s
    | some t =>
      if t.isMark then s.stopPart k i slot cMarkSkew
      else
        let out := low.map (fun o => (o, t))
        if s.roomFor k i out then
          ((s.setPartRun k i slot ⟨if c ≤ 1 then rest else (snk, c - 1) :: rest, own⟩).pop k i snk).emitAll k i out
        else s
  | [], t :: ts =>
    let out := low.map (fun o => (o, t))
    if s.roomFor k i out then (s.setPartRun k i slot ⟨[], ts⟩).emitAll k i out else s
  | [], [] => s

/-! ## State units (R257, R366, R393) -/

def State.cellOf (s : State) (k : Nat) : Nat := match (s.core k).occ with | some x => x.cell.toNat | none => 0

/-- A unit: its header and its tokens. -/
def State.unit (s : State) (k i slot kind : Nat) (round : BitVec 6) (ts : List Token) : List Token :=
  stateHeader (s.cellOf k) i slot kind ts.length round :: ts

/-- A token of 32-bit values in its low lanes, FMT UINT32 and group 0 valid. -/
def u32Token (vals : List Nat) (round : BitVec 6) : Token := mkData (lineOfLanes (vals ++ List.replicate (32 - vals.length) 0)) round 1 1

/-- The 384 tokens of a matrix unit (R393). -/
def Matrix.tokens (mx : Matrix) : List Token :=
  ((List.range 64).map (fun r =>
    let q : BitVec 6 := if mx.q.getLsbD r then 1 else 0
    [mkData (tabLine mx.ev r) q 15 3, mkData (tabLine mx.od r) q 15 3])).flatten ++
  (List.range 128).map (fun n => mkData (tabLine mx.active n) 0 15 0) ++
  (List.range 128).map (fun n => mkData (tabLine mx.standby n) 0 15 0)

/-- The units that a tile node adds under SAV and QSC: registers where it has a release level, the matrix unit it owns, or the tile's mode
where no node of the tile has a release level and the mode is not the one its CFG mark set (R256, R257, R366, R393). -/
def State.nodeUnits (s : State) (k i j kind : Nat) : List Token :=
  let x := s.site k i
  let t := x.ct
  let n := t.node j
  let r := n.lastRound
  let regs := (x.share j).map (fun v => let y := t.v.getD v (0, 0, 0); mkData y.1 r y.2.1 y.2.2)
  let held :=
    if x.nodeRlen j then s.unit k i j kind r (regs ++ [u32Token [t.p.toNat, n.fcnt.toNat, t.mode.toNat] r])
    else
      let lower := if 0 < x.nodeCount 0 then 0 else 1
      if !x.nodeRlen 0 && !x.nodeRlen 1 && t.mode != t.cfgMode && j == lower then s.unit k i j kind r [u32Token [t.mode.toNat] r] else []
  held ++ (if x.ownsMatrix j then s.unit k i j kind r t.mx.tokens else [])

/-- Round of a held token, for its unit's header. -/
def roundOf (t : Option Token) : BitVec 6 := match t with | some x => x.round | none => 0

/-- The units of an operator: those of an INV; a CARRY's leaves with the returned mark (R253, R257). -/
def State.opUnits (s : State) (k i m kind : Nat) : List Token :=
  let o := s.op k i m
  if (s.site k i).opKind i m = 8 then
    s.unit k i (2 + m) kind (roundOf o.held) [o.held.getD (mkData 0 0 0 0), o.wait.getD (mkData 0 0 0 0)]
  else []

/-- A line of a tile's memory. -/
def State.tileLine (s : State) (k i n : Nat) : Line := lineOf (s.bytes (Loc.key (.tile k i (128 * n))) 128)

/-- The units of an M tile: a REPEAT's buffered tokens and count; under QSC an addressed buffer's 1,024 lines (R256, R257). The count token
holds whether a count is taken, the count, the passes done and the position in the pass. -/
def State.tileUnits (s : State) (k i kind : Nat) : List Token :=
  let x := s.site k i
  let m := x.mt
  if x.role = 3 then
    let c := u32Token [if m.count.isSome then 1 else 0, m.count.getD 0, m.again, m.pos] 0
    s.unit k i 6 kind (roundOf m.buf.head?) (m.buf ++ [c])
  else if x.role = 1 ∧ kind = kQsc then s.unit k i 6 kind 0 ((List.range 1024).map (fun n => mkData (s.tileLine k i n) 0 15 0))
  else []

/-- A poisoned unit among what an addressed buffer or a REPEAT emits behind a mark (R270). -/
def State.tileBad (s : State) (k i kind : Nat) : Option Nat :=
  let x := s.site k i
  let n := if x.role = 1 then (if kind = kQsc then 131072 else 0) else if x.role = 3 then 128 * x.mt.buf.length else 0
  (s.poisonedIn (Loc.key (.tile k i 0)) n).head?

/-! ## Effects (R256) -/

/-- A sink of core `k` reports on an EOR of level 7; in a resident task only with FINAL (R260). -/
def State.reportsOn (s : State) (k : Nat) (t : Token) : Bool :=
  t.kind == kEor && t.level == 7 && (match s.taskOf k with | some x => !x.flag 0 || t.pl % 2 == 1 | none => true)

/-- A mark that makes a tile node release (R248, R366). -/
def Site.releases (x : Site) (j : Nat) (t : Token) : Bool :=
  x.nodeRlen j && ((t.kind == kEor && decide (x.nodeLr j ≤ t.level)) || t.kind == kFls)

/-- What a mark does at a tile node beyond passing (R256, R393). -/
def State.nodeEffect (s : State) (k i j : Nat) (t : Token) : State :=
  let x := s.site k i
  if t.kind = kMod then s.setSite k i { x with ct := { x.ct with mode := BitVec.ofNat 5 t.pl } }
  else if t.kind = kWsw ∧ x.ownsMatrix j then
    s.setSite k i { x with ct := { x.ct with mx := { x.ct.mx with active := x.ct.mx.standby, standby := x.ct.mx.active } } }
  else s

/-- The level of EOR that a core's task declares as its step (R152); 8 where it has no task. -/
def State.stepLevelOf (s : State) (k : Nat) : Nat :=
  match s.taskOf k with
  | some t => (s.graphInfo t.graph).stepLevel.toNat
  | none => 8

/-- EORs of the step level counted at a sink after a mark. -/
def State.sunkAfter (s : State) (k : Nat) (t : Token) (n : Nat) : Nat := if t.kind = kEor ∧ s.stepLevelOf k ≤ t.level then n + 1 else n

/-- A node's own report as a sink, with its count of steps (R152, R260). -/
def State.nodeReport (s : State) (k i j : Nat) (t : Token) : State :=
  let x := s.site k i
  let n := x.ct.node j
  if x.nodeSink j && t.kind == kEor then
    s.setSite k i
      { x with ct := x.ct.setNode j { n with reported := n.reported || s.reportsOn k t, sunk := s.sunkAfter k t n.sunk } }
  else s

/-- What a mark does at a switch operator (R253, R254, R256). -/
def State.opEffect (s : State) (k i m : Nat) (t : Token) : State :=
  let o := s.op k i m
  match (s.site k i).opKind i m with
  | 7 =>
    let o1 := { o with pend := o.pend ++ [t] }
    s.setOp k i m (if t.closes ((s.site k i).opLevel i m) then { o1 with isOpen := false, last := none } else o1)
  | 8 => if t.kind = kWsw ∧ o.wait.isSome then s.setOp k i m { o with held := o.wait, wait := none } else s
  | _ => s

/-- What a mark does at an M tile's buffer or REPEAT (R266, R267, R273); a SWP changes nothing that it holds (R144). -/
def State.tileEffect (s : State) (k i : Nat) (t : Token) : State :=
  let x := s.site k i
  let m := x.mt
  let m1 := if t.kind = kSwp then m else { m with w := 0 }
  let m2 := if x.role = 3 ∧ t.kind = kEor then { m1 with buf := [], count := none, again := 0, pos := 0 } else m1
  s.setSite k i { x with mt := m2 }

/-- A REPEAT has emitted every pass of its round, so that its EOR may go (R273). -/
def MTile.repeated (m : MTile) : Bool :=
  match m.count with
  | none => true
  | some c => m.buf == [] || decide (c ≤ m.again + 1)

/-- Pop every copy of an aligned mark, emit its copies and start its runs (R250). -/
def State.applyMark (s : State) (k i slot : Nat) (t : Token) (own : List Token) (effect : State → State) : State :=
  let ins := s.runsIn k i slot
  let outs := s.markOuts k i slot
  let total := (ins.map (fun p => p.2)).sum + own.length
  let copies := markCopies t total outs
  if s.roomFor k i copies then
    let s1 := (s.joins k i slot).foldl (fun s snk => s.pop k i snk) s
    let s2 := (effect s1).emitAll k i copies
    (s2.setPartRun k i slot ⟨ins, own⟩).stopTimer k i slot
  else s

/-- SAV and QSC. -/
def savesState (kind : Nat) : Bool := kind == kSav || kind == kQsc

/-- A mark aligned at a tile node: it waits for a firing to end; a release starts a release firing; else it is applied (R366, R367). -/
def State.nodeMark (s : State) (k i j : Nat) (t : Token) : State :=
  let x := s.site k i
  let n := x.ct.node j
  if n.firing || n.reported then s
  else if x.releases j t then
    let n' : NodeSt := { n with firing := true, slot := x.nodeFirst j, step := 0, release := some t, mode := x.ct.mode }
    s.setSite k i { x with ct := x.ct.setNode j n' }
  else
    s.applyMark k i j t (if savesState t.kind then s.nodeUnits k i j t.kind else [])
      (fun s => (s.nodeEffect k i j t).nodeReport k i j t)

/-- The end of a release firing: reset, then the mark (R366). -/
def State.endRelease (s : State) (k i j : Nat) (t : Token) : State :=
  let x := s.site k i
  let n := x.ct.node j
  if n.slot < x.nodeFirst j + x.nodeCount j then s
  else
    s.applyMark k i j t []
      (fun s =>
        let y := (s.site k i).releaseReset j
        let n' := { y.ct.node j with firing := false, slot := 0, step := 0, release := none }
        (s.setSite k i { y with ct := y.ct.setNode j n' }).nodeReport k i j t)

/-- A mark aligned at a switch operator. -/
def State.opMark (s : State) (k i m : Nat) (t : Token) : State :=
  let kind := (s.site k i).opKind i m
  let o := s.op k i m
  if kind = 1 then s.passOp k i m
  else if kind = 2 then s.forkOp k i m
  else if kind = 4 ∧ (o.kept.lanes ≠ [] ∨ o.rejected.lanes ≠ []) then s.flushSteer k i m
  else s.applyMark k i (2 + m) t (if savesState t.kind then s.opUnits k i m t.kind else []) (fun s => s.opEffect k i m t)

/-- A mark aligned at an addressed buffer or a REPEAT, whose EOR waits for its passes (R266, R273). -/
def State.tileMark (s : State) (k i : Nat) (t : Token) : State :=
  let x := s.site k i
  if x.role = 3 ∧ t.kind = kEor ∧ !x.mt.repeated then s
  else if let some u := (if savesState t.kind then s.tileBad k i t.kind else none) then s.tileError k i u
  else s.applyMark k i 6 t (if savesState t.kind then s.tileUnits k i t.kind else []) (fun s => s.tileEffect k i t)

/-- One event of a mark of a kind at a tile node, a switch operator or an M tile. -/
def State.markStep (s : State) (kind k i slot : Nat) : State :=
  let x := s.site k i
  if x.frames = [] ∨ s.partCause k i slot ≠ 0 ∨ 7 ≤ slot then s
  else if !(s.partRun k i slot).idle then s.passRun k i slot
  else
    match (if slot < 2 then (x.ct.node slot).release else none) with
    | some t => if t.kind = kind then s.endRelease k i slot t else s
    | none =>
      match s.aligned k i slot with
      | .wait => s
      | .skew => s.stopPart k i slot cMarkSkew
      | .bad => s.stopPart k i slot cMarkBad
      | .mark t =>
        if t.kind ≠ kind ∨ kind = kCfg then s
        else if slot < 2 then s.nodeMark k i slot t
        else if slot < 6 then s.opMark k i (slot - 2) t
        else s.tileMark k i t

end Sys2Proof.Machine
end

