-- ==== Sys2Proof/Machine/Tiles.lean ====
section
/-! DEFINITION. M tiles on data: MRD, MWR and MACC of an addressed buffer, rings, and REPEAT (R266 to R273). -/

namespace Sys2Proof.Machine

open Host (Outcome)

/-- Role fields of an M tile (R311). -/
def Site.aBase (x : Site) : Nat := 128 * bits (x.frame 0) 17 8
def Site.rBase (x : Site) : Nat := 128 * bits (x.frame 0) 27 18
def Site.wBase (x : Site) : Nat := 128 * bits (x.frame 0) 37 28
def Site.maccOp (x : Site) : Nat := bits (x.frame 0) 40 38
def Site.rFmt (x : Site) : BitVec 4 := BitVec.ofNat 4 (bits (x.frame 0) 44 41)

/-- Slots of ring `r`: 2^j, none where the ring is unused (R311). -/
def Site.ringSlots (x : Site) (r : Nat) : Nat :=
  let j := bits (x.frame 2) (64 * r + 13) (64 * r + 10)
  if j = 0 then 0 else 2 ^ j

/-- An M tile of a role that may act: configured, not stopped, passing no run. -/
def State.tileReady (s : State) (k i role : Nat) : Bool :=
  let x := s.site k i
  isMSite i && x.frames != [] && x.role == role && x.mt.cause == 0 && x.mt.run.idle

/-- Data at an input of a tile. -/
def State.tileData (s : State) (k i n : Nat) : Option Token :=
  match s.head k i (48 + n) with
  | some t => if t.isMark then none else some t
  | none => none

/-- A word of a tile's memory at a byte offset. -/
def State.tileWord (s : State) (k i b : Nat) : Nat := leNat (s.bytes (Loc.key (.tile k i b)) 4)

/-- A poisoned unit that bytes of a tile touch (R40, R270). -/
def State.tileUe (s : State) (k i b n : Nat) : Option Nat := (s.poisonedIn (Loc.key (.tile k i b)) n).head?

/-- A line of a tile is written whole: it holds no poison any more (R40). -/
def State.lineWritten (s : State) (k i n : Nat) : State := s.clearPoison (Loc.key (.tile k i (128 * n))) 128

def State.setMt (s : State) (k i : Nat) (m : MTile) : State := s.setSite k i { s.site k i with mt := m }

/-- The next unit that an addressed buffer serves: the ACC pair 0, reads 1, writes 2, round-robin among those that are ready; a pair that has been
begun goes on (R266, R269). -/
def State.tileTurn (s : State) (k i : Nat) : Option Nat :=
  let x := s.site k i
  if x.mt.acc ≠ 0 then some 0
  else nextServed 3 x.mt.served (fun u =>
    match u with
    | 0 => (s.tileData k i 0).isSome && (s.tileData k i 1).isSome
    | 1 => match s.tileData k i 2 with
      | some a => s.roomFor k i ((s.outs k i 6).filter (· == 48) |>.map (fun o => (o, a)))
      | none => false
    | _ => (s.tileData k i 3).isSome)

/-- Serve one unit of an addressed buffer, if it is its turn. -/
def State.tileServe (s : State) (u : Nat) (f : State → Nat → Nat → State) : State :=
  let k := s.input.node.c.ix
  let i := s.input.node.site.toNat
  if s.tileReady k i 1 && s.tileTurn k i == some u then
    let x := s.site k i
    (f (s.setSite k i { x with mt := { x.mt with served := u } }) k i).settle k
  else s

/-- Word indices of an address token in its valid groups, lane by lane. -/
def Token.indices (t : Token) : List (Nat × Nat) := ((List.range 32).filter (fun n => hasGroup t.valid (n / 8))).map (fun n => (n, t.lane n))

/-- MRD: each lane reads the word that its index names (R267, R270). -/
def State.mrdOp (s : State) (k i : Nat) : State :=
  match s.tileData k i 2 with
  | none => s
  | some a =>
    let x := s.site k i
    let places := a.indices.filter (fun p => p.2 != 0xFFFFFFFF)
    if places.any (fun p => decide (131072 ≤ x.rBase + 4 * p.2)) then s.stopPart k i 6 cBounds
    else if let some u := places.findSome? (fun p => s.tileUe k i (x.rBase + 4 * p.2) 4) then s.tileError k i u
    else
      let lanes := (List.range 32).map (fun n =>
        if hasGroup a.valid (n / 8) && a.lane n != 0xFFFFFFFF then s.tileWord k i (x.rBase + 4 * a.lane n) else 0)
      let out := mkData (lineOfLanes lanes) a.round a.valid x.rFmt
      (s.pop k i 50).emitAll k i (((s.outs k i 6).filter (· == 48)).map (fun o => (o, out)))

/-- MRD (R267). -/
def execMrd (s : State) : Outcome State Fault Refusal := .next (s.tileServe 1 State.mrdOp)

/-- MWR: a data token becomes the next line, in its valid groups (R267, R270). -/
def State.mwrOp (s : State) (k i : Nat) : State :=
  match s.tileData k i 3 with
  | none => s
  | some d =>
    let x := s.site k i
    let b := x.wBase + 128 * x.mt.w
    if 131072 ≤ b then s.stopPart k i 6 cBounds
    else
      let s1 := ((List.range 4).filter (hasGroup d.valid)).foldl
        (fun s g =>
          let key := Loc.key (.tile k i (b + 32 * g))
          (s.store key (((lineBytes d.payload).drop (32 * g)).take 32)).clearPoison key 32) s
      (s1.setSite k i { x with mt := { x.mt with w := x.mt.w + 1 } }).pop k i 51

/-- MWR (R267). -/
def execMwr (s : State) : Outcome State Fault Refusal := .next (s.tileServe 2 State.mwrOp)

/-- One element of a MACC (R268). -/
def maccWord (op w v : Nat) : Nat :=
  match op with
  | 0 => (w + v) % 2 ^ 32
  | 1 => ofInt 32 (satInt32 (sInt 32 w + sInt 32 v))
  | 2 => ofInt 32 (max (sInt 32 w) (sInt 32 v))
  | 3 => ofInt 32 (min (sInt 32 w) (sInt 32 v))
  | _ => roundFV .f32 ovNone .rne (fvAdd .rne (fpVal .f32 w) (fpVal .f32 v))

/-- One element of an ACC pair is done; behind the last one the pair goes (R268, R269). -/
def State.maccNext (s : State) (k i left : Nat) : State :=
  let m := (s.site k i).mt
  if left ≤ 1 then ((s.setMt k i { m with acc := 0 }).pop k i 48).pop k i 49 else s.setMt k i { m with acc := m.acc + 1 }

/-- The next element of an ACC pair, in lane order; tile-space accesses take their turns between elements. One that faults stops the tile, with
the words of those ahead of it written (R268 to R270). -/
def State.maccOf (s : State) (k i : Nat) : State :=
  match s.tileData k i 0, s.tileData k i 1 with
  | some a, some v =>
    let x := s.site k i
    let todo := a.indices.drop x.mt.acc
    match todo with
    | [] => s.maccNext k i 0
    | (n, w) :: _ =>
      let b := x.aBase + 4 * w
      if w = 0xFFFFFFFF then s.maccNext k i todo.length
      else if 131068 < b then s.stopPart k i 6 cBounds
      else if let some u := s.tileUe k i b 4 then s.tileError k i u
      else
        (s.store (Loc.key (.tile k i b)) (leBytes 4 (maccWord x.maccOp (s.tileWord k i b) (v.lane n)))).maccNext k i todo.length
  | _, _ => s

/-- MACC: one element at a time (R268, R269). -/
def execMacc (s : State) : Outcome State Fault Refusal := .next (s.tileServe 0 State.maccOf)

/-! ## Rings (R272) -/

def MTile.ring (m : MTile) (r : Nat) : Ring := m.rings.getD r ⟨0, [], ⟨[], []⟩⟩

def State.setRing (s : State) (k i r : Nat) (g : Ring) : State :=
  let x := s.site k i
  s.setSite k i { x with mt := { x.mt with rings := x.mt.rings.set r g } }

/-- The line of a tile that holds slot `j` of ring `r`, counted from its head (R272, R311). -/
def State.ringLine (s : State) (k i r j : Nat) : Nat :=
  let x := s.site k i
  bits (x.frame 2) (64 * r + 9) (64 * r) + ((x.mt.ring r).head + j) % (max (x.ringSlots r) 1)

/-- A poisoned unit in the first `n` slots of a ring (R270). -/
def State.ringUe (s : State) (k i r n : Nat) : Option Nat := (List.range n).findSome? (fun j => s.tileUe k i (128 * s.ringLine k i r j) 128)

/-- RING_PUSH: a ring stores the head of its input at its tail, while it has a free slot (R272). A CFG mark stays: the tile takes it (R243). The
input names the ring. -/
def State.ringPush (s : State) (k i r : Nat) : State :=
  let g := (s.site k i).mt.ring r
  if (s.site k i).ringSlots r ≤ g.toks.length then s
  else
    match s.head k i (48 + r) with
    | none => s
    | some t =>
      if t.isMark && t.badMark then s.stopPart k i 6 cMarkBad
      else if t.isMark && t.kind == kCfg then s
      else ((s.lineWritten k i (s.ringLine k i r g.toks.length)).setRing k i r { g with toks := g.toks ++ [t] }).pop k i (48 + r)

/-- The slots filled behind the mark at a ring's head, but for the run that came with the mark. -/
def Ring.behind (g : Ring) (run : Nat) : List Token := (g.toks.drop 1).drop run

/-- The state unit of a ring: its filled slots, then its head, tail, free and filled counts and its number (R257, R272). -/
def State.ringUnit (s : State) (k i r kind : Nat) (g : Ring) (run : Nat) : List Token :=
  let f := g.behind run
  let n := (s.site k i).ringSlots r
  let head := (g.head + 1 + min run (g.toks.length - 1)) % (max n 1)
  s.unit k i 6 kind (roundOf f.head?) (f ++ [u32Token [head, (head + f.length) % (max n 1), n - f.length, f.length, r] 0])

/-- A slot frees when its token is delivered. -/
def State.ringDrop (s : State) (k i r : Nat) : State :=
  let g := (s.site k i).mt.ring r
  s.setRing k i r { g with toks := g.toks.drop 1, head := (g.head + 1) % (max ((s.site k i).ringSlots r) 1) }

/-- RING_POP: output k delivers the head of ring k. A SAV or QSC mark at the head leaves with the ring's unit behind the run it came with;
every other mark leaves at once (R256, R272). An error in a slot that is read stops the tile (R270). -/
def State.ringPop (s : State) (k i r : Nat) : State :=
  let g := (s.site k i).mt.ring r
  let saves := match g.toks with | t :: _ => t.isMark && savesState t.kind | [] => false
  if let some u := (if g.run.ins = [] ∧ g.run.own ≠ [] then none else s.ringUe k i r (if saves then g.toks.length else min 1 g.toks.length)) then
    s.tileError k i u
  else
  let out : Token → List (Nat × Token) := fun t => ((s.outs k i 6).filter (· == 48 + r)).map (fun o => (o, t))
  let send : Token → State → State := fun t s' => if s.roomFor k i (out t) then s'.emitAll k i (out t) else s
  match g.run.ins, g.run.own, g.toks with
  | (_, c) :: _, own, t :: _ =>
    let s1 := s.ringDrop k i r
    let g1 := (s1.site k i).mt.ring r
    send t (s1.setRing k i r { g1 with run := ⟨if c ≤ 1 then [] else [(0, c - 1)], own⟩ })
  | _ :: _, _, [] => s
  | [], t :: ts, _ => send t (s.setRing k i r { g with run := ⟨[], ts⟩ })
  | [], [], [] => s
  | [], [], t :: _ =>
    let s1 := s.ringDrop k i r
    if t.isMark && savesState t.kind then
      let own := s.ringUnit k i r t.kind g t.run
      let g1 := (s1.site k i).mt.ring r
      send (t.withRun (t.run + own.length)) (s1.setRing k i r { g1 with run := ⟨if t.run = 0 then [] else [(0, t.run)], own⟩ })
    else send t s1

def State.ringEvent (s : State) (f : State → Nat → Nat → Nat → State) : State :=
  let k := s.input.node.c.ix
  let i := s.input.node.site.toNat
  let r := s.input.num
  if s.tileReady k i 2 && decide (r < 4) && (s.site k i).ringSlots r != 0 then (f s k i r).settle k else s

/-- RING_PUSH (R272). -/
def execRingPush (s : State) : Outcome State Fault Refusal := .next (s.ringEvent State.ringPush)

/-- RING_POP (R272). -/
def execRingPop (s : State) : Outcome State Fault Refusal := .next (s.ringEvent State.ringPop)

/-! ## REPEAT (R273) -/

/-- One act of a REPEAT: it takes the round's count, passes and keeps a token of the round, or sends one token of a further pass once the
round's EOR has aligned (R270, R273). -/
def State.repeatStep (s : State) (k i : Nat) : State :=
  let m := (s.site k i).mt
  let outs := (s.outs k i 6).filter (· == 48)
  match m.count with
  | none =>
    match s.tileData k i 1 with
    | none => s
    | some c => (s.setMt k i { m with count := some (c.lane 0) }).pop k i 49
  | some c =>
    match s.tileData k i 0 with
    | some t =>
      let out := if c = 0 then [] else outs.map (fun o => (o, t))
      if 1024 ≤ m.buf.length then s.stopPart k i 6 cBounds
      else if s.roomFor k i out then
        (((s.lineWritten k i m.buf.length).setMt k i { m with buf := m.buf ++ [t] }).pop k i 48).emitAll k i out
      else s
    | none =>
      match s.aligned k i 6 with
      | .mark e =>
        if e.kind ≠ kEor ∨ m.repeated then s
        else
          match m.buf[m.pos]? with
          | none => s
          | some t =>
            let out := outs.map (fun o => (o, t))
            let m' := if m.pos + 1 < m.buf.length then { m with pos := m.pos + 1 } else { m with pos := 0, again := m.again + 1 }
            if let some u := s.tileUe k i (128 * m.pos) 128 then s.tileError k i u
            else if s.roomFor k i out then (s.setMt k i m').emitAll k i out else s
      | _ => s

/-- REPEAT_ROUND (R273). -/
def execRepeatRound (s : State) : Outcome State Fault Refusal :=
  let k := s.input.node.c.ix
  let i := s.input.node.site.toNat
  .next (if s.tileReady k i 3 then (s.repeatStep k i).settle k else s)

end Sys2Proof.Machine
end

