-- ==== Sys2Proof/Machine/Configure.lean ====
section
/-! DEFINITION. Loading a site's frames behind a CFG mark: the checks that raise CFG_BAD and what a loaded site starts with (R126, R127, R218,
R233, R261, R305 to R313, R384, R394). -/

namespace Sys2Proof.Machine

open Host (Outcome)

/-- Frames of a site's set: kind and index of each in order (R307, R308). -/
def frameSet (i : Nat) : List (Nat × Nat) :=
  let sw := (List.range 4).map (fun j => (5, j))
  if isCSite i then (0, 0) :: ((List.range 2).map (fun j => (1, j)) ++ (List.range 16).map (fun j => (2, j)) ++ sw)
  else if isMSite i then [(3, 0), (3, 1), (4, 0)] ++ sw
  else if (sitePort i).isSome then sw ++ (List.range 4).map (fun j => (6, j))
  else sw

/-- The address of a frame (R307). -/
def frameAddr (k i : Nat) (f : Nat × Nat) : Nat :=
  (k / 16) * 2 ^ 29 + (k % 16) * 2 ^ 25 + i * 2 ^ 17 + f.1 * 2 ^ 13 + f.2 * 2 ^ 8

/-! ## Micro-op frames (R233, R305, R306, R384, R394) -/

/-- The sources that a micro-op reads, by op8 (R369 to R383); MMA and MLDB name inputs in fields a and b, MOUT none. -/
def microSrcs (w : Nat) : List Nat :=
  let op := nbits w 31 24
  let a := nbits w 19 16
  let b := nbits w 15 12
  let c := nbits w 11 8
  if op = 4 ∨ op = 0x70 then [a, b, c]
  else if op = 0x47 ∨ op = 0x61 then []
  else if (7 ≤ op ∧ op ≤ 0x0E) ∨ op = 0x2C ∨ op = 0x2D ∨ (0x44 ≤ op ∧ op ≤ 0x46) ∨ op = 0x50 ∨ op = 0x71 ∨ op = 0x74 ∨ op = 0x75 ∨ op = 0x78
  then [a]
  else [a, b]

def isMatrixOp (w : Nat) : Bool := decide (0x60 ≤ nbits w 31 24) && decide (nbits w 31 24 ≤ 0x62)

/-- The register or p that a micro-op writes, if it writes one. -/
def microWrites (w : Nat) : Option Nat :=
  let op := nbits w 31 24
  if op = 0x60 ∨ op = 0x62 then none else some (nbits w 23 20)

/-- Slots of a node. -/
def Site.slots (x : Site) (j : Nat) : List Nat := (List.range (x.nodeCount j)).map (fun n => x.nodeFirst j + n)

/-- A code of a source or destination belongs to node `j`: a register of its share, an input or output bound to it, a constant or p. -/
def Site.srcOk (x : Site) (j c : Nat) : Bool :=
  if c < 8 then (x.share j).contains c else if c < 12 then x.nodeIn j (c - 8) else true

def Site.dstOk (x : Site) (j c : Nat) : Bool :=
  if c < 8 then (x.share j).contains c else if c < 12 then x.nodeOut j (c - 8) else c == 12 && !x.writesP (1 - j)

/-- A register read before an earlier micro-op of the firing has written it (R366). -/
def Site.readsEarly (x : Site) (j n : Nat) : Bool :=
  let before := ((x.slots j).filter (fun m => decide (m < n))).filterMap (fun m => microWrites (x.micro m))
  (microSrcs (x.micro n)).any (fun c => decide (c < 8) && !before.contains c)

/-- The matrix rules of a node for one micro-op (R394). -/
def Site.matrixOk (x : Site) (j w : Nat) : Bool :=
  if !isMatrixOp w then true
  else
    let op := nbits w 31 24
    let count : Nat → Nat := fun o => ((x.slots j).filter (fun m => nbits (x.micro m) 31 24 == o)).length
    x.ownsMatrix j && x.nodeRule j == 1 &&
    (op == 0x61 ||
      (decide (count op ≤ 1) && nbits w 15 12 == 8 + x.nodeCtl j && nbits w 19 16 != 8 + x.nodeCtl j && x.srcOk j (nbits w 19 16)))

/-- A micro-op word of a node's range is good. -/
def Site.microOk (x : Site) (j n : Nat) : Bool :=
  let w := x.micro n
  (decodeMicro w).isSome && (microSrcs w).all (x.srcOk j) &&
  (match microWrites w with | some d => x.dstOk j d | none => true) &&
  (x.nodeRlen j || (!x.readsEarly j n && nbits w 31 24 != 0x47)) && x.matrixOk j w

/-- A slot of a tile is good: outside every range it holds zero. -/
def Site.slotOk (x : Site) (n : Nat) : Bool :=
  if (x.slots 0).contains n then x.microOk 0 n else if (x.slots 1).contains n then x.microOk 1 n else x.micro n == 0

/-- The fields of a node in the header (R309, R384). -/
def Site.headerNodeOk (x : Site) (j : Nat) : Bool :=
  if x.nodeCount j = 0 then
    x.nodeFirst j == 0 && x.nodeRule j == 0 && x.nodeCtl j == 0 && x.nodeT j == 0 && x.nodeLr j == 0 && !x.nodeRlen j && !x.nodeSink j
  else
    decide (x.nodeFirst j + x.nodeCount j ≤ 16) && decide (x.nodeRule j ≤ 1) &&
    (if x.nodeRule j = 1 then x.nodeIn j (x.nodeCtl j) else x.nodeCtl j == 0) && (List.range 4).any (x.nodeIn j)

/-- The C header frame (R309). -/
def Site.headerOk (x : Site) : Bool :=
  let h := x.frame 0
  bits h 255 66 == 0 && decide (bits h 21 18 ≤ 8) && x.headerNodeOk 0 && x.headerNodeOk 1 &&
  !(x.slots 0).any (fun n => (x.slots 1).contains n) &&
  (bits h 23 23 == 0 || (x.slots (bits h 22 22)).any (fun n => isMatrixOp (x.micro n)))

/-- A tile that enables no node (R310). -/
def Site.noNode (x : Site) : Bool := x.nodeCount 0 == 0 && x.nodeCount 1 == 0

/-! ## Switch frames (R261, R312) -/

/-- Inputs and outputs of an operator kind (R395). -/
def opInputs (kind : Nat) : Nat :=
  match kind with
  | 1 => 1 | 2 => 1 | 3 => 2 | 4 => 2 | 5 => 4 | 6 => 4 | 7 => 3 | 8 => 2 | _ => 0

def opOutputs (kind : Nat) : Nat :=
  match kind with
  | 1 => 1 | 2 => 4 | 3 => 4 | 4 => 2 | 5 => 1 | 6 => 1 | 7 => 2 | 8 => 1 | _ => 0

/-- Required inputs of an operator are bound. -/
def Site.opBound (x : Site) (i m : Nat) : Bool :=
  let on : Nat → Bool := fun n => x.sinkOn i (opPort m n)
  match x.opKind i m with
  | 0 => true
  | 3 => on 0 && on 1
  | 4 => on 0 && on 1
  | 5 => on 0 && decide (2 ≤ ((List.range 3).filter on).length)
  | 7 => on 0 && on 2
  | 8 => on 0 && on 1
  | _ => on 0

/-- Switch frame 0. -/
def Site.opsOk (x : Site) (i : Nat) : Bool :=
  (List.range 4).all (fun m =>
    let kind := x.opKind i m
    decide (kind ≤ 8) && (kind == 7 || x.opLevel i m == 0) && x.opField i m 11 11 == 0 && x.opField i m 31 16 == 0 &&
    (if m = 0 then decide (x.threshold i ≤ 8) else x.opField i m 15 12 == 0) && (kind == 4 || x.opPad i m == 0) && x.opBound i m)

/-- A sink entry: a source from 68 on is refused, be the entry enabled or not (R312). -/
def Site.sinkOk (x : Site) (i snk : Nat) : Bool :=
  let e := x.sinkEntry i snk
  let src := e % 128
  if 68 ≤ snk then e == 0
  else if 68 ≤ src then false
  else if e < 128 then true
  else
    (if snk < 48 then trackAt i (snk / 12) (snk % 12)
     else if snk < 52 then true
     else decide ((snk - 52) % 4 < opInputs (x.opKind i ((snk - 52) / 4)))) &&
    (if src < 48 then trackAt i (src / 12) (src % 12)
     else if src < 52 then true
     else decide ((src - 52) % 4 < opOutputs (x.opKind i ((src - 52) / 4))))

/-! ## M frames (R272, R311) -/

/-- Pairs of ranges that meet. -/
def anyOverlap : List (Nat × Nat) → Bool
  | [] => false
  | (a, n) :: rest => rest.any (fun r => decide (a < r.1 + r.2) && decide (r.1 < a + n)) || anyOverlap rest

def Site.roleOk (x : Site) (old : Nat) : Bool :=
  let f := x.frame 0
  decide (x.role ≤ 4) && bits f 255 45 == 0 && (bits f 3 3 == 0 || x.role == old) &&
  (if x.role = 0 then f == 0
   else if x.role = 1 then decide (x.maccOp ≤ 4) && decide (x.rFmt.toNat ≤ 3)
   else bits f 44 8 == 0)

/-- Subscriptions of a cache bank. -/
def Site.subsOk (x : Site) : Bool :=
  let f := (x.frame 1).toNat
  let subs := ((List.range 4).map (fun e => (nbits (f / 2 ^ (64 * e)) 35 0, nbits (f / 2 ^ (64 * e)) 63 36))).filter (fun p => p.2 != 0)
  if x.role = 4 then !anyOverlap subs else f == 0

def Site.ringsOk (x : Site) : Bool :=
  let f := (x.frame 2).toNat
  let e : Nat → Nat := fun r => f / 2 ^ (64 * r) % 2 ^ 64
  let used := ((List.range 4).map (fun r => (nbits (e r) 9 0, x.ringSlots r))).filter (fun p => p.2 != 0)
  if x.role = 2 then
    (List.range 4).all (fun r => nbits (e r) 63 14 == 0 && decide (nbits (e r) 13 10 ≤ 10)) && !anyOverlap used &&
    used.all (fun p => decide (p.1 + p.2 ≤ 1024)) && decide ((used.map (fun p => p.2)).sum ≤ 1024)
  else f == 0

/-! ## Port-block frames (R218, R313) -/

def handlersOk (f : Nat) : Bool :=
  (List.range 16).all (fun c =>
    let e := f / 2 ^ (16 * c) % 2 ^ 16
    nbits e 15 12 == 0 && (isCSite (nbits e 8 1) || isMSite (nbits e 8 1)))

def bindingsOk (f : Nat) : Bool :=
  let e : Nat → Nat := fun b => f / 2 ^ (32 * b) % 2 ^ 32
  let valid := (List.range 8).filter (fun b => e b % 2 == 1)
  (List.range 8).all (fun b => nbits (e b) 15 13 == 0 && nbits (e b) 31 23 == 0) &&
  valid.all (fun b => decide (1 ≤ nbits (e b) 22 19) && decide (nbits (e b) 22 19 ≤ 8)) &&
  valid.all (fun b => valid.all (fun c => b == c || nbits (e b) 4 1 != nbits (e c) 4 1))

def State.grantsOk (s : State) (f : Nat) : Bool :=
  (List.range 8).all (fun g =>
    let e := f / 2 ^ (32 * g) % 2 ^ 32
    nbits e 31 29 == 0 &&
    (nbits e 26 17 == 0 ||
      (decide (nbits e 16 7 + nbits e 26 17 ≤ 768) && nbits e 6 3 != 0 && s.boot.test.coreLive (16 * nbits e 2 0 + nbits e 6 3))))

/-- Check one frame of a site. -/
def State.frameOk (s : State) (x : Site) (i oldRole : Nat) (f : Nat × Nat) : Bool :=
  match f.1, f.2 with
  | 0, _ => x.headerOk
  | 1, n => (List.range 8).all (fun m => x.slotOk (8 * n + m))
  | 2, n => !x.noNode || x.frame (3 + n) == 0
  | 3, 0 => x.roleOk oldRole
  | 3, _ => x.subsOk
  | 4, _ => x.ringsOk
  | 5, 0 => x.opsOk i
  | 5, n => (List.range 32).all (fun m => x.sinkOk i (32 * (n - 1) + m))
  | 6, 0 => handlersOk (x.frame 4).toNat
  | 6, 1 => bits (x.frame 5) 255 5 == 0
  | 6, 2 => bindingsOk (x.frame 6).toNat
  | _, _ => s.grantsOk (x.frame 7).toNat

/-- The first frame that fails: none where the set is good. A count that differs fails at the set's first frame (R307, R308). -/
def State.badFrame (s : State) (x : Site) (i oldRole : Nat) : Option (Nat × Nat) :=
  let set := frameSet i
  if x.frames.length ≠ set.length then set.head? else set.find? (fun f => !s.frameOk x i oldRole f)

/-! ## Loading -/

/-- Zero the 128 KiB of an M tile (R266). -/
def State.zeroTile (s : State) (k i : Nat) : State :=
  let lo := Loc.key (.tile k i 0)
  let within : Nat → Bool := fun a => decide (lo ≤ a) && decide (a < lo + 131072)
  { s with m := { s.m with mem := s.m.mem.filter (fun c => !within c.1), poison := s.m.poison.filter (fun u => !within u) } }

/-- A port block after its frames load: credits as its bindings give them, no class masked, the load mode (R217, R218, R283). -/
def portLoaded (p : Port) (f : Nat) : Port :=
  { p with
    issued := 0, startedNo := 0, isStore := false, winEor := none, eors := List.replicate 8 0, round := 0, mode := 0, mask := 0,
    reported := false, stopped := false, cutAt := none, sunk := 0, startAt := 0
    credits := (List.range 8).map (fun b => let e := f / 2 ^ (32 * b) % 2 ^ 32; if e % 2 = 1 then nbits e 22 19 else 0) }

/-- A site takes its checked frames: its parts start as at load; an M tile that does not keep its contents is zeroed, behind the write-backs of a
cache bank's lines (R266, R267, R364, R386; assumption 105, DESIGN CHOICE). Saved units that wait for an RST stay (R133). -/
def State.installSite (s : State) (k i : Nat) (frames : List Frame) : State :=
  let old := s.site k i
  let x : Site := { Site.reset with frames := frames, rst := old.rst }
  let keep := isMSite i && bits (x.frame 0) 3 3 == 1
  let x1 := if keep then { x with mt := { old.mt with w := 0, served := 2, acc := 0, run := ⟨[], []⟩, blocked := none, cause := 0 } } else x
  let s0 := if isMSite i && !keep && (old.role == 4 || x.role == 4) then s.dropLines k (fun _ => true) else s
  let s1 := (if isMSite i && !keep then s0.zeroTile k i else s0).setSite k i x1
  match sitePort i with
  | none => s1
  | some n => s1.setPort k n (portLoaded (s1.port k n) (x.frame 6).toNat)

/-- Fill a range of memory with an image and zeros. -/
def State.fillRange (s : State) (key n : Nat) (bs : List Byte) : State :=
  let kept := s.m.mem.filter (fun c => !(decide (key ≤ c.1) && decide (c.1 < key + n)))
  { s with m := { s.m with mem := memStore kept key (bs.take n), poison := s.m.poison.filter (fun u => !(decide (key ≤ u) && decide (u < key + n))) } }

/-- A site has passed the CFG mark of its configuration path, with its frames (R127). -/
def Site.passed (x : Site) : Bool := x.loading == [] && x.path == [] && x.expect == 0

/-- The images of a cell have travelled behind its CFG marks: once every tile has passed its own, they stand in the core's memories and vaults
(R126). -/
def State.loadImages (s : State) (k : Nat) : State :=
  let c := s.core k
  if c.sites.all (fun x => x.2.passed) then
    c.images.foldl (fun s g => s.fillRange g.1 g.2.1 g.2.2) (s.setCore k { c with images := [] })
  else s

/-- CFG_BAD at a frame of a site, which is left as if unconfigured (R126, R308). -/
def State.cfgBad (s : State) (k i : Nat) (f : Nat × Nat) : State :=
  (s.setSite k i Site.reset).coreFatal k cCfgBad (BitVec.ofNat 64 (frameAddr k i f))

/-- The frames are complete: they are checked together, and applied, or CFG_BAD is raised (R126, R308). -/
def State.loadSite (s : State) (k i : Nat) : State :=
  let x := s.site k i
  match s.badFrame { x with frames := x.loading } i x.role with
  | none => (s.installSite k i x.loading).loadImages k
  | some f => s.cfgBad k i f

/-- The frames in a data token of a configuration stream: one in each valid lane group (R308). -/
def Token.frames (t : Token) : List Frame :=
  ((List.range 4).filter (hasGroup t.valid)).map (fun g => BitVec.ofNat 256 (t.payload.toNat / 2 ^ (256 * g)))

/-- A data token of a configuration stream that still owes `n` frames: FMT RAW, with four frames, or the last of them in its lowest groups (R308). -/
def Token.carriesFrames (t : Token) (n : Nat) : Bool :=
  !t.isMark && t.fmt == 0 && t.valid == BitVec.ofNat 4 (2 ^ min 4 n - 1)

/-- A configuration stream of some frames, as the hub core's fabric sends it: a CFG mark of die firmware's with their count, and the frames, four to
a data token (R126, R308). -/
def frameTokens : Nat → List Frame → List Token
  | 0, _ => []
  | n + 1, fs =>
    if fs = [] then []
    else
      let now := fs.take 4
      let line := (List.range now.length).foldl (fun x j => x + (now.getD j 0).toNat * 2 ^ (256 * j)) 0
      mkData (BitVec.ofNat 1024 line) 0 (BitVec.ofNat 4 (2 ^ now.length - 1)) 0 :: frameTokens n (fs.drop 4)

def cfgStream (k : Nat) (fs : List Frame) : List Token :=
  mkMark kCfg 0 0 (markOrigin (16 * (k / 16)) 17) fs.length :: frameTokens fs.length fs

/-- The frames that a site holds, or that come to it. -/
def Site.coming (x : Site) : List Frame :=
  if x.frames ≠ [] then x.frames else x.loading ++ (x.path.filter (fun t => !t.isMark)).flatMap Token.frames

/-- The inputs of a site hold nothing of its old configuration (R243). -/
def State.siteQuiet (s : State) (k i : Nat) : Bool := (List.range 20).all (fun n => s.chan k i (48 + n) == [])

/-- The back edge of a CARRY, which joins no other input (R253). -/
def Site.backEdge (x : Site) (i snk : Nat) : Bool := decide (52 ≤ snk) && snk % 4 == 1 && x.opKind i ((snk - 52) / 4) == 7

/-- The inputs of a site that something feeds. -/
def State.siteIns (s : State) (k i : Nat) : List Nat :=
  ((List.range 20).map (48 + ·)).filter (fun snk => (s.site k i).sinkOn i snk || (decide (snk < 52) && s.handled k i (snk - 48)))

/-- Nothing moves in a part of a site any more: no firing, no run being passed, no mark in a loop or a ring, and no fault. -/
def Site.quiet (x : Site) : Bool :=
  x.loading == [] && x.path == [] && x.rst == [] && x.ct.o.all Option.isNone &&
  (List.range 2).all (fun j => !(x.ct.node j).firing && (x.ct.node j).run.idle && (x.ct.node j).cause == 0) &&
  x.ops.all (fun o => o.run.idle && o.run2.idle && o.pend == [] && o.cause == 0) &&
  x.mt.run.idle && x.mt.cause == 0 && x.mt.rings.all (fun r => r.run.idle && !r.toks.any Token.isMark)

/-- A site has processed every token ahead of a CFG mark: its rings are empty, its back edges too, and a port block has nothing on its way
(R243). -/
def State.cfgReady (s : State) (k i : Nat) : Bool :=
  let x := s.site k i
  x.quiet && x.mt.rings.all (fun r => r.toks == []) && (s.siteIns k i).all (fun snk => !x.backEdge i snk || s.chan k i snk == []) &&
  (match sitePort i with
   | some n => let p := s.port k n; p.slots == [] && p.outq == [] && p.writes == [] && !p.fault.valid && p.runLeft.all (· == 0) && p.idxRun == []
   | none => true)

/-- A site takes a CFG mark: the frames that its payload counts come behind it, on an input, or on the configuration path. A count other than the
site's set raises CFG_BAD (R126, R308). -/
def State.takeCfg (s : State) (k i : Nat) (t : Token) (ins : List Nat) : State :=
  if t.pl = (frameSet i).length then s.setSite k i { s.site k i with expect := t.pl, loading := [], via := ins.head? }
  else s.cfgBad k i ((frameSet i).headD (0, 0))

/-- A site takes a token of its frames; the last has them checked and loaded. One that is no such token raises CFG_BAD (R308). -/
def State.takeFrames (s : State) (k i : Nat) (t : Token) : State :=
  let x := s.site k i
  if !t.carriesFrames (x.expect - x.loading.length) then s.cfgBad k i ((frameSet i).headD (0, 0))
  else
    let x1 := { x with loading := x.loading ++ t.frames }
    let s1 := s.setSite k i x1
    if x1.expect ≤ x1.loading.length then s1.loadSite k i else s1

/-- A lane-mode STEER of a site that holds lanes, which leave ahead of a mark (R249, R264). -/
def State.steerHolds (s : State) (k i : Nat) : Option Nat :=
  (List.range 4).find? (fun m => (s.site k i).opKind i m == 4 && ((s.op k i m).kept.lanes != [] || (s.op k i m).rejected.lanes != []))

/-- One act of a site's configuration: a CFG mark is taken from the configuration path once the old tokens are gone, or from a stream once it heads
every input of the site; then the tokens of frames behind it (R126, R243, R308). -/
def State.cfgStep (s : State) (k i : Nat) : State :=
  let x := s.site k i
  match x.via, x.path with
  | some snk, _ =>
    (match ((s.chan k i snk).head?).map Queued.tok with
     | none => s
     | some t => (s.pop k i snk).takeFrames k i t)
  | none, t :: rest =>
    let s1 := s.setSite k i { x with path := rest }
    if x.expect ≠ 0 then s1.takeFrames k i t
    else if s.siteQuiet k i then s1.takeCfg k i t []
    else s
  | none, [] =>
    let ins := (s.siteIns k i).filter (fun snk => !x.backEdge i snk)
    match alignHeads (ins.map (s.head k i)) with
    | .mark t =>
      if t.kind ≠ kCfg ∨ !s.cfgReady k i then s
      else
        (match s.steerHolds k i with
         | some m => s.flushSteer k i m
         | none => (ins.foldl (fun s snk => s.pop k i snk) s).takeCfg k i t ins)
    | _ => s

end Sys2Proof.Machine
end

