-- ==== Sys2Proof/Machine/Streams.lean ====
section
/-! DEFINITION. Stream parameter blocks, their checks and units (R314, R315, R397 to R402), how a unit meets its page (R192, R193, R399 to R401), and
descriptors that an instruction reads at issue (R337). -/

namespace Sys2Proof.Machine

/-! ## The block (R314) -/

abbrev Spb := BitVec 512

def sbBase (b : Spb) : Word := BitVec.ofNat 64 (bits b 63 0)
def sbSp (b : Spb) : Nat := bits b 65 64
def sbStore (b : Spb) : Bool := bits b 66 66 == 1
def sbMode (b : Spb) : Nat := bits b 68 67
def sbLanes (b : Spb) : Nat := bits b 75 72
def sbEor (b : Spb) (l : Nat) : Bool := bits b (80 + l) (80 + l) == 1
def sbEnd7 (b : Spb) : Bool := bits b 84 84 == 1
def sbAcq (b : Spb) : Bool := bits b 88 88 == 1
def sbRel (b : Spb) : Bool := bits b 89 89 == 1
def sbScope (b : Spb) : Scope := BitVec.ofNat 3 (bits b 92 90)
def sbIndex (b : Spb) : Nat := bits b 99 96
def sbIxen (b : Spb) : Bool := bits b 100 100 == 1
def sbTarget (b : Spb) : Nat := bits b 116 112
def sbCount (b : Spb) (d : Nat) : Nat := bits b (159 + 64 * d) (128 + 64 * d)
def sbStride (b : Spb) (d : Nat) : Nat := bits b (191 + 64 * d) (160 + 64 * d)

/-- A stride as a 64-bit addend. -/
def strideWord (x : Nat) : Word := (BitVec.ofNat 32 x).signExtend 64

/-- Units of a stream: the product of its counts (R397, R402, R405). -/
def sbUnits (b : Spb) : Nat := sbCount b 0 * sbCount b 1 * sbCount b 2 * sbCount b 3

/-- Index of dimension `d` in unit `u` (R397). -/
def unitIx (b : Spb) (u d : Nat) : Nat :=
  match d with
  | 0 => u % sbCount b 0
  | 1 => u / sbCount b 0 % sbCount b 1
  | 2 => u / (sbCount b 0 * sbCount b 1) % sbCount b 2
  | _ => u / (sbCount b 0 * sbCount b 1 * sbCount b 2)

/-- A(u) of a LIN stream, modulo 2^64 (R397). -/
def unitAddr (b : Spb) (u : Nat) : Word :=
  (List.range 4).foldl (fun a d => a + BitVec.ofNat 64 (unitIx b u d) * strideWord (sbStride b d)) (sbBase b)

/-- Dimensions that end at unit `u`: d and every dimension below it are at their last index. -/
def dimEnds (b : Spb) (u d : Nat) : Bool := (List.range (d + 1)).all (fun e => unitIx b u e + 1 == sbCount b e)

/-- The EOR that a unit ends with, if any: the highest level whose bit is set among the dimensions ending there, 7 for END7 (R314). -/
def unitEor (b : Spb) (u : Nat) : Option Nat :=
  if sbEnd7 b && u + 1 == sbUnits b then some 7
  else ((List.range 4).filter (fun d => sbEor b d && dimEnds b u d)).getLast?

/-- Element formats that SB_LANES takes (R397). -/
def lanesOk (c : Nat) : Bool := decide (c ≤ 8) || c == 10

/-- Steps 4 and 5 of R315 with the limits of R397, R402, R405 and R406, but for what depends on the machine: the cause, if any. -/
def spbFault (b : Spb) : Option Nat :=
  let mode := sbMode b
  let ones := (List.range 3).all (fun d => sbCount b (d + 1) == 1 && sbStride b (d + 1) == 0)
  if sbSp b = 3 then some cIllegal
  else if bits b 71 69 ≠ 0 ∨ bits b 79 76 ≠ 0 ∨ bits b 87 85 ≠ 0 ∨ bits b 95 93 ≠ 0 ∨ bits b 111 101 ≠ 0 ∨ bits b 127 117 ≠ 0 ∨
    bits b 511 384 ≠ 0 then some cBounds
  else if !lanesOk (sbLanes b) then some cBounds
  else if sbScope b ≠ 0 ∧ !sbAcq b ∧ !sbRel b then some cBounds
  else if sbIxen b ≠ (mode == 1 || mode == 2) then some cBounds
  else if (mode = 1 ∧ sbStore b) ∨ (mode = 2 ∧ !sbStore b) then some cBounds
  else if mode = 3 ∧ sbSp b ≠ 1 then some cBounds
  else if (mode = 1 ∨ mode = 2) ∧ !ones then some cBounds
  else if mode = 0 ∧ !sbStore b ∨ mode = 1 then
    (if sbTarget b ≤ 3 ∨ (8 ≤ sbTarget b ∧ sbTarget b ≤ 15) then none else some cBounds)
  else if mode = 0 ∨ mode = 2 then (if sbTarget b ≤ 3 then none else some cBounds)
  else if !sbStore b then
    (if sbLanes b ≠ 1 ∨ !((List.range 4).all (fun d => sbStride b d == 0)) ∨ bits b 28 0 ≠ 0 ∨ bits b 63 36 ≠ 0 then some cBounds else none)
  else if 16 ≤ sbTarget b ∨ sbBase b ≠ 0 then some cBounds
  else none

/-- A landing ring of a vault, by core number and ring (R58). -/
def State.landRing (s : State) (v r : Nat) : Option LandRing := tabFind s.links.rings (8 * v + r)

/-- The checks of a PKT block that depend on the machine (R405, R406). A hub core, whose streams may land and send too (R61), belongs to no region:
neither RG_ETH nor a grant binds it (assumption 12). -/
def State.pktFault (s : State) (k : Nat) (b : Spb) : Option Nat :=
  if sbMode b ≠ 3 then none
  else if sbStore b then
    let n := sbTarget b
    let eth := match s.taskOf k, (s.core k).occ with
      | some t, some o => (match t.regions[o.region.toNat]? with | some r => bits r.info (16 + n) (16 + n) == 1 | none => false)
      | _, _ => false
    if s.boot.test.ethLive n && (isHub k || eth) then none else some cPerm
  else
    let die := bits b 35 33
    let v := bits b 32 29
    match s.landRing (16 * die + v) (sbTarget b / 4) with
    | none => some cBounds
    | some r =>
      let cover := (s.grants k).filter (fun g => grantCovers g die v r.base (128 * r.slots))
      if isHub k then none
      else if cover = [] then some cBounds
      else if !cover.any (fun g => nbits g 27 27 == 1) then some cPerm
      else none

/-! ## Places outside the package (R30, R46, R52) -/

/-- A checked piece of a unit: its location, address, length, position and attributes. -/
structure Piece where
  loc : Loc
  va : Word
  n : Nat
  pos : Nat
  attr : Attr
  deriving DecidableEq, Repr, Inhabited

/-- The request of an agent for a place that it takes up itself. -/
def State.fetchOf (s : State) (ag : Agent) (l : Loc) (n : Nat) : Option Access :=
  s.net.accesses.find? (fun x => x.agent == ag && x.loc == l && x.size == n && x.fetches && x.op == .read)

/-- Ask the home of a piece for its bytes, unless the agent has asked already. -/
def State.ask (s : State) (ag : Agent) (asn : BitVec 16) (p : Piece) : State :=
  if (s.fetchOf ag p.loc p.n).isSome then s
  else
    s.request
      { id := 0, agent := ag, op := .read, loc := p.loc, ea := p.va, size := p.n, data := [], expect := [], fe := false, sc := false,
        fePage := p.attr.fe, pub := false, cp := p.attr.cp, acquire := none, dest := .fetch, after := s.sameGranule ag p.loc p.n, done := false,
        pc := 0, asn := asn, err := 0 }

/-- Read pieces: one that is `asked` for travels to its home and back (R165, R181), and one outside the package always does (R52); nothing is read
while an answer is due. Poison and error responses stop the read, and poison is logged (R40). The cause and the address of what stops it, or the
bytes. -/
def State.fetchAll (s : State) (ag : Agent) (asn : BitVec 16) (asked : Bool) (ps : List Piece) :
    Option (Except (Nat × Word) (List Byte)) × State :=
  let asks : Piece → Bool := fun p => asked || p.loc.outside
  let out := ps.filter asks
  let s1 := out.foldl (fun s p => s.ask ag asn p) s
  let got := out.filterMap (fun p => s1.fetchOf ag p.loc p.n)
  if got.length ≠ out.length ∨ !got.all s1.answered then (none, s1)
  else
    let s2 := got.foldl (fun s x => s.dropAccess x.id) s1
    let stop := ps.findSome? (fun p =>
      match s1.fetchOf ag p.loc p.n with
      | some x => if asks p && x.err != 0 then some (x.err.toNat, p.va, none) else none
      | none => (s1.poisonedIn p.loc.key p.n).head?.map (fun u => (cEcc, p.va, some u)))
    match stop with
    | some (c, va, u) => (some (.error (c, va)), match u with | some u => s2.logUe u 0 | none => s2)
    | none =>
      let bytes : Piece → List Byte := fun p =>
        match s1.fetchOf ag p.loc p.n with
        | some x => if asks p then (x.data ++ List.replicate p.n 0).take p.n else s1.bytes p.loc.key p.n
        | none => s1.bytes p.loc.key p.n
      (some (.ok (ps.flatMap bytes)), (ps.filter (fun p => !asks p)).foldl (fun s p => match p.loc with | .hbm q => s.llcRange q p.n p.attr.cp false | _ => s) s2)

/-! ## Descriptors (R337) -/

/-- Free bytes: what the outside world holds at a place the model does not follow (assumption 7). -/
def freeBytes (draw n : Nat) : List Byte := (List.range n).map (fun i => BitVec.ofNat 8 (Config.freeWord (draw + i)).toNat)

/-- A read under a page's policy passes through the tags of its place (R35). -/
def State.touched (s : State) (l : Loc) (n : Nat) (a : Attr) : State := match l with | .hbm q => s.llcRange q n a.cp false | _ => s

/-- The bytes at a location, as its home holds them; host memory and other packages hold what the outside world put there. -/
def State.bytesAt (s : State) (l : Loc) (n : Nat) : List Byte × State :=
  match l with
  | .host _ => (freeBytes s.draws n, { s with draws := s.draws + n })
  | .remote _ _ => (freeBytes s.draws n, { s with draws := s.draws + n })
  | _ => (s.bytes l.key n, s)

/-- A range within one page cut at 128-byte lines. -/
def linePieces (l : Loc) (va : Word) (n : Nat) (a : Attr) : List Piece :=
  (List.range ((n + 127) / 128)).map (fun j => ⟨l.plus (128 * j), va + BitVec.ofNat 64 (128 * j), min 128 (n - 128 * j), 128 * j, a⟩)

/-- Read a descriptor at issue and go on with its bytes: it is aligned, not in page 0, and translates; it waits for the core's own accesses
to its place, which its banks give up (R172, R180, R337). -/
def State.readDesc (s : State) (va : Word) (align n : Nat) (f : List Byte → State → State) : State :=
  if va.toNat % align ≠ 0 then s.faultTrap cMisalign va
  else if bits va 63 16 = 0 then s.faultTrap cBounds va
  else
    match s.translate (reticleOf s.me) (s.asnOf s.me) va .read with
    | (.fault c, s1) => s1.faultTrap c va
    | (.hole _, s1) => s1.faultTrap cBounds va
    | (.stall, s1) => s1
    | (.at l a, s1) =>
      if s1.sameGranule (.ctl s1.cur) l n ≠ [] then s1
      else
        match (s1.yieldLine s1.me l.key).fetchAll (.ctl s1.cur) (s1.asnOf s1.me) false (linePieces l va n a) with
        | (none, s2) => s2
        | (some (.error (c, _)), s2) => s2.faultTrap c va
        | (some (.ok bs), s2) => f bs s2

/-! ## Units and pages (R192, R193, R398 to R401) -/

/-- Elements in a token of a lane format (R398). -/
def perToken (f : Nat) : Nat :=
  match f with
  | 0 => 128 | 1 => 32 | 2 => 32 | 3 => 32 | 4 => 64 | 5 => 64 | 8 => 256 | _ => 128

/-- Bits of an element by its code (R279). -/
def codeBits (f : Nat) : Nat := match fmtOf f with | some x => fmtBits x | none => 8

/-- How a unit meets its page: bytes as stored; converted; a scaled token; scales applied; a whole token of a state run; not at all. -/
inductive UnitForm where
  | asStored
  | convert
  | scaled
  | applyScale
  | bad
  deriving DecidableEq, Repr, Inhabited

/-- Numeric formats without scales (R399). -/
def isNumeric (c : Nat) : Bool := (decide (1 ≤ c) && decide (c ≤ 8)) || c == 10

/-- The form of a load unit (R399). -/
def loadForm (p geo f : Nat) : UnitForm :=
  if p = 0 ∨ f = 0 ∨ (p = f ∧ geo = 0) then .asStored
  else if geo = 0 then (if isNumeric p && isNumeric f then .convert else .bad)
  else if geo = 1 ∧ ((p = f ∧ 6 ≤ p ∧ p ≤ 8) ∨ (p = 9 ∧ f = 8)) then .scaled
  else if 3 ≤ f ∧ f ≤ 5 then .applyScale
  else .bad

/-- The form of a store unit for a token of a VALID: a scaled page takes scaled tokens alone (R398, R400). -/
def storeForm (p geo f : Nat) (valid : BitVec 4) : UnitForm :=
  if p = 0 ∨ (p = f ∧ geo = 0) then .asStored
  else if geo = 0 then (if isNumeric p && isNumeric f then .convert else .bad)
  else if geo = 1 ∧ p = f ∧ 6 ≤ p ∧ p ≤ 8 ∧ valid = 7 then .scaled
  else .bad

/-- The first byte past the element area of a scaled page's 64 KiB (R193). -/
def elemArea (p : Nat) : Nat := if p = 8 then 49152 else if p = 9 then 32768 else 57344

/-- The scale's place of the element at byte offset `o` (and nibble) of a 64 KiB region (R193). -/
def scaleAt (p geo o nib : Nat) : Nat :=
  let per := if p = 8 then 2 else 1
  if p = 9 then elemArea p + o / 2
  else if geo = 1 then elemArea p + (o * per + nib) / 8
  else
    let l := 2 ^ (geo + 4)
    elemArea p + (o / (8 * l)) * (l * per) + (o % l) * per + nib

/-- Alignment that a unit's page asks for (R401). -/
def unitAlign (p geo : Nat) : Nat :=
  if p = 0 then 1
  else if geo = 0 then max 1 (codeBits p / 8)
  else if p = 8 then 4
  else if p = 9 then 16
  else 8

/-- Element bytes of a unit in memory, by its form. -/
def unitBytes (form : UnitForm) (p f : Nat) : Nat :=
  match form with
  | .asStored => 128
  | .convert => perToken f * codeBits p / 8
  | .scaled => if p = 9 then 32 else 64
  | .applyScale => if p = 9 then perToken f / 8 * 2 else perToken f * codeBits p / 8
  | .bad => 0

/-- Places of a unit's scales in its 64 KiB region: one for each block of a scaled token, one for each element where scales apply. -/
def unitScales (form : UnitForm) (p geo f o : Nat) : List Nat :=
  match form with
  | .scaled => (List.range (if p = 8 ∨ p = 9 then 16 else 8)).map (fun j =>
      scaleAt p geo (o + j * (if p = 9 then 2 else if p = 8 then 4 else 8)) 0)
  | .applyScale => (List.range (perToken f)).map (fun j =>
      if p = 9 then scaleAt p geo (o + j / 8 * 2) 0
      else if p = 8 then scaleAt p geo (o + j / 2) (j % 2)
      else scaleAt p geo (o + j) 0)
  | _ => []

/-- Pieces of a range that lie in one 128-byte line each: address, length, position. -/
def pieces (va : Word) (n : Nat) : List (Word × Nat × Nat) :=
  let first := va.toNat % 128
  let cuts := (List.range ((first + n + 127) / 128)).map (fun j => (max first (128 * j) - first, min (first + n) (128 * j + 128) - first))
  (cuts.filter (fun c => decide (c.1 < c.2))).map (fun c => (va + BitVec.ofNat 64 c.1, c.2 - c.1, c.1))

/-- Places of bytes as runs that lie in one line each: first place, length, position of the first byte. -/
def placeRuns : Nat → List Nat → List (Nat × Nat × Nat)
  | _, [] => []
  | i, a :: rest =>
    match placeRuns (i + 1) rest with
    | (b, n, j) :: more => if b = a + 1 ∧ b % 128 ≠ 0 then (a, n + 1, i) :: more else (a, 1, i) :: (b, n, j) :: more
    | [] => [(a, 1, i)]

/-- The pieces of a unit's elements and scales. A unit of tile space is one access, which its tile applies whole (R138, R269). -/
def unitPieces (sp : Sp) (va : Word) (n : Nat) (scales : List Nat) : List (Word × Nat × Nat) :=
  if sp = .t then [(va, n, 0)]
  else pieces va n ++ (placeRuns n scales).map (fun r => (BitVec.ofNat 64 r.1, r.2.1, r.2.2))

/-- What the checks of a unit find. -/
inductive Checked where
  | ok (form : UnitForm) (page : Nat) (ps : List Piece)
  | fault (cause : Nat) (va : Word)
  | stall
  deriving DecidableEq, Repr, Inhabited

/-- Space of an SP code. -/
def spOf (c : Nat) : Sp := if c = 0 then .g else if c = 1 then .v else .t

/-- What the translations of a unit's pieces find: the pieces, the first fault, whether the unit stalls, and the first piece whose frame lies
outside the package. -/
structure Placed where
  ps : List Piece
  bad : Option (Nat × Word)
  stall : Bool
  hole : Option Word

/-- Check every piece of a unit in order (R199). -/
def State.placeAll (k : Nat) (sp : Sp) (acc : Acc) : List (Word × Nat × Nat) → Placed → State → Placed × State
  | [], r, s => (r, s)
  | (va, n, pos) :: rest, r, s =>
    match s.reach k sp va n acc with
    | (.fault c, s1) => ({ r with bad := some (c, va) }, s1)
    | (.stall, s1) => ({ r with stall := true }, s1)
    | (.hole _, s1) => State.placeAll k sp acc rest { r with hole := r.hole.or (some va) } s1
    | (.at l a, s1) => State.placeAll k sp acc rest { r with ps := r.ps ++ [⟨l, va, n, pos, a⟩] } s1

/-- A unit of 128 bytes from an address runs past the end of its space. One at the end of global space lies in the device window, of which the
pages are RAW (R36, R38, R189, R401). -/
def beyond (sp : Sp) (va : Word) : Bool :=
  match sp with
  | .g => decide (2 ^ 52 < va.toNat + 128)
  | .v => decide (0x3000000 < bits va 25 0 + 128)
  | .t => decide (0x20000 < bits va 16 0 + 128)

/-- The first piece of a store unit that lies on a VQ2 page, which no stream stores to (R192). -/
def vqPiece (form : UnitForm) (acc : Acc) (run : Bool) (ps : List Piece) : Option Piece :=
  if form = .bad ∨ acc = .read ∨ run then none else ps.find? (fun p => p.attr.fmt == 9)

/-- Check a unit in the order of R401 and find its pieces: a frame outside the package comes last (R208). `run` marks a token of a state run, stored
whole (R400), and `valid` is the VALID of the token to store. In vault space a unit is checked line by line, each against the grants that cover it:
one that spans two adjacent grants passes (R36; assumption 100, DESIGN CHOICE). -/
def State.unitCheck (s : State) (k : Nat) (b : Spb) (va : Word) (acc : Acc) (run : Bool) (valid : BitVec 4) : Checked × State :=
  let sp := spOf (sbSp b)
  let f := sbLanes b
  if (sp = .g ∧ (bits va 63 16 = 0 ∨ bits va 63 52 ≠ 0)) ∨ beyond sp va then (.fault cBounds va, s)
  else
    match (match s.reach k sp va 1 acc with | (.hole a, s1) => (Where.at (.dt 0) a, s1) | r => r) with
    | (.fault c, s1) => (.fault c va, s1)
    | (.hole _, s1) => (.fault cBounds va, s1)
    | (.stall, s1) => (.stall, s1)
    | (.at _ a, s1) =>
      let form := if run then .asStored else if acc = .read then loadForm a.fmt a.geo f else storeForm a.fmt a.geo f valid
      if form = .bad then (.fault cPerm va, s1)
      else
        let n := unitBytes form a.fmt f
        let region := va.toNat / 65536 * 65536
        let o := va.toNat % 65536
        let scales := (unitScales form a.fmt a.geo f o).eraseDups
        let all := unitPieces sp va n (scales.map (region + ·))
        let (r, s2) := State.placeAll k sp acc all ⟨[], none, false, none⟩ s1
        match r.bad, vqPiece form acc run r.ps with
        | some (c, v), _ => (.fault c v, s2)
        | none, some p => (.fault cPerm p.va, s2)
        | none, none =>
          if va.toNat % unitAlign a.fmt a.geo ≠ 0 then (.fault cMisalign va, s2)
          else if scales ≠ [] ∧ elemArea a.fmt < o + n then (.fault cBounds va, s2)
          else
            match r.hole with
            | some v => (.fault cBounds v, s2)
            | none => if r.stall then (.stall, s2) else (.ok form (a.fmt + 16 * a.geo) r.ps, s2)

/-! ## Forming and storing tokens (R281, R398 to R400) -/

/-- Element `i` of packed bytes, of a width in bits. -/
def packedElem (bs : List Byte) (w i : Nat) : Nat :=
  if w = 4 then (byteAt bs (i / 2)).toNat / 2 ^ (4 * (i % 2)) % 16 else fieldAt bs (w / 8 * i) (w / 8)

/-- Elements packed into bytes. -/
def packElems (w : Nat) (es : List Nat) : List Byte :=
  if w = 4 then (List.range ((es.length + 1) / 2)).map (fun i => BitVec.ofNat 8 (es.getD (2 * i) 0 % 16 + es.getD (2 * i + 1) 0 % 16 * 16))
  else (es.map (leBytes (w / 8))).flatten

/-- Convert an element between formats by their codes, as a port does (R283, R399, R400). -/
def convElem (src dst : Nat) (mode : BitVec 5) (x : Nat) : Nat :=
  match fmtOf src, fmtOf dst with
  | some a, some b => convBits (codeBits dst) a b (ovOf mode) (rmOf (bits mode 2 0)) x
  | _, _ => 0

/-- An element of a scaled page as a value: scaled exactly; a scale of 0xFF makes it NaN (R281). -/
def scaledVal (p x e : Nat) : FV :=
  if e = 0xFF then .nan
  else match fmtOf p with
    | some f => fvScale (elemVal f x) ((e : Int) - 127)
    | none => .nan

/-- The payload and VALID that a load unit's bytes form (R398, R399). The scales stand behind the elements in `bs`. -/
def formToken (form : UnitForm) (p geo f : Nat) (va : Nat) (mode : BitVec 5) (bs : List Byte) : Line × BitVec 4 :=
  match form with
  | .asStored => (lineOf (bs.take 128), 15)
  | .convert => (lineOf (packElems (codeBits f) ((List.range (perToken f)).map (fun i => convElem p f mode (packedElem bs (codeBits p) i)))), 15)
  | .scaled =>
    let n := unitBytes form p f
    let elems :=
      if p = 9 then packElems 4 (((List.range 16).map (fun j => vq2Decode (fieldAt bs (2 * j) 2))).flatten) else bs.take n
    let blocks := if p = 8 ∨ p = 9 then 16 else 8
    (lineOf (elems ++ (bs.drop n).take blocks), 7)
  | .applyScale =>
    let n := unitBytes form p f
    let places := unitScales form p geo f (va % 65536)
    let uniq := places.eraseDups
    let scale : Nat → Nat := fun i => (byteAt bs (n + uniq.idxOf (places.getD i 0))).toNat
    let elem : Nat → FV := fun i =>
      if p = 9 then scaledVal 8 ((vq2Decode (fieldAt bs (i / 8 * 2) 2)).getD (i % 8) 0) (scale i)
      else scaledVal p (packedElem bs (codeBits p) i) (scale i)
    let dst := (fmtOf f).getD .f32
    (lineOf (packElems (codeBits f) ((List.range (perToken f)).map (fun i => roundFV dst (ovOf mode) (rmOf (bits mode 2 0)) (elem i)))), 15)
  | .bad => (0, 0)

/-- The bytes that a store unit writes, by position: those of valid groups; a state run's token whole (R400). -/
def storeBytes (form : UnitForm) (p f : Nat) (mode : BitVec 5) (run : Bool) (t : Token) : List (Option Byte) :=
  let raw := lineBytes t.payload
  match form with
  | .asStored => (List.range 128).map (fun i => if run || hasGroup t.valid (i / 32) then some (byteAt raw i) else none)
  | .convert =>
    let n := perToken f
    let es := (List.range n).map (fun i => convElem f p mode (packedElem raw (codeBits f) i))
    let out := packElems (codeBits p) es
    (List.range out.length).map (fun i =>
      let e := i * 8 / codeBits p
      if hasGroup t.valid (e * codeBits f / 256) then some (byteAt out i) else none)
  | .scaled =>
    let blocks := if p = 8 then 16 else 8
    (List.range 64).map (fun i => if hasGroup t.valid (i / 32) then some (byteAt raw i) else none) ++
    (List.range blocks).map (fun j => if hasGroup t.valid 2 then some (byteAt raw (64 + j)) else none)
  | _ => []

end Sys2Proof.Machine
end

