-- ==== Sys2Proof/Machine/Ports.lean ====
section
/-! DEFINITION. Port blocks at work: EORs and BARs (R247, R344), streams that start, load, store, take indices and retire (R236, R336, R397 to
R404). -/

namespace Sys2Proof.Machine

open Host (Outcome)

/-- Port block `n` of core `k` as an agent. -/
def portAgent (k n : Nat) : Agent := .port (coreOfIx k) (BitVec.ofNat 4 n)

/-- The sources of a core's task are released (R127); die firmware's own core needs no release. -/
def State.released (s : State) (k : Nat) : Bool := match (s.core k).occ with | some o => o.configured | none => true

/-- A source stands behind the EOR at which a checkpoint stops it (R152). -/
def Port.atCut (p : Port) : Bool :=
  match p.cutAt with
  | some (l, c) => decide (c ≤ p.eors.getD l 0)
  | none => false

/-- A generator may act: it is loaded and released, takes no new frames, holds no fault, and stands at no checkpoint's cut (R127, R152, R201,
R243). -/
def State.generates (s : State) (k n : Nat) : Bool :=
  let p := s.port k n
  (s.site k (portSite n)).frames != [] && (s.site k (portSite n)).via.isNone && s.released k && !s.portStopped k n && !p.atCut

/-- An entry is a SWP mark that has not left. -/
def PortItem.cuts (x : PortItem) : Bool :=
  match x with
  | .mark m _ sent => m.kind == kSwp && !sent
  | .stream _ => false

/-- A port has sent its SWP: what it still holds, the token of a deferred .fe load and all behind it, goes on at the new site (R145). -/
def State.pastCut (s : State) (k n : Nat) : Bool :=
  let p := s.port k n
  s.claimed k && p.stopped && !p.items.any PortItem.cuts

/-- A load of a port waits at its home for a fill, and no other unit of it is on its way (R145, R184). -/
def State.slotsDeferred (s : State) (p : Port) : Bool :=
  let waits : Nat → Bool := fun i => s.m.deferred.any (fun d => d.access == i)
  (match p.slots with | x :: _ => x.pend != [] | [] => false) && p.slots.all (fun x => x.pend.all waits)

/-- Put a stream back in its entry. -/
def Port.setStream (p : Port) (t : StreamSt) : Port :=
  { p with
    items := p.items.map (fun x =>
      match x with
      | .stream u => if u.op = t.op then .stream t else .stream u
      | .mark m op sent => .mark m op sent) }

/-! ## Tile operations and BARs (R336, R344) -/

/-- One part of a tile operation is done; the last retires it (R336). -/
def State.partDone (s : State) (k op : Nat) : State :=
  let c := s.ctlAt k
  match c.tops.find? (fun t => t.1 == op) with
  | none => s
  | some (_, m) =>
    if m ≤ 1 then (s.setCtlAt k { c with tops := c.tops.filter (fun t => t.1 != op) }).countFell k
    else s.setCtlAt k { c with tops := c.tops.map (fun t => if t.1 = op then (op, m - 1) else t) }

/-- The BARs of a port that their EOR has met are satisfied, in issue order; one that launches nothing retires (R344, R360). -/
def State.satisfyBars (k n : Nat) : Nat → State → State
  | 0, s => s
  | fuel + 1, s =>
    let c := s.ctlAt k
    match c.bars.find? (fun b => b.port.toNat == n) with
    | none => s
    | some b =>
      if b.hit then
        let s1 := (s.setCtlAt k { c with bars := c.bars.filter (fun x => x.op != b.op) }).event k 1
        State.satisfyBars k n fuel (if b.gated.isNone then s1.partDone k b.op else s1)
      else s

/-- The window of a BAR is open at a port (R344). -/
def Port.windowOpen (p : Port) (b : BarSt) : Bool := b.window == 0 || decide (b.window ≤ p.startedNo)

/-- A qualifying EOR of a level at a port: emitted, injected or applied there (R344). -/
def State.eorAt (s : State) (k n level : Nat) : State :=
  let p := s.port k n
  let top := max level (match p.winEor with | some l => l.toNat | none => 0)
  let s1 := s.setPort k n { p with winEor := some (BitVec.ofNat 3 top) }
  let c := s1.ctlAt k
  let hit : BarSt → BarSt := fun b =>
    if b.port.toNat = n ∧ b.level.toNat ≤ level ∧ p.windowOpen b then { b with hit := true } else b
  State.satisfyBars k n 8 (s1.setCtlAt k { c with bars := c.bars.map hit })

/-! ## What a port emits (R247, R248, R255) -/

/-- Count an EOR that a port emits (R247, R248). -/
def Port.bump (p : Port) (level : Nat) : Port :=
  { p with round := p.round + 1, eors := p.eors.mapIdx (fun l c => if l ≤ level then c + 1 else c) }

/-- Queue a token at the output (0 to 3) or binding (8 to 15) of a port; it holds no response slot. -/
def State.toOut (s : State) (k n target : Nat) (t : Token) : State :=
  let p := s.port k n
  s.setPort k n { p with outq := p.outq ++ [(target, t)], outLines := 0 }

/-- Emit an EOR of the port's generator at a target (R247, R314). -/
def State.emitEor (s : State) (k n target level : Nat) : State :=
  let p := s.port k n
  let m := mkMark kEor level (p.eors.getD level 0) (markOrigin k n) 0
  ((s.setPort k n (p.bump level)).toOut k n target m).eorAt k n level

/-- The first source token of a task sets its launch time (R110, R127). -/
def State.firstToken (s : State) (k : Nat) : State :=
  match (s.core k).occ with
  | none => s
  | some o =>
    { s with
      sched := { s.sched with
        tasks := s.sched.tasks.map (fun t =>
          if t.uid = o.task ∧ t.launchT.isNone then { t with launchT := some (s.timeOf (reticleOf k)) } else t) } }

/-- Outputs that the port's switch frame connects, and its valid bindings: where its marks leave (R255). -/
def State.outlets (s : State) (k n : Nat) : List Nat :=
  (List.range 4).filter (fun o => s.dests k (portSite n) (48 + o) != []) ++ (s.bindings k n).map (fun b => 8 + b)

/-! ## Accesses of a unit -/

/-- An agent's access to a node is on its way: a later one to that node follows it (R178). -/
def State.atNode (s : State) (ag : Agent) (l : Loc) : Bool := (s.outstanding ag).any (fun x => !x.fetches && s.homeNode x.loc == s.homeNode l)

/-- The line of a bank that a port block's access of a piece meets: the page has policy 00 and no presence bits, and the bank holds the place for
the core's address space (R35, R166, R184, R274). A bank takes none while an earlier access to the same node is on its way, but for a read of a
delivered copy (R176, R178; assumption 120, DEDUCED). -/
def State.portBank (s : State) (k n : Nat) (p : Piece) (write : Bool) : Option BankLine :=
  match p.loc with
  | .hbm q =>
    if p.attr.cp != 0 || p.attr.fe then none
    else (s.bankFor k (portAgent k n) (s.asnOf k) p.va.toNat p.n write).filter (fun b =>
      b.holds k q && (!s.atNode (portAgent k n) p.loc || (!write && s.fromCopy k p.va.toNat b)))
  | _ => none

/-- The first piece of a unit that meets an error of a bank line, which stops the unit (R40). -/
def State.bankError (s : State) (k n : Nat) (ps : List Piece) (write : Bool) : Option (BankLine × Piece) :=
  ps.findSome? (fun p => (s.portBank k n p write).bind (fun b => if b.stops (p.va.toNat % 128) p.n write then some (b, p) else none))

/-- Whether the bank that holds a piece serves it: always a read of a delivered copy, else it may (R166, R176; assumption 5). -/
def State.bankTakes (s : State) (k n : Nat) (p : Piece) (write : Bool) : Option BankLine × State :=
  match s.portBank k n p write with
  | none => (none, s)
  | some b => (if (!write && s.fromCopy k p.va.toNat b) || Config.bankHit s.draws then some b else none, s.drawn)

/-- A dirty line of a bank that an access of a port block to a home may not overtake: one of the same node, where the generator may have stored
before (R178), and for a write one behind a release at .core (R175). -/
def State.aheadOf (s : State) (l : Loc) (write : Bool) (b : BankLine) : Bool := (write && b.synced) || s.homeNode (.hbm b.pa) == s.homeNode l

/-- Request an access of a port block at its home; its identity and the state (R199, R237). The core's banks give up the line, but for a PUB
store whose copy the delivery changes (R166, R196), and write back what comes before. -/
def State.portAccess (s : State) (k n : Nat) (op : ReqOp) (p : Piece) (data : List Byte) (dest : Dest) (behind : List Nat) : Nat × State :=
  let ag := portAgent k n
  let pub := p.attr.pub && op == .write
  let s0 := if pub && s.subscribes k p.va.toNat then s else s.yieldLine k p.loc.key
  let s1 := s0.cleanWhere k (s0.aheadOf p.loc (op == .write))
  let early := pub && behind == []
  let seen := if p.attr.pub then s1.seenPub k p.va.toNat p.loc p.n else []
  let x : Access :=
    { id := 0, agent := ag, op := op, loc := p.loc, ea := p.va, size := p.n, data := data, expect := [], fe := false, sc := false,
      fePage := p.attr.fe, pub := pub, cp := p.attr.cp, acquire := none, dest := dest, after := s1.sameGranule ag p.loc p.n ++ seen ++ behind,
      done := false, pc := 0, asn := s1.asnOf k, err := 0, told := early }
  let id := s1.net.nextId
  let s2 := s1.request x
  (id, if early then s2.publish id (coreNode k) (s1.asnOf k) p.va.toNat data else s2)

/-- Read every piece of a load unit: what the banks serve stands in the bytes, the rest is asked for. -/
def State.readPieces (k n unit : Nat) : List Piece → List Nat → List Byte → State → List Nat × List Byte × State
  | [], ids, bs, s => (ids, bs, s)
  | p :: ps, ids, bs, s =>
    match s.bankTakes k n p false with
    | (some b, s1) =>
      let got := ((lineBytes b.data).drop (p.va.toNat % 128)).take p.n
      State.readPieces k n unit ps ids (bs.take p.pos ++ got ++ bs.drop (p.pos + p.n)) (s1.bankTouch b)
    | (none, s1) =>
      let (id, s2) := s1.portAccess k n .read p [] (.slot (BitVec.ofNat 4 n) unit p.pos) []
      State.readPieces k n unit ps (ids ++ [id]) bs s2

/-- Bytes to write, as runs with their offsets. -/
def someRuns : Nat → List (Option Byte) → List (Nat × List Byte)
  | _, [] => []
  | i, none :: r => someRuns (i + 1) r
  | i, some b :: r =>
    match someRuns (i + 1) r with
    | (j, bs) :: rest => if j = i + 1 then (i, b :: bs) :: rest else (i, [b]) :: (j, bs) :: rest
    | [] => [(i, [b])]

/-- The parts of the pieces of a store unit that it writes, with their bytes. -/
def writeParts (out : List (Option Byte)) (ps : List Piece) : List (Piece × List Byte) :=
  ps.flatMap (fun p =>
    (someRuns 0 ((out.drop p.pos).take p.n)).map (fun r =>
      ({ p with loc := p.loc.plus r.1, va := p.va + BitVec.ofNat 64 r.1, n := r.2.length, pos := p.pos + r.1 }, r.2)))

/-- Write parts of a store unit: into a bank that takes one, where the line is held dirty, or to the home (R166), behind other writes. -/
def State.putParts (k n tag : Nat) (behind : List Nat) : List (Piece × List Byte) → List Nat → State → List Nat × State
  | [], ids, s => (ids, s)
  | (p, bs) :: rest, ids, s =>
    match (if behind = [] then s.bankTakes k n p true else (none, s)) with
    | (some b, s1) => State.putParts k n tag behind rest ids ((s1.bankTouch b).bankStore b (p.va.toNat % 128) bs)
    | (none, s1) =>
      let (id, s2) := s1.portAccess k n .write p bs (.portWrite (BitVec.ofNat 4 n) tag) behind
      State.putParts k n tag behind rest (ids ++ [id]) s2

/-- Write the parts of a store unit: those in another package first, so that what their home refuses leaves the rest unwritten (R201). -/
def State.putUnit (s : State) (k n tag : Nat) (parts : List (Piece × List Byte)) : List Nat × State :=
  let (ids, s1) := State.putParts k n tag [] (parts.filter (fun p => p.1.loc.far)) [] s
  State.putParts k n tag ids (parts.filter (fun p => !p.1.loc.far)) ids s1

/-- A write of a port to another package is on its way: it may yet fail, and no later unit is written before its answer (R201). -/
def State.farWrites (s : State) (k n : Nat) : Bool :=
  (s.port k n).writes.any (fun i => match s.findAccess i with | some x => x.loc.far | none => false)

/-! ## Loads (R216, R397 to R401) -/

/-- Lines that the pieces of a unit touch: a response slot each. A unit of more than eight takes all eight (R216; assumption 101, DEDUCED). -/
def linesOf (ps : List Piece) : Nat :=
  min 8 ((ps.flatMap (fun p => (List.range ((p.loc.key + p.n + 127) / 128 - p.loc.key / 128)).map (p.loc.key / 128 + ·))).eraseDups).length

/-- Response slots in use: those of the units on their way, and of the one whose token the fabric has not taken (R216). -/
def Port.slotsUsed (p : Port) : Nat := (p.slots.map SlotSt.lines).sum + (if p.outq = [] then 0 else p.outLines)

/-- Issue a load unit at an address: its slots are taken once every piece is checked; with too few free it stalls (R199, R201, R216, R401). -/
def State.issueUnit (s : State) (k n : Nat) (t : StreamSt) (va : Word) (then_ : State → State) : State :=
  match s.unitCheck k t.spb va .read false 15 with
  | (.fault c v, s1) => s1.portFault k n c (BitVec.ofNat 2 (sbSp t.spb)) 0 t.unit ((s1.port k n).roundAt t.unit) v
  | (.stall, s1) => s1
  | (.ok _ page ps, s1) =>
    if 8 < (s1.port k n).slotsUsed + linesOf ps then s1
    else
      match s1.bankError k n ps false with
      | some (b, p) => (s1.logBank b (p.va.toNat % 128)).portFault k n cEcc 0 0 t.unit ((s1.port k n).roundAt t.unit) p.va
      | none =>
        let (ids, bs, s2) := State.readPieces k n t.unit ps [] (List.replicate ((ps.map Piece.n).sum) 0) s1
        let slot : SlotSt :=
          { unit := t.unit, lines := linesOf ps, va := va, pend := ids, bytes := bs, page := BitVec.ofNat 8 page,
            eor := (unitEor t.spb t.unit).map (BitVec.ofNat 3) }
        let p := s2.port k n
        then_ (s2.setPort k n ({ p with slots := p.slots ++ [slot] }.setStream { t with unit := t.unit + 1 }))

/-- Hand on the oldest load unit once its bytes have come and the fabric has taken the token ahead: the token, then its EOR (R216, R248,
R314). -/
def State.deliverUnit (s : State) (k n : Nat) (t : StreamSt) (u : SlotSt) : State :=
  let p := s.port k n
  let f := sbLanes t.spb
  let page := u.page.toNat
  let (line, valid) := formToken (loadForm (page % 16) (page / 16) f) (page % 16) (page / 16) f u.va.toNat p.mode u.bytes
  let tok := mkData line (BitVec.ofNat 6 p.round) valid (BitVec.ofNat 4 f)
  let p1 := { p with slots := p.slots.drop 1 }.setStream { t with handed := u.unit + 1 }
  let s1 := ((s.setPort k n p1).toOut k n (sbTarget t.spb) tok).firstToken k
  let s2 := match u.eor with
    | some l => s1.emitEor k n (sbTarget t.spb) l.toNat
    | none => s1
  s2.setPort k n { s2.port k n with outLines := u.lines }

/-- A load unit that may be handed on: a source that stands at a checkpoint's cut hands on nothing that it has fetched beyond it (R152, R153). -/
def Port.readyUnit (p : Port) : Option SlotSt :=
  match p.slots with
  | u :: _ => if u.pend = [] ∧ p.outq = [] ∧ !p.atCut then some u else none
  | [] => none

/-- A port block's event: its active stream acts, and the fabric of its core settles behind it. -/
def State.streamEvent (s : State) (sel : StreamSt → Bool) (f : State → Nat → Nat → StreamSt → State) : State :=
  let k := s.input.core.ix
  let n := s.input.port.toNat
  if (s.site k (portSite n)).frames = [] then s
  else
    match (s.port k n).active with
    | some t => if sel t && !s.pastCut k n then (f s k n t).settle k else s
    | none => s

/-- One act of a LIN load. -/
def State.loadStep (s : State) (k n : Nat) (t : StreamSt) : State :=
  let p := s.port k n
  match p.readyUnit with
  | some u => s.deliverUnit k n t u
  | none =>
    if s.generates k n && !p.stopped && decide (t.unit < sbUnits t.spb) then
      s.issueUnit k n t (unitAddr t.spb t.unit) id
    else s

/-- LOAD_UNIT (R397, R399, R401). -/
def execLoadUnit (s : State) : Outcome State Fault Refusal :=
  .next (s.streamEvent (fun t => sbMode t.spb == 0 && !sbStore t.spb) State.loadStep)

/-! ## Index streams (R402, R404) -/

/-- Indices of a token: its valid lanes but for null ones (R402). -/
def Token.indexLanes (t : Token) : List (BitVec 32) :=
  ((List.range 32).filter (fun n => hasGroup t.valid (n / 8) && t.lane n != 0xFFFFFFFF)).map (fun n => BitVec.ofNat 32 (t.lane n))

/-- A stream holds the index input that it names (R404). -/
def State.holdsIndex (s : State) (k : Nat) (t : StreamSt) : Bool :=
  match t.indexPort with
  | some x => (s.port k x).ixq.head? == some t.op
  | none => false

/-- Address of the unit of an index (R402, R403). -/
def indexAddr (b : Spb) (x : BitVec 32) : Word := sbBase b + BitVec.ofNat 64 x.toNat * strideWord (sbStride b 0)

def State.setIdx (s : State) (k x : Nat) (l : List (BitVec 32)) : State :=
  let p := s.port k x
  s.setPort k x { p with idxLanes := l }

/-- A run token less at an input of a port. -/
def State.runDown (s : State) (k n i : Nat) : State :=
  let p := s.port k n
  s.setPort k n { p with runLeft := p.runLeft.modify i (· - 1) }

/-- The copies of an aligned mark leave every input of a port, and the runs behind them are noted by input (R250, R259). -/
def State.popCopies (s : State) (k n : Nat) : State :=
  (s.portJoins k n).foldl
    (fun s d =>
      match s.head k d.1 d.2, sitePort d.1 with
      | some m, some x =>
        let q := s.port k x
        (s.setPort k x { q with runLeft := q.runLeft.modify (d.2 - 48) (· + m.run) }).pop k d.1 d.2
      | _, _ => s) s

/-- Take the head of the index input: a token's lanes; a mark, once the units ahead have gone, on to the output; a state run behind it,
unchanged (R256, R402). An EOR that passes counts as one the port has emitted; a MOD sets the port's mode, and a FEN takes the acquire's bank
action (R179, R256). The port stops behind a QSC or a SWP, which leaves by no binding (R130, R145). A CFG mark stays: the index port takes it
(R243). -/
def State.takeIndex (s : State) (k n x : Nat) (t : StreamSt) : State :=
  match s.head k (portSite x) 51 with
  | none => s
  | some h =>
    let quiet := (s.port k n).slots == [] && (s.port k n).outq == []
    let popped := s.pop k (portSite x) 51
    if 0 < (s.port k x).runLeft.getD 3 0 then
      if quiet then (popped.runDown k x 3).toOut k n (sbTarget t.spb) h else s
    else if !h.isMark then popped.setIdx k x h.indexLanes
    else if h.badMark then s.partFatal k (portSite n) 7 cMarkBad
    else if !quiet || h.kind == kCfg then s
    else
      let q := popped.port k x
      let sp := popped.setPort k x { q with runLeft := q.runLeft.set 3 h.run }
      let s0 :=
        if h.kind = kMod then sp.setPort k n { sp.port k n with mode := BitVec.ofNat 5 h.pl }
        else if h.kind = kFen then sp.acquireBanks k (BitVec.ofNat 3 h.pl)
        else sp
      let s1 := if h.kind = kSwp ∧ 8 ≤ sbTarget t.spb then s0 else s0.toOut k n (sbTarget t.spb) h
      if h.kind = kQsc ∨ (h.kind = kSwp ∧ s.claimed k) then s1.setPort k n { s1.port k n with stopped := true }
      else if h.kind = kEor then (s1.setPort k n ((s1.port k n).bump h.level)).eorAt k n h.level else s1

/-- One act of an IDX stream. -/
def State.idxStep (s : State) (k n : Nat) (t : StreamSt) : State :=
  let p := s.port k n
  match p.readyUnit, t.indexPort with
  | some u, _ => s.deliverUnit k n t u
  | none, none => s
  | none, some x =>
    if !(s.generates k n && s.holdsIndex k t) || sbUnits t.spb ≤ t.unit then s
    else if p.stopped then (if 0 < (s.port k x).runLeft.getD 3 0 then s.takeIndex k n x t else s)
    else
      match (s.port k x).idxLanes with
      | [] => s.takeIndex k n x t
      | i :: rest => s.issueUnit k n t (indexAddr t.spb i) (fun s => s.setIdx k x rest)

/-- IDX_UNIT (R200, R402). -/
def execIdxUnit (s : State) : Outcome State Fault Refusal := .next (s.streamEvent (fun t => sbMode t.spb == 1) State.idxStep)

/-! ## Stores (R400, R403) -/

/-- The token that a store takes next is one of the run that the index input brought: those come behind the data input's (R250, R259). -/
def Port.fromRun (p : Port) (i : Nat) : Bool := p.idxRun != [] && p.runLeft.getD i 0 == 0

/-- The token that a store takes next is one of a state run (R259). -/
def Port.inRun (p : Port) (i : Nat) : Bool := p.fromRun i || decide (0 < p.runLeft.getD i 0)

/-- Take away the token that a store has written. -/
def State.takeStored (s : State) (k n i : Nat) : State :=
  let p := s.port k n
  if p.fromRun i then s.setPort k n { p with idxRun := p.idxRun.drop 1 }
  else
    let s1 := s.pop k (portSite n) (48 + i)
    if p.inRun i then s1.runDown k n i else s1

/-- Write one token as a unit at an address (R259, R400, R401). -/
def State.storeUnitAt (s : State) (k n : Nat) (t : StreamSt) (va : Word) (tok : Token) (then_ : State → State) : State :=
  let i := sbTarget t.spb
  let run := (s.port k n).inRun i
  match s.unitCheck k t.spb va .write run tok.valid with
  | (.fault c v, s1) => s1.portFault k n c (BitVec.ofNat 2 (sbSp t.spb)) 1 t.unit tok.round.toNat v
  | (.stall, s1) => s1
  | (.ok form page ps, s1) =>
    let parts := writeParts (storeBytes form (page % 16) (sbLanes t.spb) (s1.port k n).mode run tok) ps
    match s1.bankError k n (parts.map (·.1)) true with
    | some (b, p) => (s1.logBank b (p.va.toNat % 128)).portFault k n cEcc 0 1 t.unit tok.round.toNat p.va
    | none =>
      let (ids, s2) := s1.putUnit k n (64 * t.unit + tok.round.toNat) parts
      let p := s2.port k n
      let s3 := s2.setPort k n ({ p with writes := p.writes ++ ids }.setStream { t with unit := t.unit + 1, handed := t.unit + 1 })
      then_ (s3.takeStored k n i)

/-- The token that a store stream takes next. -/
def State.storeHead (s : State) (k n : Nat) (t : StreamSt) : Option Token :=
  let p := s.port k n
  if p.reported || p.saving || s.farWrites k n then none
  else if p.fromRun (sbTarget t.spb) then p.idxRun.head?
  else (s.head k (portSite n) (48 + sbTarget t.spb)).filter (fun h => !h.isMark)

/-- An index stream holds the input i3 of a port block: from its first unit until it retires (R404). -/
def State.indexTaken (s : State) (k x : Nat) : Bool :=
  match (s.port k x).ixq with
  | [] => false
  | op :: _ => (s.core k).ports.any (fun p => (p.2.items.filterMap PortItem.stream?).any (fun t => t.op == op && decide (0 < t.unit)))

/-- One act of a LIN store; TARGET 3 waits while an index stream holds i3 (R404). -/
def State.storeStep (s : State) (k n : Nat) (t : StreamSt) : State :=
  if !s.generates k n || decide (sbUnits t.spb ≤ t.unit) || (sbTarget t.spb == 3 && s.indexTaken k n) then s
  else
    match s.storeHead k n t with
    | some h => s.storeUnitAt k n t (unitAddr t.spb t.unit) h id
    | none => s

/-- STORE_UNIT (R259, R397, R400, R401). -/
def execStoreUnit (s : State) : Outcome State Fault Refusal :=
  .next (s.streamEvent (fun t => sbMode t.spb == 0 && sbStore t.spb) State.storeStep)

/-- The data input of a SCAT shows a mark. -/
def State.dataBlocked (s : State) (k n : Nat) (t : StreamSt) : Bool :=
  match s.head k (portSite n) (48 + sbTarget t.spb) with
  | some h => h.isMark
  | none => false

/-- The index token of a SCAT holds lanes that are not used, and a mark heads its data input (R403). -/
def State.lanesLeft (s : State) (k n : Nat) (t : StreamSt) : Bool :=
  match t.indexPort with
  | some x => sbMode t.spb == 2 && s.holdsIndex k t && (s.port k x).idxLanes != [] && (s.port k n).idxRun == [] && s.dataBlocked k n t
  | none => false

/-- One act of a SCAT stream: a unit for the next index, or the next index token. A mark at the data input with indices left is MARK_SKEW. A
state run on the index input is kept, to be written behind the data input's (R250, R259; assumption 37, DEDUCED). TARGET 3 waits while i3 is
held, by this stream too (R404). -/
def State.scatStep (s : State) (k n : Nat) (t : StreamSt) : State :=
  match t.indexPort with
  | none => s
  | some x =>
    if !(s.generates k n && s.holdsIndex k t) || decide (sbUnits t.spb ≤ t.unit) || (sbTarget t.spb == 3 && s.indexTaken k n) then s
    else
      match (s.port k x).idxLanes with
      | i :: rest =>
        if s.lanesLeft k n t then s.partFatal k (portSite n) 7 cMarkSkew
        else
          match s.storeHead k n t with
          | some h => s.storeUnitAt k n t (indexAddr t.spb i) h (fun s => s.setIdx k x rest)
          | none => s
      | [] =>
        match s.head k (portSite x) 51 with
        | none => s
        | some h =>
          if 0 < (s.port k x).runLeft.getD 3 0 then
            let s1 := (s.pop k (portSite x) 51).runDown k x 3
            s1.setPort k n { s1.port k n with idxRun := (s1.port k n).idxRun ++ [h] }
          else if h.isMark then s
          else if s.dataBlocked k n t && h.indexLanes != [] then s
          else (s.pop k (portSite x) 51).setIdx k x h.indexLanes

/-- SCAT_UNIT (R403). -/
def execScatUnit (s : State) : Outcome State Fault Refusal := .next (s.streamEvent (fun t => sbMode t.spb == 2) State.scatStep)

/-! ## Starting and retiring (R180, R236, R336, R338, R344, R404, R407) -/

/-- The BAR that gates a stream has been satisfied, if there is one. -/
def State.gateOpen (s : State) (k : Nat) (t : StreamSt) : Bool :=
  match t.gate with
  | none => true
  | some op => !(s.ctlAt k).bars.any (fun b => b.op == op)

/-- Where a load stream's EOR of an empty stream goes. -/
def loadTarget (b : Spb) : Nat := if sbMode b = 3 then sbTarget b % 4 else sbTarget b

/-- A stream starts: its acquire performs before its first access, a window may open, an index stream joins the takers of i3; an empty load
emits the EOR that END7 asks for (R180, R314, R344, R404). The first stream of a restored source starts at its recorded unit (R163). -/
def State.startStream (s : State) (k n : Nat) (t : StreamSt) : State :=
  let s1 := if sbAcq t.spb then s.acquireBanks k (sbScope t.spb) else s
  let p := s1.port k n
  let p1 := { p with
    isStore := sbStore t.spb, startedNo := t.num + 1
    winEor := if t.num + 1 = p.issued then none else p.winEor }
  let u := if t.num = 0 then p.startAt else t.unit
  let s2 := s1.setPort k n (p1.setStream { t with started := true, unit := u, handed := u })
  let s3 := match t.indexPort with
    | none => s2
    | some x =>
      let q := s2.port k x
      s2.setPort k x { q with ixq := q.ixq ++ [t.op] }
  if sbUnits t.spb = 0 ∧ sbEnd7 t.spb ∧ !sbStore t.spb then s3.emitEor k n (loadTarget t.spb) 7 else s3

/-- A core is in an exchange or its task is being pre-empted: no load starts there, since no mark would stand behind it (R130, R145). -/
def State.quietens (s : State) (k : Nat) : Bool := s.claimed k || (match (s.core k).occ with | some o => o.quiescing | none => false)

/-- STREAM_START: the entry at the head of a port's queue starts once its gate is open and the core's earlier accesses are answered. -/
def execStreamStart (s : State) : Outcome State Fault Refusal :=
  let k := s.input.core.ix
  let n := s.input.port.toNat
  let p := s.port k n
  .next (match p.items with
    | .stream t :: _ =>
      let held := s.quietens k && !sbStore t.spb
      if t.started || p.stopped || held || !s.generates k n || !s.gateOpen k t || s.waitsFor t.before then s
      else (s.startStream k n t).settle k
    | _ => s)

/-- Every unit of a stream is done (R336, R407). -/
def State.streamDone (s : State) (k n : Nat) (t : StreamSt) : Bool :=
  let p := s.port k n
  decide (sbUnits t.spb ≤ t.unit) && !s.portStopped k n && p.slots == [] && p.outq == [] && p.writes == [] &&
  (!sbRel t.spb || s.openIds (portAgent k n) == [])

/-- An entry of a port's order that an instruction has placed, and that has not left (R343). -/
def PortItem.recorded (x : PortItem) : Bool :=
  match x with
  | .mark m _ sent => !sent && !m.injected
  | .stream _ => true

/-- The operation of an entry. -/
def PortItem.op (x : PortItem) : Nat :=
  match x with
  | .mark _ op _ => op
  | .stream t => t.op

/-- A source that a STOP has ended: its EOR has been accepted, and what its order holds issues nothing more (R109). -/
def State.cutOff (s : State) (k n : Nat) : Bool :=
  let p := s.port k n
  p.stopped && p.slots == [] && p.outq == [] && p.items.all PortItem.recorded &&
  (match (s.core k).occ, s.taskOf k with
   | some o, some t => t.stopping && !o.quiescing && !s.claimed k
   | _, _ => false)

/-- An operation leaves a port's order and the index input that it holds, and retires. -/
def State.retireItem (s : State) (k n : Nat) (x : PortItem) : State :=
  let p := s.port k n
  let s1 := s.setPort k n { p with items := p.items.filter (fun y => y.op != x.op) }
  let s2 := match x.stream?.bind StreamSt.indexPort with
    | none => s1
    | some i =>
      let q := s1.port k i
      s1.setPort k i { q with ixq := q.ixq.filter (· != x.op) }
  (s2.partDone k x.op).settle k

/-- STREAM_RETIRE: the release performs, the entry frees and the operation retires. A stream that a STOP has ended retires as it stands, and so does
a MARK behind it (R109; assumption 124, DEDUCED). -/
def execStreamRetire (s : State) : Outcome State Fault Refusal :=
  let k := s.input.core.ix
  let n := s.input.port.toNat
  .next (
    if s.cutOff k n then
      (match (s.port k n).items with
       | x :: _ => s.retireItem k n x
       | [] => s)
    else
      match (s.port k n).active with
      | none => s
      | some t =>
        if !s.streamDone k n t then s
        else (if sbRel t.spb then s.releaseBanks k (sbScope t.spb) else s).retireItem k n (.stream t))

end Sys2Proof.Machine
end

