-- ==== Sys2Proof/Machine/Ethernet.lean ====
section
/-! DEFINITION. Ethernet ports (R53 to R62) and the PKT streams that pop landing rings and send frames (R405 to R407). -/

namespace Sys2Proof.Machine

open Host (Outcome)

/-- Add one to a counter of R62: RXFRAMES, FCSERR, OVERSIZE, UNMATCHED, PTPRX, PAUSERX, TXFRAMES, TXERR. -/
def State.ethCount (s : State) (n c : Nat) : State :=
  let e := s.eth n
  s.setEth n { e with counters := e.counters.modify c (· + 1) }

/-! ## Frames -/

/-- A big-endian field of a frame. -/
def wire (bs : List Byte) (i n : Nat) : Nat := beNat ((bs.drop i).take n)

/-- Where the EtherType stands after up to two IEEE 802.1Q tags (R53). -/
def tagTypes : List Nat := [0x8100, 0x88A8]
def typeAt (f : List Byte) : Nat :=
  if tagTypes.contains (wire f 12 2) then (if tagTypes.contains (wire f 16 2) then 20 else 16) else 12

/-- Headers of a frame: EtherType, the start of the IP header with its version, protocol and addresses, and the start of the UDP header. -/
structure FrameHead where
  tagged : Bool
  vlan : Nat
  etype : Nat
  ip : Option (Nat × Bool)
  proto : Nat
  sip : List Byte
  dip : List Byte
  udp : Option Nat
  deriving DecidableEq, Repr

/-- Read the headers of a frame without its FCS. A fragment but the first has no UDP header. -/
def frameHead (f : List Byte) : FrameHead :=
  let t := typeAt f
  let et := wire f t 2
  let i := t + 2
  let v4 := et == 0x0800 && decide (i + 20 ≤ f.length) && wire f i 1 / 16 == 4
  let v6 := et == 0x86DD && decide (i + 40 ≤ f.length) && wire f i 1 / 16 == 6
  let proto := if v4 then wire f (i + 9) 1 else if v6 then wire f (i + 6) 1 else 0
  let u := if v4 then i + 4 * (wire f i 1 % 16) else i + 40
  let whole := if v4 then wire f (i + 6) 2 % 8192 == 0 else v6
  { tagged := t != 12, vlan := wire f 14 2 % 4096, etype := et, ip := if v4 then some (i, false) else if v6 then some (i, true) else none
    proto := proto
    sip := if v4 then (f.drop (i + 12)).take 4 else if v6 then (f.drop (i + 8)).take 16 else []
    dip := if v4 then (f.drop (i + 16)).take 4 else if v6 then (f.drop (i + 24)).take 16 else []
    udp := if (v4 || v6) && whole && proto == 17 && decide (u + 8 ≤ f.length) then some u else none }

/-- Leading bits of two addresses agree (R56). -/
def prefixEq (a b : List Byte) (n : Nat) : Bool :=
  let w := 8 * a.length
  let m := min n w
  a != [] && beNat a / 2 ^ (w - m) == beNat (b.take a.length) / 2 ^ (w - m)

/-- A frame matches a flow table entry: it is VALID and every enabled field agrees (R55, R56). -/
def flowMatches (e f : List Byte) : Bool :=
  let h := frameHead f
  let on : Nat → Bool := fun b => (byteAt e 1).getLsbD b
  (byteAt e 0).getLsbD 0 &&
  (!on 0 || (e.drop 0x08).take 6 == f.take 6) &&
  (!on 1 || (h.tagged && h.vlan == wire e 0x04 2 % 4096)) &&
  (!on 2 || h.etype == wire e 0x06 2) &&
  (!on 3 || (h.ip.isSome && h.proto == wire e 0x0E 1)) &&
  (!on 4 || (h.ip.isSome && prefixEq h.sip ((e.drop 0x10).take 16) (byteAt e 2).toNat)) &&
  (!on 5 || (h.ip.isSome && prefixEq h.dip ((e.drop 0x20).take 16) (byteAt e 3).toNat)) &&
  (!on 6 || (match h.udp with | some u => wire f u 2 == wire e 0x30 2 | none => false)) &&
  (!on 7 || (match h.udp with | some u => wire f (u + 2) 2 == wire e 0x32 2 | none => false))

/-- The bytes that FL_CTL.DELIV selects: none where the frame lacks the header. -/
def delivered (e f : List Byte) : List Byte :=
  let h := frameHead f
  match bits (byteAt e 0) 3 2 with
  | 0 => f
  | 1 => match h.ip with | some (i, _) => f.drop i | none => []
  | 2 => match h.udp with | some u => f.drop u | none => []
  | _ => match h.udp with | some u => (f.drop (u + 8)).take (wire f (u + 4) 2 - 8) | none => []

/-- A PTP message over Ethernet or UDP (R54). -/
def isPtp (f : List Byte) : Bool :=
  let h := frameHead f
  h.etype == 0x88F7 || (match h.udp with | some u => wire f (u + 2) 2 == 319 || wire f (u + 2) 2 == 320 | none => false)

/-- A PAUSE or PFC frame. -/
def isPause (f : List Byte) : Bool :=
  let t := typeAt f
  wire f t 2 == 0x8808 && (wire f (t + 2) 2 == 0x0001 || wire f (t + 2) 2 == 0x0101)

/-! ## Landing (R57 to R60) -/

/-- The tokens of a landed packet (R57). -/
def landTokens (port entry k : Nat) (time : BitVec 96) (f del : List Byte) : List Token :=
  let h := frameHead f
  let r := BitVec.ofNat 6 k
  let flags := (if h.tagged then 1 else 0) + (match h.ip with | some (_, true) => 2 | _ => 0)
  let head := leBytes 12 time.toNat ++ leBytes 2 del.length ++ leBytes 2 entry ++ [BitVec.ofNat 8 port, BitVec.ofNat 8 flags] ++
    leBytes 2 f.length
  let parts := (List.range ((del.length + 127) / 128)).map (fun j => (del.drop (128 * j)).take 128)
  [mkData (lineOf head) r 1 1] ++
  parts.map (fun b => mkData (lineOf b) r (BitVec.ofNat 4 (2 ^ ((b.length + 31) / 32) - 1)) 1) ++
  [mkMark kEor 0 k (markOrigin (entryCore port) 19) 0]

/-- Slots of a ring that are filled. -/
def LandRing.filled (r : LandRing) : Nat := (r.packets.map List.length).sum

/-- Write a packet whole into a vault's ring (R58). -/
def State.landRingPut (s : State) (v r : Nat) (g : LandRing) (ts : List Token) : State :=
  let s1 := (ts.mapIdx (fun j t => (j, t))).foldl
    (fun s p =>
      let key := Loc.key (.vault v (g.base + 128 * ((g.tail + p.1) % g.slots)))
      (s.store key (lineBytes p.2.payload)).clearPoison key 128) s
  let g' := { g with packets := g.packets ++ [ts], tail := (g.tail + ts.length) % g.slots }
  { s1 with links := { s1.links with rings := tabPut s1.links.rings (8 * v + r) g' } }

/-- A direct target: its core and class in one number. -/
def directKey (e : List Byte) : Nat := 16 * (16 * ((byteAt e 0x34).toNat % 8) + (byteAt e 0x35).toNat % 16) + (byteAt e 0x35).toNat / 16

/-- Room for a packet at its target, and the state with it there. -/
def State.land (s : State) (n : Nat) (e : List Byte) (ts : List Token) : Option State :=
  if (byteAt e 0).getLsbD 1 then
    let p := s.eth n
    if p.buffer.length + ts.length ≤ 2048 then
      some (s.setEth n { p with buffer := p.buffer ++ ts.map (fun t => (directKey e, t)) })
    else none
  else
    let u := (byteAt e 0x35).toNat
    let v := 16 * ((byteAt e 0x34).toNat % 8) + u % 16
    match s.landRing v (u / 16 % 8) with
    | none => none
    | some g => if g.filled + ts.length ≤ g.slots then some (s.landRingPut v (u / 16 % 8) g ts) else none

/-- A byte of an entry's configuration as the entry holds it: what is reserved stays zero (R55). -/
def flowByte (i : Nat) (b : Byte) : Byte :=
  if i = 0 ∨ i = 4 then b &&& 0x0F#8 else if i = 0xF ∨ i = 0x36 ∨ i = 0x37 then 0 else b

/-- An entry whose configuration die firmware writes: its counters stay as they are, and a vault ring's FL_UNIT has no bit [7] (R55). -/
def flowConfig (old : List Byte) (new : Nat → Option Byte) : List Byte :=
  let bs := (old ++ List.replicate (128 - old.length) 0).mapIdx
    (fun i b => if 0x38 ≤ i then b else match new i with | none => b | some v => flowByte i v)
  if (byteAt bs 0).getLsbD 1 then bs else bs.modify 0x35 (· &&& 0x7F#8)

/-- Add to a counter of a flow table entry. -/
def flowAdd (e : List Byte) (off x : Nat) : List Byte := e.take off ++ leBytes 8 (fieldAt e off 8 + x) ++ e.drop (off + 8)

/-- A frame that matches entry `i` lands whole or is dropped whole (R57 to R60). -/
def State.landFrame (s : State) (n i : Nat) (e f : List Byte) : State :=
  let p := s.eth n
  let k := tabGet 0 p.landed i
  let del := delivered e f
  match s.land n e (landTokens n i k (s.timeOf (n / 4)) f del) with
  | some s1 =>
    let q := s1.eth n
    s1.setEth n { q with
      landed := tabPut q.landed i (k + 1)
      flows := tabPut q.flows i (flowAdd (flowAdd e 0x38 1) 0x48 del.length) }
  | none => s.setEth n { p with flows := tabPut p.flows i (flowAdd e 0x40 1) }

/-- A received frame with its FCS. -/
def State.rxFrame (s : State) (n : Nat) (frame : List Byte) : State :=
  let f := frame.take (frame.length - 4)
  let good := fieldAt frame (frame.length - 4) 4 == (crc32 f).toNat
  let s1 := if good then s.ethCount n 0 else s
  if !good || decide (frame.length < 64) then s1.ethCount n 1
  else if 9216 < frame.length then s1.ethCount n 2
  else if isPause f then s1.ethCount n 5
  else if isPtp f then
    let s2 := s1.ethCount n 4
    let p := s2.eth n
    s2.setEth n { p with ptp := p.ptp ++ [f] }
  else
    match (s1.eth n).flows.find? (fun e => flowMatches e.2 f) with
    | none => s1.ethCount n 3
    | some (i, e) => s1.landFrame n i e f

/-- ETH_FRAME_RX: the frame in the input's bytes arrives at the Ethernet port that the input names (R53 to R60). -/
def execEthFrameRx (s : State) : Outcome State Fault Refusal :=
  let n := s.input.port.toNat
  .next (if s.boot.test.ethLive n then s.elapse.rxFrame n s.input.bytes else s)

/-- The port block of a core that takes a class: the lowest whose handler entry is valid. -/
def State.classPort (s : State) (k c : Nat) : Nat := ((List.range 16).find? (fun n => s.handler k n c % 2 == 1)).getD 0

/-- DIRECT_LANDING_SEND: the oldest token of a direct target, whose core and class the input's number gives, leaves the landing buffer once
it has a credit (R59, R217). -/
def execDirectLandingSend (s : State) : Outcome State Fault Refusal :=
  let n := s.input.port.toNat
  let key := s.input.num
  let p := s.eth n
  .next (match p.buffer.find? (fun b => b.1 == key), tabGet 0 p.credits key with
    | some (_, t), c + 1 =>
      let i := p.buffer.findIdx (fun b => b.1 == key)
      let s1 := s.setEth n { p with buffer := p.buffer.eraseIdx i, credits := tabPut p.credits key c }
      s1.sendPacket (strPacket (stackNode n) 15 (coreNode (key / 16)) (s.classPort (key / 16) (key % 16)) (key % 16) t)
    | _, _ => s)

/-! ## PKT streams (R405 to R407) -/

/-- The vault and ring that a landing stream names. -/
def pktRing (b : Spb) : Nat × Nat := (16 * bits b 35 33 + bits b 32 29, sbTarget b / 4)

/-- Port blocks with a landing stream that waits at a ring, as 16 × core + port, ascending. -/
def State.ringTakers (s : State) (ring : Nat × Nat) : List Nat :=
  s.cores.flatMap (fun c =>
    (c.2.ports.filter (fun p =>
      match p.2.active with
      | some t => sbMode t.spb == 3 && !sbStore t.spb && pktRing t.spb == ring && decide (t.unit < sbUnits t.spb) && p.2.outq == [] &&
          !p.2.stopped && s.generates c.1 p.1
      | none => false)).map (fun p => 16 * c.1 + p.1))

/-- The taker that a ring serves next, round-robin behind the one served last (R405). -/
def nextTaker (served : Nat) (ts : List Nat) : Option Nat :=
  match ts.find? (fun t => decide (served < t)) with
  | some t => some t
  | none => ts.head?

/-- Tokens of a popped packet as the port stamps them: its own ROUND, the closing EOR's level raised by the block (R405). -/
def popTokens (p : Port) (level : Nat) (ts : List Token) : List Token :=
  ts.map (fun t =>
    if t.isMark then mkMark kEor level (p.eors.getD level 0) t.origin 0 else t.withRound (BitVec.ofNat 6 p.round))

/-- Payloads of a packet's tokens as the vault holds them now (R58). -/
def State.ringTokens (s : State) (v : Nat) (g : LandRing) (ts : List Token) : List Token :=
  let first := (g.tail + g.slots * 2 - g.filled) % g.slots
  ts.mapIdx (fun j t =>
    if t.isMark then t
    else { t with payload := lineOf (s.bytes (Loc.key (.vault v (g.base + 128 * ((first + j) % g.slots)))) 128) })

/-- One pop of a landing stream: a packet whole. -/
def State.popStep (s : State) (k n : Nat) (t : StreamSt) : State :=
  let (v, r) := pktRing t.spb
  match s.landRing v r with
  | none => s
  | some g =>
    if nextTaker g.served (s.ringTakers (v, r)) ≠ some (16 * k + n) then s
    else
      match g.packets with
      | [] => s
      | ts :: rest =>
        let p := s.port k n
        let level := (unitEor t.spb t.unit).getD 0
        let toks := popTokens p level (s.ringTokens v g ts)
        let target := loadTarget t.spb
        let p1 := { p with outq := toks.map (fun x => (target, x)) }.setStream { t with unit := t.unit + 1, handed := t.unit + 1 }
        let s1 := s.setPort k n (p1.bump level)
        let s2 := { s1 with links := { s1.links with rings := tabPut s1.links.rings (8 * v + r) { g with packets := rest, served := 16 * k + n } } }
        (s2.firstToken k).eorAt k n level

/-- LANDING_POP (R405). -/
def execLandingPop (s : State) : Outcome State Fault Refusal :=
  .next (s.streamEvent (fun t => sbMode t.spb == 3 && !sbStore t.spb) State.popStep)

/-- The frame that tokens form: its bytes, padded to 60 and closed by the FCS, and whether it may be sent (R61). The correction field of a
one-step message takes a value that the spec does not give: it is free (assumption 7, DESIGN CHOICE). -/
def txFrame (hub : Bool) (draw : Nat) (ts : List Token) : Option (List Byte) :=
  match ts with
  | [] => none
  | h :: data =>
    let hb := lineBytes h.line
    let len := fieldAt hb 0 2
    let off := fieldAt hb 4 2
    let raw := ((data.map (fun t => lineBytes t.line)).flatten).take len
    let body := if hub && (byteAt hb 2).getLsbD 1 then raw.take off ++ freeBytes draw 8 ++ raw.drop (off + 8) else raw
    let f := body.take len
    if len < 14 ∨ 9212 < len ∨ data.length ≠ (len + 127) / 128 then none
    else
      let g := f ++ List.replicate (60 - f.length) 0
      some (g ++ leBytes 4 (crc32 g).toNat)

/-- Send the frame a port block has gathered, or discard it (R61). -/
def State.sendFrame (s : State) (k e : Nat) (ts : List Token) : State :=
  match txFrame (isHub k) s.draws ts with
  | none => s.ethCount e 7
  | some f =>
    let s1 := s.ethCount e 6
    let p := s1.eth e
    let two := isHub k && (match ts with | h :: _ => (byteAt (lineBytes h.line) 2).getLsbD 0 | [] => false)
    { s1.setEth e { p with
        sent := p.sent ++ [f]
        ptp := if two then p.ptp ++ [leBytes 12 (s.timeOf (e / 4)).toNat] else p.ptp } with draws := s1.draws + 8 }

/-- Send a token of a state run as a frame of its own: its 128 bytes, closed by the FCS (R259; assumption 37, DEDUCED). -/
def State.sendRunFrame (s : State) (e : Nat) (tok : Token) : State :=
  let s1 := s.ethCount e 6
  let p := s1.eth e
  let b := lineBytes tok.line
  s1.setEth e { p with sent := p.sent ++ [b ++ leBytes 4 (crc32 b).toNat] }

/-- The EOR that every input of an egress port shows ends its frame, is applied once and may make the port report; every copy goes (R61, R250,
R256, R260, R406). An EOR without a token ahead ends no frame. -/
def State.endFrame (s : State) (k n : Nat) (t : StreamSt) (h : Token) : State :=
  let p := s.port k n
  let unit := if p.frame = [] then t.unit else t.unit + 1
  let sink := s.portSink k n
  let p1 := { p with
    frame := [], reported := sink && s.reportsOn k h
    sunk := if sink then s.sunkAfter k h p.sunk else p.sunk }.setStream { t with unit := unit, handed := unit }
  let s1 := (s.setPort k n p1).popCopies k n
  let s2 := if p.frame = [] then s1 else s1.elapse.sendFrame k (sbTarget t.spb) p.frame
  s2.eorAt k n h.level

/-- One token of an egress stream: a frame gathers data tokens up to the EOR, and each token of a state run is a unit (R61, R259, R406). -/
def State.txStep (s : State) (k n : Nat) (t : StreamSt) : State :=
  let p := s.port k n
  match s.head k (portSite n) 48 with
  | none => s
  | some h =>
    if !s.generates k n || p.reported || p.saving || decide (sbUnits t.spb ≤ t.unit) then s
    else if !h.isMark then
      if 0 < p.runLeft.getD 0 0 then
        let s1 := s.setPort k n (p.setStream { t with unit := t.unit + 1, handed := t.unit + 1 })
        ((s1.pop k (portSite n) 48).runDown k n 0).sendRunFrame (sbTarget t.spb) h
      else (s.setPort k n { p with frame := p.frame ++ [h] }).pop k (portSite n) 48
    else
      match alignHeads ((s.portJoins k n).map (fun d => s.head k d.1 d.2)) with
      | .wait => s
      | .skew => s.partFatal k (portSite n) 7 cMarkSkew
      | .bad => s.partFatal k (portSite n) 7 cMarkBad
      | .mark m => if m.kind = kEor then s.endFrame k n t m else s

/-- ETH_FRAME_TX (R61, R406). -/
def execEthFrameTx (s : State) : Outcome State Fault Refusal :=
  .next (s.streamEvent (fun t => sbMode t.spb == 3 && sbStore t.spb) State.txStep)

end Sys2Proof.Machine
end

