-- ==== Sys2Proof/Machine/MarkEvents.lean ====
section
/-! DEFINITION. Marks at port blocks (R255, R256, R259, R260), one event for each kind of mark, and the align timer's end (R251, R252). -/

namespace Sys2Proof.Machine

open Host (Outcome)

/-! ## At a port block -/

/-- What a mark waits for at a port that stores: a FEN for the port's writes (R179). -/
def State.portWaits (s : State) (k n : Nat) (t : Token) : Bool :=
  t.kind == kFen && ((s.port k n).writes != [] || (decide (1 < t.pl) && s.openIds (portAgent k n) != []))

/-- Apply a mark at a port whose direction is store, or that its inputs bring (R256, R260). -/
def State.portApply (s : State) (k n : Nat) (t : Token) : State :=
  let p := s.port k n
  if t.kind = kEor then
    let s1 :=
      if s.portSink k n then s.setPort k n { p with reported := p.reported || s.reportsOn k t, sunk := s.sunkAfter k t p.sunk } else s
    s1.eorAt k n t.level
  else if t.kind = kMod then s.setPort k n { p with mode := BitVec.ofNat 5 t.pl }
  else if t.kind = kFen then s.releaseBanks k (BitVec.ofNat 3 t.pl)
  else if t.kind = kQsc then s.setPort k n { p with saving := true }
  else if t.kind = kCfg then s.takeCfg k (portSite n) t ((s.portIns k n).map (48 + ·))
  else if t.kind = kBrk then
    let unit := match p.active with | some a => a.unit | none => 0
    s.portFault k n cBkpt 0 1 unit (p.roundAt unit) 0
  else s

/-- The direction of a port's stream position: that of the stream that started last (R255). -/
def Port.sourceNow (p : Port) : Bool := !p.isStore

/-- Emit a mark at a source port, on every connected output and valid binding (R255): a TSC with its time token behind it (R258), a FEN once
the loads ahead have performed, with its acquire (R179), a MOD with its effect on the port, a QSC that stops the source (R256). A SWP stays in the
cell (R145). -/
def State.sourceMark (s : State) (k n : Nat) (t : Token) : State :=
  let p := s.port k n
  let m := if t.kind = kEor then mkMark kEor t.level (p.eors.getD t.level 0) t.origin t.pl else t
  let s1 :=
    if t.kind = kMod then s.setPort k n { p with mode := BitVec.ofNat 5 t.pl }
    else if t.kind = kFen then s.acquireBanks k (BitVec.ofNat 3 t.pl)
    else if t.kind = kEor then s.setPort k n (p.bump t.level)
    else if t.kind = kTsc then s.elapse
    else if t.kind = kQsc then s.setPort k n { p with stopped := true }
    else s
  let behind := if t.kind = kTsc then [timeToken (s1.timeOf (reticleOf k)) (BitVec.ofNat 6 p.round)] else []
  let outs := (s1.outlets k n).filter (fun o => t.kind != kSwp || decide (o < 8))
  let s2 := outs.foldl (fun s o => (m :: behind).foldl (fun s x => s.toOut k n o x) s) s1
  if t.kind = kEor then s2.eorAt k n t.level else s2

/-- A port's entry at the head of its order is a mark that has left, and goes. -/
def State.markLeft (s : State) (k n : Nat) : State :=
  let p := s.port k n
  match p.items with
  | .mark _ op true :: rest => if p.outq = [] then (s.setPort k n { p with items := rest }).partDone k op else s
  | _ => s

/-- The mark at the head of a port's order takes effect: at a store port it is applied, at a source port it is emitted behind every unit
ahead of it (R255, R343). -/
def State.itemMark (s : State) (k n : Nat) (t : Token) (op : Nat) (rest : List PortItem) : State :=
  let p := s.port k n
  if p.sourceNow then
    if (p.slots = [] ∨ (t.kind = kSwp ∧ s.slotsDeferred p)) ∧ p.outq = [] then
      let s1 := s.setPort k n { p with items := .mark t op true :: rest }
      (s1.sourceMark k n t).markLeft k n
    else s
  else if s.portWaits k n t then s
  else ((s.setPort k n { p with items := rest }).portApply k n t).partDone k op

/-- A mark at every aligned input of a port is applied once (R250). -/
def State.arrivedMark (s : State) (k n : Nat) (t : Token) : State :=
  if s.portWaits k n t then s
  else
    let s1 := s.popCopies k n
    (s1.portApply k n t).setPort k n { (s1.portApply k n t).port k n with blocked := none }

/-- A token of a state run behind a QSC goes to the port's save: those of its inputs in order, then those of a SCAT's index input (R130, R250,
R259). -/
def State.saveRun (s : State) (k n : Nat) : State :=
  let p := s.port k n
  if p.runLeft.all (· == 0) then s.setPort k n { p with saved := p.saved ++ p.idxRun, idxRun := [] }
  else
  match (List.range 4).find? (fun i => decide (0 < (s.port k n).runLeft.getD i 0) && (s.head k (portSite n) (48 + i)).isSome) with
  | none => s
  | some i =>
    match s.head k (portSite n) (48 + i) with
    | none => s
    | some t =>
      let s1 := (s.pop k (portSite n) (48 + i)).runDown k n i
      let p := s1.port k n
      s1.setPort k n { p with saved := p.saved ++ [t] }

/-- A mark that stands at the head of a port's order may leave now: a core in an exchange sends only SWP (R145), a source that a QSC, a SWP or a STOP
has stopped sends injected marks alone (R109, R130), and one at a checkpoint's cut only those that stop it too (R152). -/
def State.marksGo (s : State) (k n : Nat) (t : Token) : Bool :=
  let p := s.port k n
  s.released k && (!s.claimed k || t.kind == kSwp) && (!p.stopped || t.injected) && (!p.atCut || t.kind == kQsc || t.kind == kSwp)

/-- A port's entry is an unsent mark of a kind that may take effect now. -/
def State.dueItem (s : State) (k n kind : Nat) : Option (Token × Nat × List PortItem) :=
  match (s.port k n).items with
  | .mark t op false :: rest => if t.kind = kind ∧ s.marksGo k n t then some (t, op, rest) else none
  | _ => none

/-- A run that an input of a port still owes to a stream's units, or to the save. -/
def Port.owed (p : Port) : Bool := p.runLeft.any (fun c => c != 0) || p.idxRun != []

/-- A QSC or SWP at an index input that no stream holds ends there; a malformed one raises MARK_BAD (R130, R145, R245). -/
def State.indexMark (s : State) (kind k n : Nat) : Option State :=
  if !s.indexed k n || (s.port k n).ixq != [] || !(kind == kQsc || kind == kSwp) then none
  else
    match s.head k (portSite n) 51 with
    | some t =>
      if t.isMark && t.kind == kind && t.badMark then some (s.partFatal k (portSite n) 7 cMarkBad)
      else if t.isMark && t.kind == kind then
        let p := s.port k n
        some ((s.setPort k n { p with runLeft := p.runLeft.modify 3 (· + t.run), saving := p.saving || kind == kQsc }).pop k (portSite n) 51)
      else none
    | none => none

/-- A port block sends frames: the EOR at its input ends one, as an event of its own (R61, R256). -/
def Port.egress (p : Port) : Bool := match p.active with | some t => sbMode t.spb == 3 && sbStore t.spb | none => false

/-- One event of a mark of a kind at a port block: its own entry, a run being saved, or the mark its inputs bring. -/
def State.portMark (s : State) (kind k n : Nat) : State :=
  let p := s.port k n
  if (s.site k (portSite n)).frames = [] ∨ s.portStopped k n then s
  else
    match s.dueItem k n kind with
    | some (t, op, rest) => s.itemMark k n t op rest
    | none =>
      if kind = kQsc ∧ p.saving ∧ p.owed then s.saveRun k n
      else
        let s1 := s.markLeft k n
        if p.reported || p.owed then s1
        else if (match p.active with | some t => s.lanesLeft k n t | none => false) then s1.partFatal k (portSite n) 7 cMarkSkew
        else if let some s2 := s1.indexMark kind k n then s2
        else
          match alignHeads ((s1.portJoins k n).map (fun d => s1.head k d.1 d.2)) with
          | .wait => s1
          | .skew => s1.partFatal k (portSite n) 7 cMarkSkew
          | .bad => s1.partFatal k (portSite n) 7 cMarkBad
          | .mark t => if t.kind = kind && kind != kCfg && !(kind == kEor && (s1.port k n).egress) then s1.arrivedMark k n t else s1

/-! ## Events -/

/-- A mark of a kind at the part that the input's node names: a tile node, an operator, an M tile (slots 0 to 6) or a port block (7). -/
def State.markEvent (s : State) (kind : Nat) : State :=
  let k := s.input.node.c.ix
  let i := s.input.node.site.toNat
  let slot := s.input.node.slot.toNat
  match slot, sitePort i with
  | 7, some n => (s.portMark kind k n).settle k
  | 7, none => s
  | _, _ => (s.markStep kind k i slot).settle k

/-- CFG_MARK: a port block's own entry, or the CFG mark that heads every input of the site that the input's node names (R126, R243, R255). -/
def execCfgMark (s : State) : Outcome State Fault Refusal :=
  let k := s.input.node.c.ix
  let i := s.input.node.site.toNat
  let s1 := match sitePort i with | some n => if (s.site k i).via.isSome then s else s.portMark kCfg k n | none => s
  .next ((s1.cfgStep k i).settle k)

/-- EOR_MARK (R248, R256, R260). -/
def execEorMark (s : State) : Outcome State Fault Refusal := .next (s.markEvent kEor)

/-- WSW_MARK (R254, R256, R393). -/
def execWswMark (s : State) : Outcome State Fault Refusal := .next (s.markEvent kWsw)

/-- MOD_MARK (R256, R283). -/
def execModMark (s : State) : Outcome State Fault Refusal := .next (s.markEvent kMod)

/-- FLS_MARK (R256). -/
def execFlsMark (s : State) : Outcome State Fault Refusal := .next (s.markEvent kFls)

/-- SAV_MARK (R256, R257, R259). -/
def execSavMark (s : State) : Outcome State Fault Refusal := .next (s.markEvent kSav)

/-- SWP_MARK (R144, R145). -/
def execSwpMark (s : State) : Outcome State Fault Refusal := .next (s.markEvent kSwp)

/-- TSC_MARK (R256, R258). -/
def execTscMark (s : State) : Outcome State Fault Refusal := .next (s.markEvent kTsc)

/-- FEN_MARK (R179, R256). -/
def execFenMark (s : State) : Outcome State Fault Refusal := .next (s.markEvent kFen)

/-- QSC_MARK (R130, R256). -/
def execQscMark (s : State) : Outcome State Fault Refusal := .next (s.markEvent kQsc)

/-- BRK_MARK (R256). -/
def execBrkMark (s : State) : Outcome State Fault Refusal := .next (s.markEvent kBrk)

/-! ## RST (R133, R259) -/

/-- Units of a list of tokens that name a part of a core: its slot with its state tokens. A header names cell, site, slot, kind and count
(R257). -/
def unitsOf : Nat → List Token → List (Nat × List Token)
  | 0, _ => []
  | _, [] => []
  | fuel + 1, h :: ts =>
    let n := bits h.payload 63 32
    (bits h.payload 23 16, ts.take n) :: unitsOf fuel (ts.drop n)

/-- Restore a tile node: its register unit, or a unit of 384 tokens into the matrix unit (R366, R393). -/
def Site.restoreNode (x : Site) (j : Nat) (ts : List Token) : Site :=
  let t := x.ct
  if ts.length = 384 then
    let ev := (List.range 64).foldl (fun a r => putLine a r ((ts.getD (2 * r) default).payload)) []
    let od := (List.range 64).foldl (fun a r => putLine a r ((ts.getD (2 * r + 1) default).payload)) []
    let q := (List.range 64).foldl (fun q r => if (ts.getD (2 * r) default).round = 1 then q + 2 ^ r else q) 0
    let act := (List.range 128).foldl (fun a n => putLine a n ((ts.getD (128 + n) default).payload)) []
    let stb := (List.range 128).foldl (fun a n => putLine a n ((ts.getD (256 + n) default).payload)) []
    { x with ct := { t with mx := ⟨ev, od, BitVec.ofNat 64 q, act, stb⟩ } }
  else if !x.nodeRlen j then { x with ct := { t with mode := BitVec.ofNat 5 ((ts.getD 0 default).lane 0) } }
  else
    let last := ts.getLast?.getD default
    let regs := (x.share j).zip ts
    let v := regs.foldl (fun v p => v.set p.1 (p.2.payload, p.2.valid, p.2.fmt)) t.v
    let nd := { t.node j with fcnt := BitVec.ofNat 32 (last.lane 1), lastRound := last.round }
    { x with ct := ({ t with v := v, p := BitVec.ofNat 32 (last.lane 0), mode := BitVec.ofNat 5 (last.lane 2) }.setNode j nd) }

/-- Restore a switch operator (R253, R254, R257). -/
def Site.restoreOp (x : Site) (i m : Nat) (ts : List Token) : Site :=
  let o := x.op m
  let some? : Token → Option Token := fun t => if t = mkData 0 0 0 0 then none else some t
  if x.opKind i m = 8 then
    { x with ops := x.ops.set m { o with held := some? (ts.getD 0 default), wait := some? (ts.getD 1 default) } }
  else { x with ops := x.ops.set m { o with last := ts.head?, isOpen := true } }

/-- Restore an M tile's part in the site: a ring's slots and head, a REPEAT's buffer and count (R257). -/
def Site.restoreTile (x : Site) (ts : List Token) : Site :=
  let m := x.mt
  let last := ts.getLast?.getD default
  if x.role = 3 then
    let count := if last.lane 0 = 0 then none else some (last.lane 1)
    { x with mt := { m with buf := ts.dropLast, count := count, again := last.lane 2, pos := last.lane 3 } }
  else if x.role = 2 then
    let r := last.lane 4
    { x with mt := { m with rings := m.rings.set r { head := last.lane 0, toks := ts.dropLast, run := ⟨[], []⟩ } } }
  else x

/-- RST at a site: each part takes its state from the units that came behind the mark; an addressed buffer's lines go to its memory. -/
def State.restoreSite (s : State) (k i : Nat) : State :=
  let x := s.site k i
  let units := unitsOf x.rst.length x.rst
  let step : Site → (Nat × List Token) → Site := fun y u =>
    if u.1 < 2 then y.restoreNode u.1 u.2 else if u.1 < 6 then y.restoreOp i (u.1 - 2) u.2 else y.restoreTile u.2
  let x1 := units.foldl step { x with rst := [] }
  let s1 := s.setSite k i x1
  if x.role = 1 then
    (units.filter (fun u => u.1 == 6)).foldl
      (fun s u => (u.2.mapIdx (fun n t => (n, t))).foldl
        (fun s p => (s.store (Loc.key (.tile k i (128 * p.1))) (lineBytes p.2.payload)).lineWritten k i p.1) s) s1
  else if units.any (fun u => u.1 == 6) then s1.clearPoison (Loc.key (.tile k i 0)) 131072 else s1

/-- RST_MARK: a site whose saved units have come on its configuration path takes them (R133, R259); elsewhere an RST passes as any mark. -/
def execRstMark (s : State) : Outcome State Fault Refusal :=
  let k := s.input.node.c.ix
  let i := s.input.node.site.toNat
  .next (if (s.site k i).rst ≠ [] then (if (s.site k i).frames = [] then s else s.restoreSite k i) else s.markEvent kRst)

/-- CARRY_TRIGGER: a CARRY emits into its body on a data trigger, or admits a mark aligned at its trigger and init (R253). -/
def execCarryTrigger (s : State) : Outcome State Fault Refusal :=
  let k := s.input.node.c.ix
  let i := s.input.node.site.toNat
  let slot := s.input.node.slot.toNat
  .next (match s.aligned k i slot with
    | .mark t =>
      if 2 ≤ slot ∧ slot < 6 ∧ (s.site k i).opKind i (slot - 2) = 7 then (s.markStep t.kind k i slot).settle k else s
    | _ => s.opEvent 7 State.carryTriggerOp)

/-! ## The align timer (R251) -/

/-- Alignment timeout t of a part (R309, R311 to R313). -/
def State.timeoutOf (s : State) (k i slot : Nat) : Nat :=
  let x := s.site k i
  if slot < 2 then x.nodeT slot
  else if slot < 6 then x.opField i (slot - 2) 10 7
  else if slot = 6 then bits (x.frame 0) 7 4
  else bits (x.frame 5) 4 1

/-- When a part's align timer started, and how many inputs it joins. -/
def State.blockedSince (s : State) (k i slot : Nat) : Option Nat :=
  let x := s.site k i
  if slot < 2 then (x.ct.node slot).blocked
  else if slot < 6 then (x.op (slot - 2)).blocked
  else if slot = 6 then x.mt.blocked
  else match sitePort i with | some n => (s.port k n).blocked | none => none

def State.joinSize (s : State) (k i slot : Nat) : Nat :=
  if slot < 7 then (s.joins k i slot).length else match sitePort i with | some n => (s.portJoins k n).length | none => 0

/-- ALIGN_TIMEOUT: the align timer of the part that the input's node names reaches its timeout: MARK_SKEW (R251, R252); slot 8 stands for
the adder that the input's number names (R228). -/
def execAlignTimeout (s : State) : Outcome State Fault Refusal :=
  let k := s.input.node.c.ix
  let i := s.input.node.site.toNat
  let slot := s.input.node.slot.toNat
  let t := s.timeoutOf k i slot
  .next (if slot = 8 then s.adderTimeout s.input.num else match s.blockedSince k i slot with
    | none => s
    | some since =>
      if t = 15 ∨ s.timerPaused k ∨ s.joinSize k i slot < 2 ∨ s.time.cycle < since + 2 ^ (t + 10) then s
      else if slot < 7 then s.stopPart k i slot cMarkSkew
      else s.partFatal k i 7 cMarkSkew)

end Sys2Proof.Machine
end

