-- ==== Sys2Proof/Machine/Engines.lean ====
section
/-! DEFINITION. The reticle engines: COPY and GATHER with their units (R200, R205, R339 to R341), and multicast COPY with the merge entries of the
slices (R222 to R226). -/

namespace Sys2Proof.Machine

open Host (Outcome)

/-! ## Descriptors -/

/-- A fresh identity. -/
def State.freshId (s : State) : Nat × State := (s.net.nextId, { s with net := { s.net with nextId := s.net.nextId + 1 } })

/-- A range touches page 0 or reaches beyond the last VA (R239, R339). -/
def badRange (va n : Nat) : Bool := decide (va < 65536) || decide (2 ^ 52 < va + n)

/-- Ordering fields of a descriptor: flags [0] ACQ, [1] REL and a scope that stands only beside one of them. -/
def badOrder (flags scope allowed : Nat) : Bool := decide (allowed < flags) || decide (7 < scope) || (flags % 4 == 0 && scope != 0)

/-- A copy descriptor breaks its layout (R339). -/
def badCopy (d : List Byte) : Bool :=
  let len := fieldAt d 0x10 8
  len == 0 || decide (2 ^ 40 < len) || badOrder (fieldAt d 0x18 1) (fieldAt d 0x19 1) 3 || fieldAt d 0x1A 38 != 0 ||
  badRange (fieldAt d 0 8) len || badRange (fieldAt d 8 8) len

/-- A gather descriptor breaks its layout (R200, R239). -/
def badGather (d : List Byte) : Bool :=
  let len := fieldAt d 0x20 4
  let rows := fieldAt d 0x24 4
  len % 8 != 0 || decide (len < 8) || decide (4096 < len) || rows == 0 || decide (65536 < rows) || decide (2 ^ 32 < fieldAt d 0x28 8) ||
  fieldAt d 0x30 16 != 0 || decide (fieldAt d 0 8 < 65536) || decide (fieldAt d 8 8 < 65536) || decide (fieldAt d 0x18 8 < 65536)

/-- A multicast descriptor breaks its layout for core `k` (R222, R239). -/
def badMulti (k : Nat) (d : List Byte) : Bool :=
  let len := fieldAt d 8 8
  let dst := fieldAt d 0x10 8
  let mask : BitVec 16 := BitVec.ofNat 16 (fieldAt d 0x18 2)
  fieldAt d 0 8 % 128 != 0 || len % 128 != 0 || len == 0 || decide (65536 < len) || dst % 128 != 0 || decide (0x3000000 < dst + len) ||
  mask.getLsbD 0 || !mask.getLsbD (k % 16) || badOrder (fieldAt d 0x1A 1) (fieldAt d 0x1B 1) 7 || fieldAt d 0x1C 36 != 0 ||
  badRange (fieldAt d 0 8) len

/-- A new operation of an engine or a multicast. -/
def newEngOp (kind : EngKind) (d : List Byte) (asn : BitVec 16) (core : Option CoreId) (cmd : Option (BitVec 10 × Nat)) (op : Nat)
    (after : List Nat) : EngOp :=
  { kind := kind, desc := d, asn := asn, core := core, cmd := cmd, op := op, unit := 0, index := none, acquired := false, writes := [],
    after := after, lines := [], policies := [], doneT := 0, fault := FaultRec.clear }

/-- The agent of an engine's operation. -/
def engAgent (copy : Bool) (ret slot : Nat) : Agent :=
  if copy then .copyEng (BitVec.ofNat 2 ret) (BitVec.ofNat 6 slot) else .gatherEng (BitVec.ofNat 2 ret) (BitVec.ofNat 6 slot)

/-- The lowest free slot of a reticle's engine: none when it holds 64 operations (R341). One that a stopped operation has left is free once
its last unit is acknowledged (R111). -/
def State.freeSlot (s : State) (copy : Bool) (ret : Nat) : Option Nat :=
  (List.range 64).find? (fun n => (s.engOp copy ret n).isNone && s.outstanding (engAgent copy ret n) == [])

/-- Hand an operation of the issuing core to an engine; the core goes on and counts it (R335). The core's earlier stores come before the
operation's first access: its banks write back what they hold (R180). -/
def State.handEngine (s : State) (kind : EngKind) (slot : Nat) (d : List Byte) : State :=
  let (op, s1) := (s.cleanLines s.me).freshId
  let after := s1.openIds (.ctl s1.cur)
  let e := newEngOp kind d (s1.asnOf s1.me) (some s1.cur) none op after
  let s2 := s1.setEngOp (kind == .copy) (reticleOf s1.me) slot e
  (s2.setCtl { s2.ctl with cops := s2.ctl.cops ++ [op] }).advancePc

/-- COPY or GATHER at issue: it stalls while its count or its engine is full, and then reads and checks its descriptor (R335, R337, R341). -/
def State.issueEngine (s : State) (kind : EngKind) (a : Reg) (bad : List Byte → Bool) : State :=
  match s.freeSlot (kind == .copy) (reticleOf s.me) with
  | none => s
  | some slot =>
    if 63 ≤ s.ccnt s.me then s
    else
      let va := s.reg a
      s.readDesc va 64 64 (fun d s => if bad d then s.faultTrap cBounds va else s.handEngine kind slot d)

/-- `copy sA, mem` (R339). -/
def execCopyMem (a : Reg) (s : State) : Outcome State Fault Refusal :=
  .next (s.whenReady [a] (fun s => s.issueEngine .copy a badCopy))

/-- `gather sA, eng` (R340). -/
def execGather (a : Reg) (s : State) : Outcome State Fault Refusal :=
  .next (s.whenReady [a] (fun s => s.issueEngine .gather a badGather))

/-- `copy sA, mc`: the descriptor goes to port block p0; its destination is checked against the region's grants first (R36, R222, R339). -/
def execCopyMc (a : Reg) (s : State) : Outcome State Fault Refusal :=
  .next (s.whenReady [a] (fun s =>
    if 63 ≤ s.ccnt s.me then s
    else
      let va := s.reg a
      s.readDesc va 64 64 (fun d s =>
        if badMulti s.me d then s.faultTrap cBounds va
        else
          let v := s.me
          let ea : Word := BitVec.ofNat 64 ((v / 16) * 2 ^ 33 + (v % 16) * 2 ^ 29 + fieldAt d 0x10 8)
          match s.vaultCheck v s.firmware ea (fieldAt d 8 8) .write with
          | .fault c => s.faultTrap c ea
          | .hole _ => s.faultTrap cBounds ea
          | .stall => s
          | .at _ _ =>
            let (op, s1) := (s.cleanLines v).freshId
            let e0 := newEngOp .multicast d (s1.asnOf v) (some s1.cur) none op (s1.openIds (.ctl s1.cur))
            let e := { e0 with index := some (BitVec.ofNat 32 v) }
            let s2 : State := { s1 with x := { s1.x with multis := tabPut s1.x.multis op e } }
            (s2.setCtl { s2.ctl with cops := s2.ctl.cops ++ [op] }).advancePc)))

/-! ## Units (R200, R205) -/

/-- Units of an operation. -/
def EngOp.units (e : EngOp) : Nat :=
  match e.kind with
  | .copy => (fieldAt e.desc 0x10 8 + 255) / 256
  | .gather => fieldAt e.desc 0x28 8
  | .multicast => fieldAt e.desc 8 8 / 128

/-- Source, destination and bytes of a unit; `x` is the entry of the index table for a gather. -/
def EngOp.range (e : EngOp) (x : Nat) : Word × Word × Nat :=
  let w : Nat → Word := fun i => BitVec.ofNat 64 (fieldAt e.desc i 8)
  match e.kind with
  | .gather =>
    let len := fieldAt e.desc 0x20 4
    let rows := fieldAt e.desc 0x24 4
    (w 0x08 + BitVec.ofNat 64 x * w 0x10 + BitVec.ofNat 64 (e.unit % rows * len), w 0x18 + BitVec.ofNat 64 (e.unit * len), len)
  | _ =>
    let n := min 256 (fieldAt e.desc 0x10 8 - 256 * e.unit)
    (w 8 + BitVec.ofNat 64 (256 * e.unit), w 0 + BitVec.ofNat 64 (256 * e.unit), n)

/-- REL and its scope; a gather always releases at .pkg (R340). -/
def EngOp.rel (e : EngOp) : Option Scope :=
  match e.kind with
  | .gather => some 5
  | .copy => if fieldAt e.desc 0x18 1 / 2 % 2 = 1 then some (BitVec.ofNat 3 (fieldAt e.desc 0x19 1)) else none
  | .multicast => if fieldAt e.desc 0x1A 1 / 2 % 2 = 1 then some (BitVec.ofNat 3 (fieldAt e.desc 0x1B 1)) else none

/-- Translate pieces of a range in an address space; a frame outside the package is found last (R199, R208, R239). -/
def State.placeIn (ret : Nat) (asn : BitVec 16) (acc : Acc) : List (Word × Nat × Nat) → Placed → State → Placed × State
  | [], r, s => (r, s)
  | (va, n, pos) :: rest, r, s =>
    if bits va 63 16 = 0 then ({ r with bad := some (cBounds, va) }, s)
    else
      match s.resolve ret asn va acc with
      | (.fault c, s1) => ({ r with bad := some (c, va) }, s1)
      | (.stall, s1) => ({ r with stall := true }, s1)
      | (.hole _, s1) => State.placeIn ret asn acc rest { r with hole := r.hole.or (some va) } s1
      | (.at l a, s1) => State.placeIn ret asn acc rest { r with ps := r.ps ++ [⟨l, va, n, pos, a⟩] } s1

/-- Nothing found yet. -/
def Placed.none : Placed := ⟨[], .none, false, .none⟩

/-- Two pages that an engine may copy between (R192). -/
def pairOk (a b : Attr) : Bool := a.fmt == 0 || b.fmt == 0 || (a.fmt == b.fmt && a.geo == b.geo)

/-- The attributes of the page of an address: where a checkpoint still copies the page, those of its leaf (R158). Nothing is read. -/
def State.pageAttr (s : State) (ret : Nat) (asn : BitVec 16) (va : Word) (acc : Acc) : Option Attr :=
  match (s.resolve ret asn va acc).1 with
  | .at _ a => some a
  | .hole a => some a
  | .stall => (s.rootOf asn).bind (fun t => (s.leafPlace va.toNat 3 t).map (fun e => leafAttr e.2.1 e.2.2))
  | .fault _ => none

/-- Bytes `i` of source and destination of a range lie on pages that an engine may not copy between. -/
def State.pairBad (s : State) (ret : Nat) (asn : BitVec 16) (src dst : Word) (i : Nat) : Bool :=
  match s.pageAttr ret asn (src + BitVec.ofNat 64 i) .read, s.pageAttr ret asn (dst + BitVec.ofNat 64 i) .write with
  | some a, some b => !pairOk a b
  | _, _ => false

/-- The first byte of a range whose source and destination pages do not pair, looked for where a page of either begins (R192, R339). -/
def State.firstBadPair (s : State) (ret : Nat) (asn : BitVec 16) (src dst : Word) (n : Nat) : Option Nat :=
  let starts : Nat → List Nat := fun a => (List.range ((n + 65535) / 65536 + 1)).map (fun j => (65536 - a % 65536) % 65536 + 65536 * j)
  ((0 :: starts src.toNat ++ starts dst.toNat).filter (fun i => decide (i < n) && s.pairBad ret asn src dst i)).min?

/-- An entry of a gather's index table as it stands, where it can be read. -/
def State.indexNow (s : State) (ret : Nat) (asn : BitVec 16) (va : Word) : Option Nat :=
  let got := (pieces va 4).map (fun p =>
    match (s.resolve ret asn p.1 .index).1 with
    | .at l _ => if l.outside then none else some (s.bytesAt l p.2.1).1
    | _ => none)
  if got.all Option.isSome then some (leNat (got.filterMap id).flatten) else none

/-- Where the pages of an operation do not pair: for a COPY and for a gather's units that its table now names, all looked for at the first unit,
before anything is written (R192); later, for the unit itself. The rows whose entries change after the first unit are checked again as they are
read. -/
def State.firstBad (s : State) (ret : Nat) (e : EngOp) (x : Nat) : Option Word :=
  let at_ : EngOp → Nat → Nat → Option Word := fun e x n =>
    let r := e.range x
    (s.firstBadPair ret e.asn r.1 r.2.1 n).map (fun i => r.2.1 + BitVec.ofNat 64 i)
  if e.unit ≠ 0 then at_ e x (e.range x).2.2
  else if e.kind = .gather then
    (List.range e.units).findSome? (fun u =>
      let va : Word := BitVec.ofNat 64 (fieldAt e.desc 0 8 + 4 * (u / fieldAt e.desc 0x24 4))
      (if u / fieldAt e.desc 0x24 4 = 0 then some x else s.indexNow ret e.asn va).bind (fun y => at_ { e with unit := u } y (e.range y).2.2))
  else at_ e x (fieldAt e.desc 0x10 8)

/-- The bytes of a range within one page, through an address space, with the first poisoned unit, which is logged (R40). -/
def State.bytesIn (s : State) (ret : Nat) (asn : BitVec 16) (va n : Nat) : Option (List Byte × Bool) × State :=
  match s.translate ret asn (BitVec.ofNat 64 va) .read with
  | (.at l a, s1) =>
    let (b, s2) := (s1.touched l n a).bytesAt l n
    match (if l.outside then none else (s2.poisonedIn l.key n).head?) with
    | some u => (some (b, true), s2.logUe u 0)
    | none => (some (b, false), s2)
  | (_, s1) => (none, s1)

/-- Check the data blocks of registered slots that a range touches against their sidecar: the address of the first that differs, or of which a byte is
poisoned (R40, R161). -/
def State.slotCheck (s : State) (ret : Nat) (asn : BitVec 16) (va n : Nat) : Option Nat × State :=
  s.ckpt.registry.foldl
    (fun (r, s) (x, base, blocks) =>
      if x ≠ asn ∨ r.isSome then (r, s)
      else
        let data := base.toNat + 65536 + sidecarBytes blocks
        let touched := (List.range blocks).filter (fun i => decide (data + 4096 * i < va + n) && decide (va < data + 4096 * i + 4096))
        touched.foldl
          (fun (r, s) i =>
            if r.isSome then (r, s)
            else
              let (b, s1) := s.bytesIn ret asn (data + 4096 * i) 4096
              let (c, s2) := s1.bytesIn ret asn (base.toNat + 65536 + 8 * i) 8
              match b, c with
              | some bs, some cs =>
                (if !bs.2 ∧ !cs.2 ∧ crc64xz 0 bs.1 = BitVec.ofNat 64 (leNat cs.1) then none else some (data + 4096 * i), s2)
              | _, _ => (none, s2)) (r, s)) (none, s)

/-- Post writes of a unit, behind others. -/
def State.engWrites (copy : Bool) (ret slot unit : Nat) (asn : BitVec 16) (bs : List Byte) (after : List Nat) :
    List Piece → List Nat → State → List Nat × State
  | [], ids, s => (ids, s)
  | p :: ps, ids, s =>
    let ag := engAgent copy ret slot
    let data := (bs.drop p.pos).take p.n
    let x : Access :=
      { id := 0, agent := ag, op := .write, loc := p.loc, ea := p.va, size := p.n, data := data, expect := [], fe := false, sc := false,
        fePage := p.attr.fe, pub := p.attr.pub, cp := p.attr.cp, acquire := none, dest := .engine copy (BitVec.ofNat 6 slot) unit,
        after := s.sameGranule ag p.loc p.n ++ after, done := false, pc := 0, asn := asn, err := 0,
        told := p.attr.pub && after == [] }
    let id := s.net.nextId
    let s1 := s.request x
    let s2 := if x.told then s1.publish id (s.agentNode ag) asn p.va.toNat data else s1
    State.engWrites copy ret slot unit asn bs after ps (ids ++ [id]) s2

/-- Post the writes of a unit: those to another package first, so that what their home refuses leaves the rest unwritten (R205). -/
def State.engPut (s : State) (copy : Bool) (ret slot unit : Nat) (asn : BitVec 16) (bs : List Byte) (ps : List Piece) : List Nat × State :=
  let (ids, s1) := State.engWrites copy ret slot unit asn bs [] (ps.filter (fun p => p.loc.far)) [] s
  State.engWrites copy ret slot unit asn bs ids (ps.filter (fun p => !p.loc.far)) ids s1

/-- The first piece of a unit's destination that meets poison which it does not cover whole, and the poisoned unit (R40, R205). -/
def State.destBad (s : State) (ps : List Piece) : Option (Piece × Nat) :=
  ps.findSome? (fun p => if p.loc.outside then none else (s.poisonHalf p.loc.key p.n).map (fun u => (p, u)))

/-- A place that a unit needs still waits for a write of the operation itself. -/
def State.ownWrites (s : State) (ag : Agent) (ps : List Piece) : Bool := ps.any (fun p => s.sameGranule ag p.loc p.n != [])

/-- One unit of an engine operation: every page is translated, the source is read whole, and the writes leave (R199, R205). A unit waits for
the operation's own writes to its source. An unequal pairing of formats stops an operation at its first unit (R192, R339, R340); a frame outside the
package comes after it (R208). -/
def State.engUnit (s : State) (copy : Bool) (ret slot : Nat) (e : EngOp) (x : Nat) : State :=
  let (src, dst, n) := e.range x
  let ag := engAgent copy ret slot
  let fault : State → Nat → BitVec 2 → Word → State := fun s c acc va => s.engFault copy ret slot c e.unit acc va
  let (from_, s1) := State.placeIn ret e.asn .read (pieces src n) Placed.none s
  match from_.bad with
  | some (c, va) => fault s1 c 0 va
  | none =>
    let (onto, s2) := State.placeIn ret e.asn .write (pieces dst n) Placed.none s1
    match onto.bad, s2.firstBad ret e x, from_.hole, onto.hole with
    | some (c, va), _, _, _ => fault s2 c 1 va
    | none, some va, _, _ => fault s2 cPerm 1 va
    | none, none, some va, _ => fault s2 cBounds 0 va
    | none, none, none, some va => fault s2 cBounds 1 va
    | none, none, none, none =>
      if from_.stall || onto.stall || s2.ownWrites ag from_.ps then s2
      else
        match s2.fetchAll ag e.asn true from_.ps with
        | (none, s3) => s3
        | (some (.error (c, va)), s3) => fault s3 c 0 va
        | (some (.ok bs), s3) =>
          match s3.slotCheck ret e.asn src.toNat n with
          | (some va, s4) => fault s4 cEcc 0 (BitVec.ofNat 64 va)
          | (none, s4) =>
            if let some (p, u) := s4.destBad onto.ps then fault (s4.logUe u 0) cEcc 1 p.va
            else
            let (ids, s5) := s4.engPut copy ret slot e.unit e.asn bs onto.ps
            let next := e.unit + 1
            let index := if e.kind = .gather ∧ next % fieldAt e.desc 0x24 4 = 0 then none else e.index
            s5.setEngOp copy ret slot { e with unit := next, index := index, writes := e.writes ++ ids }

/-- Read the entry of the index table for the block of a gather's unit (R200, R203). -/
def State.engIndex (s : State) (ret slot : Nat) (e : EngOp) : State :=
  let va : Word := BitVec.ofNat 64 (fieldAt e.desc 0 8 + 4 * (e.unit / fieldAt e.desc 0x24 4))
  let ag := engAgent false ret slot
  let (r, s1) := State.placeIn ret e.asn .index (pieces va 4) Placed.none s
  match r.bad, r.hole with
  | some (c, v), _ => s1.engFault false ret slot c e.unit 3 v
  | none, some v => s1.engFault false ret slot cBounds e.unit 3 v
  | none, none =>
    if r.stall || s1.ownWrites ag r.ps then s1
    else
      match s1.fetchAll ag e.asn true r.ps with
      | (none, s2) => s2
      | (some (.error (c, v)), s2) => s2.engFault false ret slot c e.unit 3 v
      | (some (.ok bs), s2) =>
        match s2.slotCheck ret e.asn va.toNat 4 with
        | (some v, s3) => s3.engFault false ret slot cEcc e.unit 3 (BitVec.ofNat 64 v)
        | (none, s3) => s3.setEngOp false ret slot { e with index := some (BitVec.ofNat 32 (leNat bs)) }

/-- A counted operation of a core's COPY, GATHER or multicast retires (R336). What the core reads next is no older than what the operation
wrote: its banks write back and drop their lines (R180). -/
def State.copDone (s : State) (core : Option CoreId) (op : Nat) : State :=
  match core with
  | none => s
  | some c =>
    let ct := s.ctlAt c.ix
    if ct.cops.contains op then
      ((s.setCtlAt c.ix { ct with cops := ct.cops.filter (· != op) }).dropLines c.ix (fun _ => true)).countFell c.ix
    else s

/-- Every unit is written and the release has performed (R336). -/
def State.engDone (s : State) (copy : Bool) (ret slot : Nat) (e : EngOp) : Bool :=
  decide (e.units ≤ e.unit) && e.writes == [] && !e.fault.valid && (e.rel.isNone || s.openIds (engAgent copy ret slot) == [])

/-- One act of the operation in a slot of an engine: a unit waits until the writes of the one before are acknowledged, so that a fault leaves it
untouched (R205). The operation of a COPY command ends with its command (R106). -/
def State.engStep (s : State) (copy : Bool) : State :=
  let ret := s.input.reticle.toNat
  let slot := s.input.slot.toNat
  match s.engOp copy ret slot with
  | none => s
  | some e =>
    if e.fault.valid || s.waitsFor e.after then s
    else if e.unit < e.units then
      (if e.writes ≠ [] then s
       else if e.kind = .gather then
        match e.index with
        | none => s.engIndex ret slot e
        | some x => s.engUnit copy ret slot e x.toNat
       else s.engUnit copy ret slot e 0)
    else if s.engDone copy ret slot e && e.cmd.isNone then (s.dropEngOp copy ret slot).copDone e.core e.op
    else s

/-- COPY_UNIT (R205, R339). -/
def execCopyUnit (s : State) : Outcome State Fault Refusal := .next (s.engStep true)

/-- GATHER_UNIT (R200, R340). -/
def execGatherUnit (s : State) : Outcome State Fault Refusal := .next (s.engStep false)

/-! ## Multicast (R222 to R226) -/

def State.multi (s : State) (op : Nat) : Option EngOp := tabFind s.x.multis op
def State.setMulti (s : State) (op : Nat) (e : EngOp) : State := { s with x := { s.x with multis := tabPut s.x.multis op e } }

/-- SOLO or ACQ: the request never merges (R224). -/
def EngOp.alone (e : EngOp) : Bool := fieldAt e.desc 0x1A 1 % 2 == 1 || fieldAt e.desc 0x1A 1 / 4 % 2 == 1

/-- The cache policies of lines from a place on that share a home slice and follow one another, at most `n`: each translated (R199, R223). -/
def State.lineRun (ret : Nat) (asn : BitVec 16) (stack last : Nat) : Nat → Word → List (BitVec 2) → State → List (BitVec 2) × State
  | 0, _, c, s => (c, s)
  | n + 1, va, c, s =>
    match s.translate ret asn va .read with
    | (.at (.hbm p) a, s1) =>
      if p = last + 128 ∧ (s1.boot.test.stackOf p).1 = stack then State.lineRun ret asn stack p n (va + 128) (c ++ [a.cp]) s1 else (c, s1)
    | (_, s1) => (c, s1)

/-- A multicast sends its next request: a run of lines of one slice, or an ordinary read of a line that no slice homes (R223). -/
def State.multiSend (s : State) (op : Nat) (e : EngOp) (c : CoreId) : State :=
  let ret := reticleOf c.ix
  let va : Word := BitVec.ofNat 64 (fieldAt e.desc 0 8 + 128 * e.unit)
  let s0 := if !e.acquired && fieldAt e.desc 0x1A 1 % 2 == 1 then s.acquireBanks c.ix (BitVec.ofNat 3 (fieldAt e.desc 0x1B 1)) else s
  match s0.translate ret e.asn va .read with
  | (.fault f, s1) => s1.multiFault op e.unit f va
  | (.hole _, s1) => s1.multiFault op e.unit cBounds va
  | (.stall, s1) => s1
  | (.at (.hbm p) a, s1) =>
    let stack := (s1.boot.test.stackOf p).1
    let (cps, s2) := State.lineRun ret e.asn stack p (min 255 (e.units - e.unit - 1)) (va + 128) [a.cp] s1
    let n := cps.length
    let e' := { e with
      unit := e.unit + n, acquired := true, lines := e.lines ++ (List.range n).map (e.unit + ·)
      policies := (cps.mapIdx (fun i c => (e.unit + i, c))) ++ e.policies }
    (s2.setMulti op e').sendPacket
      { id := 0, cls := 0, rclass := 0, kind := 10, src := coreNode c.ix, sport := 0, dst := stackNode stack, dport := 0,
        tag := BitVec.ofNat 16 e.unit, addr := BitVec.ofNat 64 p, dset := BitVec.ofNat 16 (fieldAt e.desc 0x18 2),
        lines := BitVec.ofNat 8 (n - 1), op := 0, asn := e.asn, access := op, payload := [], badHeader := false }
  | (.at l a, s1) =>
    (s1.setMulti op { e with unit := e.unit + 1, acquired := true, lines := e.lines ++ [e.unit] }).request
      { id := 0, agent := .multi c op, op := .read, loc := l, ea := va, size := 128, data := [], expect := [], fe := false, sc := false,
        fePage := a.fe, pub := false, cp := a.cp, acquire := none, dest := .multi op e.unit, after := [], done := false, pc := 0, asn := e.asn,
        err := 0 }

/-- The merge unit of a stack's slice. -/
def State.mergeUnit (s : State) (n : Nat) : MergeUnit := tabGet MergeUnit.reset s.net.merges n
def State.setMergeUnit (s : State) (n : Nat) (m : MergeUnit) : State := { s with net := { s.net with merges := tabPut s.net.merges n m } }

/-- The cache policy of a line that a multicast has asked for. -/
def EngOp.policy (e : EngOp) (line : Nat) : BitVec 2 := ((e.policies.find? (fun x => x.1 == line)).map (fun x => x.2)).getD 0

/-- Read the lines of a run at their home under their pages' policies: the data and the bad lines, which are logged (R35, R40, R224). -/
def State.readRun (s : State) (p lines : Nat) (cp : Nat → BitVec 2) : List Byte × List Nat × State :=
  let bad := (List.range lines).filter (fun i => s.poisonedIn (p + 128 * i) 128 != [])
  let s1 := bad.foldl (fun s i => s.logUe ((s.poisonedIn (p + 128 * i) 128).headD 0) 0) s
  let s2 := (List.range lines).foldl (fun s i => s.llcTouch (p + 128 * i) (cp i) false) s1
  (s2.bytes p (128 * lines), bad, s2)

/-- Send every line of a run to members, each once (R224, R225). -/
def State.sendRun (s : State) (stack lines : Nat) (members : List (BitVec 4 × Nat × Nat)) (die : BitVec 3) (data : List Byte)
    (bad : List Nat) : State :=
  let set : BitVec 16 := BitVec.ofNat 16 (maskOf (members.map (fun m => m.1.toNat)))
  (List.range lines).foldl
    (fun s i =>
      members.foldl
        (fun s m =>
          let va : Word := match s.multi m.2.1 with | some e => BitVec.ofNat 64 (fieldAt e.desc 0 8 + 128 * (m.2.2 + i)) | none => 0
          s.sendPacket (multiPacket (stackNode stack) (coreNode (16 * die.toNat + m.1.toNat)) m.2.1 (m.2.2 + i) set va
            (if bad.contains i then BitVec.ofNat 8 cEcc else 0) ((data.drop (128 * i)).take 128))) s) s

/-- A multicast read at its slice: it joins an open entry, leads a new one, or is answered alone (R224). -/
def State.multiArrives (s : State) (p : Packet) : State :=
  match nodeCore p.src, s.multi p.access with
  | some k, some e =>
    let n := p.dst - 16
    let u := s.mergeUnit n
    let lines := p.lines.toNat + 1
    let who : BitVec 4 × Nat × Nat := (BitVec.ofNat 4 k, p.access, p.tag.toNat)
    let now := s.time.cycle
    let joins : Nat × Merge → Bool := fun m =>
      m.2.line == p.addr.toNat && m.2.lines == lines && m.2.asn == p.asn && m.2.mask == p.dset && m.2.die.toNat == k / 16 &&
      decide (now < m.2.closes) && !m.2.members.any (fun x => x.1 == who.1)
    let solo := e.alone || u.win == 0 || p.dset == BitVec.ofNat 16 (2 ^ (k % 16))
    let slot := (List.range 16).find? (fun i => (tabFind u.entries i).isNone)
    match (if solo then none else u.entries.find? joins), (if solo then none else slot) with
    | some (i, m), _ =>
      s.setMergeUnit n { u with follow := u.follow + 1, entries := tabPut u.entries i { m with members := m.members ++ [who] } }
    | none, some i =>
      let (data, bad, s1) := s.readRun p.addr.toNat lines (fun i => e.policy (p.tag.toNat + i))
      let m : Merge :=
        { line := p.addr.toNat, lines := lines, asn := p.asn, mask := p.dset, die := BitVec.ofNat 3 (k / 16), members := [who], data := data,
          bad := bad, closes := now + u.win.toNat }
      s1.setMergeUnit n { u with lead := u.lead + 1, entries := tabPut u.entries i m }
    | none, none =>
      let (data, bad, s1) := s.readRun p.addr.toNat lines (fun i => e.policy (p.tag.toNat + i))
      (s1.setMergeUnit n { u with alone := u.alone + 1 }).sendRun n lines [who] (BitVec.ofNat 3 (k / 16)) data bad
  | _, _ => s

/-- MULTICAST_READ: the operation that the input names sends its next request, or the request packet it names arrives at its slice (R223,
R224). -/
def execMulticastRead (s : State) : Outcome State Fault Refusal :=
  .next (match s.multi s.input.num, s.findPacket s.input.num with
    | some e, _ =>
      match e.core with
      | some c => if e.fault.valid || s.waitsFor e.after || decide (e.units ≤ e.unit) || s.claimed c.ix then s else s.multiSend s.input.num e c
      | none => s
    | none, some p =>
      if p.cls ≠ 0 ∨ p.kind ≠ 10 ∨ !s.served p then s
      else if p.badHeader then s.discardBad p
      else (s.takePacket p.id).multiArrives p
    | none, none => s)

/-- MERGE_WINDOW_CLOSE: the entry in the input's slot of the slice that the input's number names sends its lines once its window has closed,
and frees (R224). -/
def execMergeWindowClose (s : State) : Outcome State Fault Refusal :=
  let s0 := s.elapse
  let n := s.input.num
  let u := s0.mergeUnit n
  .next (match tabFind u.entries s.input.slot.toNat with
    | none => s0
    | some m =>
      if s0.time.cycle < m.closes then s0
      else (s0.setMergeUnit n { u with entries := tabDel u.entries s.input.slot.toNat }).sendRun n m.lines m.members m.die m.data m.bad)

/-- A multicast whose last line has been written performs its release and retires (R225, R336). -/
def State.multiDone (s : State) (op : Nat) (e : EngOp) : State :=
  if decide (e.units ≤ e.unit) && e.lines == [] && !e.fault.valid then
    let s1 := match e.rel, e.core with
      | some sc, some c => s.releaseBanks c.ix sc
      | _, _ => s
    ({ s1 with x := { s1.x with multis := tabDel s1.x.multis op } }).copDone e.core op
  else s.setMulti op e

/-- MULTICAST_DATA: a line reaches a core of the delivery set, whose vault port writes it (R225). -/
def execMulticastData (s : State) : Outcome State Fault Refusal :=
  .next (match s.findPacket s.input.num with
    | none => s
    | some p =>
      if p.cls ≠ 1 ∨ p.kind ≠ 11 ∨ !s.deliverable p then s
      else if p.badHeader then s.discardBad p
      else
        let s1 := s.takePacket p.id
        match s1.multi p.access with
        | none => s1
        | some e =>
          let idx := p.tag.toNat
          let v := match e.index with | some x => x.toNat | none => 0
          if !e.lines.contains idx || (e.fault.valid && decide (e.fault.unit.toNat ≤ idx)) then s1
          else
            let key := Loc.key (.vault v (fieldAt e.desc 0x10 8 + 128 * idx))
            ((s1.store key p.payload).clearPoison key 128).multiDone p.access { e with lines := e.lines.filter (· != idx) })

end Sys2Proof.Machine
end

