-- ==== Sys2Proof/Machine/Plane.lean ====
section
/-! DEFINITION. The contention plane (R67 to R87): arming from a control core and from a fabric node, frames, results, and how a trap meets a
waiting SPRINT. -/

namespace Sys2Proof.Machine

open Host (Outcome)

/-! ## Keys and results -/

/-- The key that a transform drives for an operand (R77): RAW, SINT, F32M, B16M. -/
def sprintKey (xf x : Nat) : BitVec 32 :=
  let w := x % 2 ^ 32
  let h := x % 2 ^ 16
  match xf with
  | 0 => BitVec.ofNat 32 w
  | 1 => BitVec.ofNat 32 (Nat.xor w (2 ^ 31))
  | 2 => if 0x7F800000 < w % 2 ^ 31 then BitVec.allOnes 32 else BitVec.ofNat 32 (w % 2 ^ 31)
  | _ => if 0x7F80 < h % 2 ^ 15 then BitVec.allOnes 32 else BitVec.ofNat 32 (h % 2 ^ 15 * 2 ^ 16)

/-- Status codes of a result (R71). -/
def stWon : Nat := 0
def stLost : Nat := 1
def stDisplaced : Nat := 2
def stHeard : Nat := 3
def stLate : Nat := 4

/-- The outcome of a frame on a channel: identifier, key and owner code (R70). -/
structure FrameOut where
  id : BitVec 8
  key : BitVec 32
  owner : Nat
  deriving DecidableEq, Repr

/-- A result word (R72). -/
def resultWord (frame stat chan : Nat) (r : FrameOut) : Word :=
  BitVec.ofNat 64
    (r.key.toNat + r.owner % 128 * 2 ^ 32 + r.id.toNat * 2 ^ 40 + chan % 16 * 2 ^ 48 + stat % 8 * 2 ^ 52 + frame % 256 * 2 ^ 56)

/-- The owner code of a core: its die and core (R69). -/
def ownerCode (k : Nat) : Nat := (k / 16) * 16 + k % 16

/-- A contender ranks above another in a frame: identifier, key, then owner (R70). -/
def ranks (a : Arm) (ka : Nat) (b : Arm) (kb : Nat) : Bool :=
  if a.id ≠ b.id then decide (b.id < a.id)
  else if a.key ≠ b.key then decide (b.key < a.key)
  else decide (ownerCode kb < ownerCode ka)

/-- The winner of a frame on a channel among the contenders that have entered it, those of ports disarmed since among them (R70, R86). -/
def Plane.winner (p : Plane) (chan : Nat) : Option (Nat × Arm) :=
  ((p.ports ++ p.gone).filter (fun a => a.1 % 16 == chan && a.2.entered && !a.2.listen)).foldl
    (fun best a =>
      match best with
      | none => some a
      | some b => if ranks a.2 (a.1 / 16) b.2 (b.1 / 16) then some a else some b) none

/-! ## Delivery -/

/-- Deliver a result word to the agent that armed a port (R71). A control core goes on behind its SPRINT, and a late fault that has waited for the
result traps there (R84; assumption 107, DEDUCED). -/
def State.deliverResult (s : State) (k chan : Nat) (who : Armer) (w : Word) : State :=
  match who with
  | .node n =>
    let x := s.site k n.site.toNat
    let j := n.slot.toNat
    s.setSite k n.site.toNat { x with ct := x.ct.setNode j { x.ct.node j with result := some w } }
  | .ctl =>
    let c := s.ctlAt k
    match c.wait with
    | .sprint d ch _ =>
      if ch.toNat = chan then
        s.setCtlAt k { c with
          wait := .none, lateOp := if c.late.isSome then c.r.pc + 4 else c.lateOp, r := { (c.r.put d w) with pc := c.r.pc + 4 } }
      else s
    | _ => s

/-- SPRINT_DEAD in place of a result: the core traps at its SPRINT, whose arm no frame has taken, so SPTARGET gets back what it read (R84); or
the node stops (R80). -/
def State.deliverDead (s : State) (k : Nat) (who : Armer) : State :=
  match who with
  | .node n => s.stopPart k n.site.toNat n.slot.toNat cSprintDead
  | .ctl =>
    let c := s.ctlAt k
    let target := match c.wait with | .sprint _ _ t => t | _ => c.r.spTarget
    (s.setCtlAt k { c with r := { c.r with spTarget := target } }).trapAt k cSprintDead 0 c.r.pc

def State.dropPort (s : State) (key : Nat) : State := { s with plane := { s.plane with ports := tabDel s.plane.ports key } }

/-- Arm an idle port: `now` is SPFRAME as the port is armed. An arm for a frame that has started completes LATE (R73). -/
def State.armPort (s : State) (key now first : Nat) (a : Arm) : State :=
  if a.target ≠ 0 ∧ a.target.toNat ≤ now then s.deliverResult (key / 16) (key % 16) a.who (resultWord now stLate (key % 16) ⟨0, 0, 0⟩)
  else
    let f := if a.target = 0 then first else a.target.toNat
    { s with plane := { s.plane with ports := tabPut s.plane.ports key { a with first := f, entered := false } } }

/-- The arm that a freed port takes next: the control core's first (R74), then the oldest (assumption 94, DESIGN CHOICE). -/
def Plane.nextArm (p : Plane) (key : Nat) : Option Arm :=
  match p.queued.find? (fun q => q.1 == key && q.2.who == .ctl) with
  | some q => some q.2
  | none => (p.queued.find? (fun q => q.1 == key)).map (fun q => q.2)

/-- A freed port arms what waits for it, until one is not late: at once, or in the cycle in which the arm comes to the port (R73, R74). -/
def State.rearm (key : Nat) : Nat → State → State
  | 0, s => s
  | fuel + 1, s =>
    if (tabFind s.plane.ports key).isSome then s
    else
      match s.plane.nextArm key with
      | none => s
      | some a =>
        let s1 := { s with plane := { s.plane with queued := s.plane.queued.erase (key, a) } }
        let now := max s1.time.cycle a.since / 128
        State.rearm key fuel (s1.armPort key now (now + 1) a)

/-- An arm reaches its core's port, in the cycle after it issues: it waits there while the port is busy (R73, R74). A control core's arm goes
before a node's that has reached the port in the same cycle. -/
def State.arm (s : State) (k chan : Nat) (a0 : Arm) : State :=
  let key := 16 * k + chan
  let a := { a0 with since := s.time.cycle + 1 }
  let now := (s.time.cycle + 1) / 128
  match tabFind s.plane.ports key with
  | none => s.armPort key now (now + 1) a
  | some b =>
    if a.who = .ctl ∧ b.who ≠ .ctl ∧ b.since = a.since ∧ !b.entered then
      let s1 := { s with plane := { s.plane with ports := tabDel s.plane.ports key, queued := (key, b) :: s.plane.queued } }
      State.rearm key 17 (s1.armPort key now (now + 1) a)
    else { s with plane := { s.plane with queued := s.plane.queued ++ [(key, a)] } }

/-! ## SPRINT (R87, R347) -/

/-- A channel may be used: live, and not marked failed (R80). -/
def State.chanUsable (s : State) (chan : Nat) : Bool := s.boot.test.chanLive chan && !s.plane.failed.getLsbD chan

/-- The faults of an arm on core `k`, in order (R79, R80, R87). -/
def State.armFault (s : State) (k chan : Nat) : Option Nat :=
  let r := (s.ctlAt k).r
  if !r.firmware && !r.spGrant.getLsbD chan then some cPerm
  else if !s.chanUsable chan then some cSprintDead
  else none

/-- Issue a SPRINT: SPTARGET is read and cleared, the port is armed, and the core waits for the result (R73, R78). -/
def State.sprint (s : State) (d : Reg) (chan : BitVec 4) (listen retry : Bool) (id : BitVec 8) (key : BitVec 32) : State :=
  match s.armFault s.me chan.toNat with
  | some c => s.faultTrap c 0
  | none =>
    let t := s.cr.spTarget
    let s1 := s.elapse
    let s2 := s1.setCtl { s1.ctl with wait := .sprint d chan t, r := { s1.cr with spTarget := 0 } }
    s2.arm s2.me chan.toNat ⟨.ctl, listen, id, key, retry, t, 0, false, 0⟩

/-- `sprint sD, sA, chan, id, xf` (R87). -/
def execSprint (d a : Reg) (c : BitVec 4) (retry : Bool) (x : BitVec 2) (id : BitVec 8) (s : State) : Outcome State Fault Refusal :=
  .next (s.whenReady [d, a] (fun s =>
    if id = 0 then s.faultTrap cIllegal 0 else s.sprint d c false retry id (sprintKey x.toNat (s.reg a).toNat)))

/-- `sprint.lsn sD, chan, id` (R76, R87). -/
def execSprintLsn (d : Reg) (c : BitVec 4) (id : BitVec 8) (s : State) : Outcome State Fault Refusal :=
  .next (s.whenReady [d] (fun s => s.sprint d c true false id 0))

/-- The arm of a control core that waits in a SPRINT, if it waits in one. -/
def State.sprintArm (s : State) (k : Nat) : Option (BitVec 4 × Word × Bool) :=
  match (s.ctlAt k).wait with
  | .sprint _ c t =>
    match tabFind s.plane.ports (16 * k + c.toNat) with
    | some a => some (c, t, a.entered && a.who == .ctl)
    | none => some (c, t, false)
  | _ => none

/-- A SPRINT whose frame has started holds a trap back (R84). -/
def State.holdsTrap (s : State) (k : Nat) : Bool :=
  match s.sprintArm k with
  | some (_, _, entered) => entered
  | none => false

/-- Withdraw the arm of a waiting SPRINT, which gives SPTARGET back what it read (R84). -/
def State.withdrawArm (s : State) (k : Nat) : State :=
  match s.sprintArm k with
  | none => s
  | some (c, t, _) =>
    let key := 16 * k + c.toNat
    let own : Bool := match tabFind s.plane.ports key with | some a => a.who == Armer.ctl | none => false
    let s1 := if own then s.dropPort key else s
    let s2 := { s1 with plane := { s1.plane with queued := s1.plane.queued.filter (fun q => !(q.1 == key && q.2.who == Armer.ctl)) } }
    let ct := s2.ctlAt k
    State.rearm key 17 (s2.setCtlAt k { ct with wait := .none, r := { ct.r with spTarget := t } })

/-- Withdraw the arms of a core's CONTEND nodes that no frame has taken: each micro-op issues again in its node's next turn, as a withdrawn SPRINT
does (R84; assumption 52, DEDUCED). -/
def State.withdrawNodes (s : State) (k : Nat) : State :=
  let mine : Nat × Arm → Bool := fun a => a.1 / 16 == k && a.2.who != .ctl && !a.2.entered
  let gone := (s.plane.ports ++ s.plane.queued).filter mine
  let s1 : State := { s with plane := { s.plane with
    ports := s.plane.ports.filter (fun a => !mine a), queued := s.plane.queued.filter (fun a => !mine a) } }
  let s2 := gone.foldl
    (fun s a =>
      match a.2.who with
      | .node n =>
        let x := s.site k n.site.toNat
        let j := n.slot.toNat
        s.setSite k n.site.toNat { x with ct := x.ct.setNode j { x.ct.node j with armed := false } }
      | .ctl => s) s1
  (gone.map (fun a => a.1)).eraseDups.foldl (fun s key => State.rearm key 17 s) s2

/-- A trap meets a stalled instruction: a SPRINT waits for its started frame or is withdrawn, and its address is saved whatever the cause; a CFGREQ
is withdrawn; a TINV is not interrupted (R84, R353; assumption 107, DEDUCED). None where the trap has to wait. -/
def State.interrupt (s : State) (k cause : Nat) (val pc : Word) : Option State :=
  match (s.ctlAt k).wait with
  | .none => some (s.trapAt k cause val pc)
  | .cfgreq .. => some (s.trapAt k cause val pc)
  | .tinv _ => none
  | .sprint .. => if s.holdsTrap k then none else some ((s.withdrawArm k).trapAt k cause val (s.ctlAt k).r.pc)

/-! ## Frames -/

/-- A port's outcome in a frame: what its agent receives, or the port as it goes on (R71, R75, R76). -/
inductive PortOut where
  | word (w : Word)
  | stays (a : Arm)
  deriving DecidableEq, Repr

/-- The outcome of one port at the latch. A listener that the frame leaves unsatisfied considers the next one, which has not started (R76, R84);
where its cell then moves it is armed again for the first frame that follows, also one that was armed for a target frame (R85; assumption 108,
DESIGN CHOICE). -/
def portOut (frame key : Nat) (a : Arm) (win : Option (Nat × Arm)) : PortOut :=
  let next : Arm := { a with entered := false, target := 0, first := frame + 1 }
  if !a.entered then .stays a
  else
    match win with
    | none => .stays next
    | some (wk, w) =>
      let r : FrameOut := ⟨w.id, w.key, ownerCode (wk / 16)⟩
      let word : Nat → PortOut := fun st => .word (resultWord frame st (key % 16) r)
      if a.listen then (if a.id = 0 ∨ a.id = w.id then word stHeard else .stays next)
      else if wk = key then word stWon
      else if a.id = w.id then word stLost
      else if a.retry then .stays next
      else word stDisplaced

/-- Latch the results of the frame in progress and deliver them; a port that is served takes the arm that waits for it (R71, R74). -/
def State.latch (s : State) : State :=
  let p := s.plane
  let outs := p.ports.map (fun a => (a.1, a.2, portOut p.frame a.1 a.2 (p.winner (a.1 % 16))))
  let s1 := { s with plane := { p with latched := true } }
  outs.foldl
    (fun s o =>
      match o.2.2 with
      | .stays a => { s with plane := { s.plane with ports := tabPut s.plane.ports o.1 a } }
      | .word w => State.rearm o.1 17 ((s.dropPort o.1).deliverResult (o.1 / 16) (o.1 % 16) o.2.1.who w)) s1

/-- Time comes to cycle 106 of the frame in progress, at which its results are delivered; they are delivered once (R71). -/
def State.reachLatch (s : State) : State :=
  if s.plane.latched then s
  else ({ s with time := s.time.pass (128 * s.plane.frame + 106 - s.time.cycle) s.draws, draws := s.draws + 1 }).latch

/-- SPRINT_RESULT_LATCH: the results latched at bit time 52 of the frame in progress are delivered, at its cycle 106 (R68, R71). -/
def execSprintResultLatch (s : State) : Outcome State Fault Refusal := .next s.reachLatch

/-- Channels that read 1 in two successive frames' idle bits are marked failed: an armed port there completes with SPRINT_DEAD (R80). The check
is made after boot, while the package runs. -/
def State.failChannels (s : State) : State :=
  if s.boot.stage ≠ 5 then s
  else
  let high := Config.idleHigh s.draws
  let bad := high &&& s.plane.high
  let hit := s.plane.ports.filter (fun a => bad.getLsbD (a.1 % 16))
  let late := s.plane.queued.filter (fun a => bad.getLsbD (a.1 % 16))
  let p := { s.plane with
    high := high, failed := s.plane.failed ||| bad
    ports := s.plane.ports.filter (fun a => !bad.getLsbD (a.1 % 16))
    queued := s.plane.queued.filter (fun a => !bad.getLsbD (a.1 % 16)) }
  (hit ++ late).foldl (fun s a => s.deliverDead (a.1 / 16) a.2.who) { s with plane := p, draws := s.draws + 1 }

/-- THR of a die: 16 until firmware writes it, and 4 while hardware forces it (R98, R99). Once the forcing ends, the value that firmware wrote last
stands again, also one written meanwhile (assumption 93, DESIGN CHOICE). -/
def State.thr (s : State) (die : Nat) : BitVec 5 := if s.mon.forced.getLsbD die then 4 else tabGet 16 s.mon.thr die

/-- Cycles below a cycle in which a die issues: the first THR of each 16 (R98; assumption 14, DESIGN CHOICE). -/
def issueCycles (thr c : Nat) : Nat := c / 16 * min 16 thr + min (c % 16) thr

/-- Of the cycles from the present one to another, those that a core's align timers leave out: all of them in a pause, else those in which its die
does not issue (R99, R251). -/
def State.leftOut (s : State) (now k : Nat) : Nat :=
  let d := now - s.time.cycle
  let thr := (s.thr (k / 16)).toNat
  if s.timerPaused k then d else d - (issueCycles thr now - issueCycles thr s.time.cycle)

/-- A timer that ran in cycle `c` leaves out `d` of the cycles that have passed since. -/
def timerLater (c d : Nat) (b : Option Nat) : Option Nat := b.map (fun n => if n ≤ c then n + d else n)

/-- The align timers of a site leave out `d` of the cycles since cycle `c`, and `all` of them at a node that was in a firing of its own (R367). -/
def Site.later (old x : Site) (c d all : Nat) : Site :=
  let node : NodeSt → NodeSt → NodeSt := fun o n => { n with blocked := timerLater c (if o.firing then all else d) n.blocked }
  { x with
    ct := { x.ct with node0 := node old.ct.node0 x.ct.node0, node1 := node old.ct.node1 x.ct.node1 }
    ops := x.ops.map (fun o => { o with blocked := timerLater c d o.blocked })
    mt := { x.mt with blocked := timerLater c d x.mt.blocked } }

/-- The align timers of a core after a step that has begun in a state (R251). -/
def State.coreLater (s : State) (now k : Nat) (c : CoreSt) : CoreSt :=
  let d := s.leftOut now k
  { c with
    ports := c.ports.map (fun p => (p.1, { p.2 with blocked := timerLater s.time.cycle d p.2.blocked }))
    sites := c.sites.map (fun x => (x.1, (s.site k x.1).later x.2 s.time.cycle d (now - s.time.cycle))) }

/-- The align timer of an adder after a step: the pauses are those of the cell downstream, and THR that of its die (R228, R251). -/
def State.adderLater (s : State) (now : Nat) (a : Adder) : Adder :=
  match nodeCore a.dst with
  | some k => { a with blocked := timerLater s.time.cycle (s.leftOut now k) a.blocked }
  | none => a

/-- The align timers of the package count the cycles that a step from `s` to `t` has let pass, by the pauses, firings and THR of `s` (R228, R251). -/
def State.countTimers (s t : State) : State :=
  if t.time.cycle ≤ s.time.cycle then t
  else
    { t with
      cores := t.cores.map (fun c => (c.1, s.coreLater t.time.cycle c.1 c.2))
      net := { t.net with adders := t.net.adders.map (fun a => (a.1, s.adderLater t.time.cycle a.2)) } }

/-- The M tiles that the step has found an uncorrectable error in stop (R252, R270). -/
def State.stopStruck (s : State) : State :=
  if s.m.struck = [] then s
  else s.m.struck.foldl (fun s x => s.stopPart x.1 x.2 6 cEcc) { s with m := { s.m with struck := [] } }

/-- What a step that has begun in `s` ends in, with the timers counted and the tiles stopped that an error has struck. -/
def State.counted (s : State) (o : Outcome State Fault Refusal) : Outcome State Fault Refusal :=
  match o with
  | .next t => .next (s.countTimers t).stopStruck
  | o => o

/-- FRAME_START: the frame in progress ends, its results delivered and its idle bits checked, and the next frame starts on every channel: armed
ports whose frame it is enter it (R67, R73, R80). -/
def execFrameStart (s : State) : Outcome State Fault Refusal :=
  let s1 := s.reachLatch.failChannels
  let f := s1.plane.frame + 1
  let s2 := { s1 with time := s1.time.pass (128 * f - s1.time.cycle) s1.draws, draws := s1.draws + 1 }
  let ports := s2.plane.ports.map (fun a => (a.1, if a.2.first ≤ f then { a.2 with entered := true } else a.2))
  .next { s2 with plane := { s2.plane with frame := f, latched := false, ports := ports, gone := [] } }

/-! ## CONTEND (R382) -/

/-- Hold a micro-op until its result word has come, and write it: lanes 0 and 1 (R382, R383). `start` makes the request. -/
def State.heldMicro (s : State) (d : Dst) (start : State → State) : State :=
  (s.issueMicro (dstOut d) (fun s =>
    match s.nnode.result with
    | some w => (s.writeDst d false (mkRes 1 1 (fun n => if n = 0 then bits w 31 0 else if n = 1 then bits w 63 32 else 0))).nextSlot
    | none => if s.nnode.armed then s else start s)).settle s.nk

/-- CONTEND: the node's core's port is armed; ILLEGAL, PERM and SPRINT_DEAD stop the node (R382). -/
def execContend (d : Dst) (a b : Src) (c : BitVec 4) (retry : Bool) (x : BitVec 2) (s : State) : Outcome State Fault Refusal :=
  .next (s.heldMicro d (fun s =>
    let id : BitVec 8 := BitVec.ofNat 8 ((s.source b).lane 0)
    let stop : Nat → State := fun cause => s.stopPart s.nk s.ni s.nj cause
    if id = 0 then stop cIllegal
    else
      match s.armFault s.nk c.toNat with
      | some f => stop f
      | none =>
        let s1 := (s.setNnode { s.nnode with armed := true }).elapse
        s1.arm s1.nk c.toNat ⟨.node s.curNode, false, id, sprintKey x.toNat ((s.source a).lane 0), retry, 0, 0, false, 0⟩))

end Sys2Proof.Machine
end

