-- ==== Sys2Proof/Machine/System.lean ====
section
/-! DEFINITION. Control-core instructions for streams, marks, synchronisation, packets, time, traps and system registers (R335 to R362). -/

namespace Sys2Proof.Machine

open Host (Outcome)

/-! ## STREAM and BAR (R338, R344, R345) -/

/-- A port block is in use by its cell (R345). -/
def State.portUsed (s : State) (k n : Nat) : Bool :=
  let i := portSite n
  let x := s.site k i
  let entries := (List.range 68).filter (fun snk => x.sinkOn i snk)
  s.portSink k n ||
  entries.any (fun snk => (decide (48 ≤ snk) && decide (snk < 52)) || (decide (176 ≤ x.sinkEntry i snk) && decide (x.sinkEntry i snk < 180))) ||
  s.bindings k n != [] || (List.range 16).any (fun c => s.handler k n c % 2 == 1)

/-- Streams in a port's queue (R236). -/
def Port.queued (p : Port) : Nat := (p.items.filterMap PortItem.stream?).length

/-- Append a stream to a port's queue (R236, R338). -/
def State.enqueue (s : State) (k n : Nat) (b : Spb) (gate : Option Nat) (op : Nat) (before : List Nat) : State :=
  let p := s.port k n
  let t : StreamSt :=
    { spb := b, num := p.issued, gate := gate, op := op, unit := 0, handed := 0, started := false, done := false, before := before }
  s.setPort k n { p with items := p.items ++ [.stream t], issued := p.issued + 1 }

/-- Read and check a stream parameter block, and go on with it (R315, R405, R406). -/
def State.readSpb (s : State) (va : Word) (f : Spb → State → State) : State :=
  s.readDesc va 64 64 (fun bs s =>
    let b : Spb := BitVec.ofNat 512 (leNat bs)
    match spbFault b with
    | some c => s.faultTrap c va
    | none =>
      match s.pktFault s.me b with
      | some c => s.faultTrap c va
      | none => f b s)

/-- Count a tile operation of parts on the issuing core (R335). -/
def State.countTile (s : State) (op parts : Nat) : State := s.setCtl { s.ctl with tops := s.ctl.tops ++ [(op, parts)] }

/-- `stream sA, pn` (R338). The core's earlier stores come before the stream's first access: its banks write back what they hold (R180). -/
def execStream (a : Reg) (n : BitVec 4) (s : State) : Outcome State Fault Refusal :=
  .next (s.whenReady [a] (fun s =>
    if !s.portUsed s.me n.toNat then s.faultTrap cWaitRange 0
    else if 63 ≤ s.tcnt s.me ∨ 4 ≤ (s.port s.me n.toNat).queued then s
    else
      s.readSpb (s.reg a) (fun b s =>
        let (op, s1) := (s.cleanLines s.me).freshId
        ((s1.enqueue s1.me n.toNat b none op (s1.openIds (.ctl s1.cur))).countTile op 1).advancePc)))

/-- Place a BAR; an EOR that already lies in its window satisfies it at once (R344). -/
def State.placeBar (s : State) (n level : Nat) (gated : Option Spb) : State :=
  let k := s.me
  let (op, s1) := (if gated.isSome then s.cleanLines k else s).freshId
  let p := s1.port k n
  let hit := decide (0 < p.issued) && decide (p.issued ≤ p.startedNo) && (match p.winEor with | some l => decide (level ≤ l.toNat) | none => false)
  let b : BarSt :=
    { op := op, port := BitVec.ofNat 4 n, level := BitVec.ofNat 3 level, gated := gated, window := p.issued, hit := hit }
  let s2 := match gated with
    | some x => s1.enqueue k n x (some op) op (s1.openIds (.ctl s1.cur))
    | none => s1
  let s3 := s2.countTile op 1
  State.satisfyBars k n 8 (s3.setCtl { s3.ctl with bars := s3.ctl.bars ++ [b] }).advancePc

/-- `bar sC, sA, pn, level, mode` (R344). -/
def execBar (c a : Reg) (n : BitVec 4) (m : BitVec 2) (l : BitVec 3) (s : State) : Outcome State Fault Refusal :=
  .next (s.whenReady [c, a] (fun s =>
    let launch := m == 1 || (m == 2 && s.reg c != 0) || (m == 3 && s.reg c == 0)
    if m = 0 ∧ a ≠ 0 then s.faultTrap cIllegal 0
    else if !s.portUsed s.me n.toNat then s.faultTrap cWaitRange 0
    else if 63 ≤ s.tcnt s.me ∨ 4 ≤ s.ctl.bars.length then s
    else if !launch then s.placeBar n.toNat l.toNat none
    else if 4 ≤ (s.port s.me n.toNat).queued then s
    else s.readSpb (s.reg a) (fun b s => s.placeBar n.toNat l.toNat (some b))))

/-! ## WAIT (R342) -/

/-- `wait L, S, C, T` (R342). -/
def execWait (l sc c t : BitVec 6) (s : State) : Outcome State Fault Refusal :=
  let k := s.me
  .next (if s.lcnt k ≤ l.toNat ∧ s.scnt k ≤ sc.toNat ∧ s.ccnt k ≤ c.toNat ∧ s.tcnt k ≤ t.toNat then s.advancePc else s)

/-! ## MARK (R255, R343) -/

/-- A gated stream that has not started holds no MARK back (R343). -/
def PortItem.passable (x : PortItem) : Bool :=
  match x with
  | .stream t => t.gate.isSome && !t.started
  | .mark .. => false

/-- Place a mark in a port's order: behind everything but the gated streams at its end that have not started (R343). -/
def placeMark (items : List PortItem) (m : PortItem) : List PortItem :=
  let tail := (items.reverse.takeWhile PortItem.passable).reverse
  items.take (items.length - tail.length) ++ [m] ++ tail

/-- The faults of a MARK, in order (R255). -/
def State.markFault (s : State) (kind mask pl : Nat) : Option Nat :=
  if mask = 0 ∨ !markPayloadOk kind pl ∨ (kind = kSav ∧ pl % 2 ^ 32 ≠ 0) then some cIllegal
  else if !s.firmware && (kind == kCfg || kind == kRst || kind == kQsc) then some cPriv
  else if (List.range 16).any (fun n => mask.testBit n && !s.portUsed s.me n) then some cWaitRange
  else none

/-- Inject one mark at the ports of a mask, ascending (R343). -/
def State.injectMark (s : State) (kind level seq : Nat) (mask pl : Nat) : State :=
  match s.markFault kind mask pl with
  | some c => s.faultTrap c 0
  | none =>
    if 63 ≤ s.tcnt s.me then s
    else
      let k := s.me
      let (op, s1) := s.freshId
      let m := mkMark kind level seq (markOrigin k 16) pl
      let ns := (List.range 16).filter (fun n => mask.testBit n)
      let s2 := ns.foldl (fun s n => let p := s.port k n; s.setPort k n { p with items := placeMark p.items (.mark m op false) }) s1
      (s2.countTile op ns.length).advancePc

/-- `mark.kind sA, sS, imm` for every kind but an EOR (R255). -/
def execMark (ss a : Reg) (kind : BitVec 4) (i : BitVec 12) (s : State) : Outcome State Fault Refusal :=
  .next (s.whenReady [ss, a] (fun s => s.injectMark kind.toNat 0 i.toNat ((s.reg a).toNat % 2 ^ 16) (s.reg ss).toNat))

/-- `mark.eor sA, sS, level` (R255). -/
def execMarkEor (ss a : Reg) (l : BitVec 3) (s : State) : Outcome State Fault Refusal :=
  .next (s.whenReady [ss, a] (fun s => s.injectMark kEor l.toNat 0 ((s.reg a).toNat % 2 ^ 16) (s.reg ss).toNat))

/-! ## Configuration requests (R128, R346, R383) -/

/-- The result word of a configuration request (R346). -/
def cfgResult (stat die : Nat) : Word := BitVec.ofNat 64 (stat + die * 2 ^ 8)

/-- Change a task of the pool. -/
def State.setTask (s : State) (t : Task) : State :=
  { s with sched := { s.sched with tasks := s.sched.tasks.map (fun u => if u.uid = t.uid then t else u) } }

/-- ONDEMAND of a region record (R116). -/
def RegionSt.onDemand (r : RegionSt) : Bool := r.info.getLsbD 63

/-- A configuration request: what it returns at once, or the state in which the requester waits for its load (R128). It is made during a restart
of die firmware too, and answered behind it (R97, R362). -/
def State.requestRegion (s : State) (k region : Nat) (node : Option NodeRef) : Option Word × State :=
  match s.taskOf k with
  | none => (some (cfgResult 2 0), s)
  | some t =>
    match t.regions[region]? with
    | none => (some (cfgResult 2 0), s)
    | some r =>
      if !r.onDemand then (some (cfgResult 2 0), s)
      else if r.released then (some (cfgResult 1 r.die.toNat), s)
      else
        let who : CoreId × Option NodeRef := (coreOfIx k, node)
        let r1 := if r.waiters.contains who then r else { r with waiters := r.waiters ++ [who] }
        let s1 := s.setTask { t with regions := t.regions.set region r1 }
        let old := s1.sched.requests.any (fun q => q.1 == t.uid && q.2.1.toNat == region)
        let q := (t.uid, BitVec.ofNat 3 region, s1.clock)
        (none, if old || r.placed then s1 else { s1 with sched := { s1.sched with requests := s1.sched.requests ++ [q] } })

/-- `cfgreq sD, region` (R346). -/
def execCfgreq (d : Reg) (r : BitVec 3) (s : State) : Outcome State Fault Refusal :=
  .next (s.whenReady [d] (fun s =>
    if s.firmware then s.faultTrap cIllegal 0
    else
      match s.requestRegion s.me r.toNat none with
      | (some w, s1) => if s.fwReady then s1.result d w else s
      | (none, s1) => s1.setCtl { s1.ctl with wait := .cfgreq d r }))

/-- RQST: the region whose index is lane 0 of a; issue is held until the result word is written (R383). -/
def execRqst (d : Dst) (a : Src) (s : State) : Outcome State Fault Refusal :=
  .next (s.heldMicro d (fun s =>
    let region := (s.source a).lane 0 % 8
    match s.requestRegion s.nk region (some s.curNode) with
    | (some w, s1) => if s.fwReady then s1.setNnode { s1.nnode with result := some w } else s
    | (none, s1) => s1.setNnode { s1.nnode with armed := true }))

/-! ## SEND and CMASK (R348, R349) -/

/-- `send sS, sA, pn, class` (R348). -/
def execSend (ss a : Reg) (n : BitVec 4) (c : BitVec 4) (s : State) : Outcome State Fault Refusal :=
  .next (s.whenReady [ss, a] (fun s =>
    let k := s.me
    let tag := s.reg ss
    let va := s.reg a
    if bits tag 63 16 ≠ 0 ∨ bits tag 15 15 = 1 ∨ bits tag 0 0 = 1 ∨ 12 ≤ bits tag 4 1 then s.faultTrap cIllegal 0
    else if va.toNat % 128 ≠ 0 then s.faultTrap cMisalign va
    else if 0x10000 < va.toNat + 128 then s.faultTrap cBounds va
    else
      match s.bindingOf k n.toNat c.toNat with
      | none => s.faultTrap cBounds va
      | some b =>
        let t : Token := ⟨lineOf (s.bytes (dmemKey k va.toNat) 128), tag.setWidth 16⟩
        match s.sendBinding k n.toNat b t with
        | none => s
        | some s1 => s1.advancePc))

/-- `cmask pn, class, on` (R349): clearing MASK releases what the port holds (R221). -/
def execCmask (n : BitVec 4) (on : Bool) (c : BitVec 4) (s : State) : Outcome State Fault Refusal :=
  let k := s.me
  let p := s.port k n.toNat
  let bit : BitVec 16 := BitVec.ofNat 16 (2 ^ c.toNat)
  .next ((s.setPort k n.toNat { p with mask := if on then p.mask ||| bit else p.mask &&& ~~~bit }).settle k).advancePc

/-! ## TSTAMP (R350) -/

/-- The time of the issuing core's reticle, its seconds latched into PTPSEC (R65, R350). -/
def State.readTime (s : State) : BitVec 96 × State :=
  let s1 := s.elapse
  let t := s1.timeOf (reticleOf s1.me)
  (t, s1.setCr { s1.cr with ptpSec := BitVec.ofNat 48 (bits t 95 48) })

/-- `tstamp sD` (R350). -/
def execTstamp (d : Reg) (s : State) : Outcome State Fault Refusal :=
  .next (s.whenReady [d] (fun s =>
    let (t, s1) := s.readTime
    s1.result d (BitVec.ofNat 64 (bits t 63 0))))

/-! ## TINV (R210, R352) -/

/-- Issue an invalidation: a release at .pkg, and the core waits for the report (R352). -/
def State.issueTinv (s : State) (asn : BitVec 16) (first count : Nat) : State :=
  let s1 := s.releaseBanks s.me 5
  let v : Inval :=
    { k := s1.x.nextInval, asn := asn, first := first, count := count, core := some s1.cur, before := s1.openIds (.ctl s1.cur) }
  let s2 := { s1 with x := { s1.x with invals := s1.x.invals ++ [v], nextInval := s1.x.nextInval + 1 } }
  s2.setCtl { s2.ctl with wait := .tinv v.k }

/-- `tinv sS, sA` (R352). -/
def execTinv (ss a : Reg) (s : State) : Outcome State Fault Refusal :=
  .next (s.whenReady [ss, a] (fun s =>
    let w := s.reg ss
    let va := s.reg a
    let count := bits w 47 16
    if !s.firmware then s.faultTrap cPriv 0
    else if bits w 63 48 ≠ 0 then s.faultTrap cIllegal 0
    else if va.toNat % 65536 ≠ 0 then s.faultTrap cMisalign va
    else if count = 0 ∨ 2 ^ 36 < va.toNat / 65536 + count then s.faultTrap cBounds va
    else s.issueTinv (BitVec.ofNat 16 (bits w 15 0)) (va.toNat / 65536) count))

/-- `tinv sS, sA, all` (R352). -/
def execTinvAll (ss a : Reg) (s : State) : Outcome State Fault Refusal :=
  .next (s.whenReady [ss, a] (fun s =>
    let w := s.reg ss
    if !s.firmware then s.faultTrap cPriv 0
    else if bits w 63 16 ≠ 0 ∨ s.reg a ≠ 0 then s.faultTrap cIllegal 0
    else s.issueTinv (BitVec.ofNat 16 (bits w 15 0)) 0 0))

/-! ## Traps (R353 to R357) -/

/-- `sysc imm` always traps; `sysc 0` of a cell ends its program (R356). -/
def execSysc (i : BitVec 16) (s : State) : Outcome State Fault Refusal :=
  let s1 := s.trap cSysc (i.setWidth 64) (s.pc + 4)
  .next (if !s.firmware && i == 0 then s1.setCtl { s1.ctl with run := .ended } else s1)

/-- `trap sA, imm` (R356). -/
def execTrap (a : Reg) (i : BitVec 16) (s : State) : Outcome State Fault Refusal :=
  .next (s.whenReady [a] (fun s => if s.reg a = 0 then s.advancePc else s.trap cSysc (0x10000 + i.setWidth 64) (s.pc + 4)))

/-- `rte` (R293, R301, R355). -/
def execRte (s : State) : Outcome State Fault Refusal :=
  .next (if !s.firmware then s.faultTrap cPriv 0 else if !s.cr.inTrap then s.faultTrap cIllegal 0 else s.returnTrap)

/-- `bkpt imm` (R357). -/
def execBkpt (i : BitVec 16) (s : State) : Outcome State Fault Refusal := .next (s.trap cBkpt (i.setWidth 64) (s.pc + 4))

/-- `halt` (R361). -/
def execHalt (s : State) : Outcome State Fault Refusal :=
  .next (if s.firmware then s.setCtl { s.ctl with run := .halted } else s.faultTrap cPriv 0)

/-- A core is stopped on a trap, the pre-emption's among them, which die firmware serves (R132, R354). -/
def State.serves (s : State) (k : Nat) : Bool := (s.ctlAt k).run == .stopped && s.fwActs (k / 16)

/-- CORE_RESUME: die firmware resumes a core that is stopped on a trap, at its PC, which it may rewrite first (R354). -/
def execCoreResume (s : State) : Outcome State Fault Refusal :=
  let k := s.input.core.ix
  let c := s.ctlAt k
  .next (if s.serves k then s.setCtlAt k { c with run := .running, r := { c.r with pc := s.input.data.getD c.r.trapPc } } else s)

/-- CORE_ABANDON: the trap of a stopped core is unserviced, and fatal to its queue (R112, R354). -/
def execCoreAbandon (s : State) : Outcome State Fault Refusal :=
  let k := s.input.core.ix
  let c := s.ctlAt k
  .next (if s.serves k then s.coreFatal k c.r.trapCause.toNat c.r.trapVal else s)

/-! ## System registers and events (R303, R304, R358 to R360) -/

/-- STATUS (R304). -/
def State.status (s : State) : Word :=
  BitVec.ofNat 64 ((if s.cr.firmware then 1 else 0) + (if s.cr.inTrap then 2 else 0) + (if (s.thr (s.me / 16)).toNat < 16 then 4 else 0))

/-- Registers that only firmware mode reads (R303). -/
def privRead (n : Nat) : Bool := n == 0x010 || n == 0x011 || n == 0x012 || n == 0x100

/-- A system register's value, but for PTPNS, which latches (R303); none for a number that names no register. -/
def State.sysReg (s : State) (n : Nat) : Option Word :=
  let occ := (s.core s.me).occ
  match n with
  | 0x000 => some (match occ with | some o => o.cell.setWidth 64 | none => 0)
  | 0x001 => some (BitVec.ofNat 64 (s.me % 16))
  | 0x002 => some (BitVec.ofNat 64 (s.me / 16))
  | 0x003 => some (match occ with | some o => o.queue.setWidth 64 | none => 0)
  | 0x004 => some s.status
  | 0x010 => some (s.cr.trapCause.setWidth 64)
  | 0x011 => some s.cr.trapPc
  | 0x012 => some s.cr.trapVal
  | 0x020 => some 0
  | 0x021 => some (s.cr.ptpSec.setWidth 64)
  | 0x030 => some (s.waitcnt s.me)
  | 0x031 => some s.cr.swapCnt
  | 0x040 => some (BitVec.ofNat 64 s.plane.frame)
  | 0x041 => some s.cr.spTarget
  | 0x042 => some (s.cr.spGrant.setWidth 64)
  | 0x100 => some (s.cr.fwDog.setWidth 64)
  | _ => none

/-- `mfs sD, reg` (R303, R358); a read of PTPNS latches the seconds (R65). -/
def execMfs (d : Reg) (r : BitVec 12) (s : State) : Outcome State Fault Refusal :=
  .next (s.whenReady [d] (fun s =>
    match s.sysReg r.toNat with
    | none => s.faultTrap cIllegal 0
    | some v =>
      if privRead r.toNat && !s.firmware then s.faultTrap cPriv 0
      else if r = 0x020 then
        let (t, s1) := s.readTime
        s1.result d (BitVec.ofNat 64 (bits t 47 0))
      else s.result d v))

/-- What an MTS writes (R303, R359). -/
def State.writeSys (s : State) (n : Nat) (v : Word) : State :=
  match n with
  | 0x010 => s.setCr { s.cr with trapCause := v.setWidth 8 }
  | 0x011 => s.setCr { s.cr with trapPc := v }
  | 0x012 => s.setCr { s.cr with trapVal := v }
  | 0x041 => s.setCr { s.cr with spTarget := v }
  | 0x042 => s.setCr { s.cr with spGrant := v.setWidth 16 }
  | 0x100 =>
    let s1 := s.setCr { s.cr with fwDog := v.setWidth 32 }
    s1.setCtl { s1.ctl with dogEnd := s1.time.cycle + 2000 * bits v 31 0 }
  | _ => s

/-- `mts reg, sS` (R303, R358). -/
def execMts (ss : Reg) (r : BitVec 12) (s : State) : Outcome State Fault Refusal :=
  .next (s.whenReady [ss] (fun s =>
    match s.sysReg r.toNat with
    | none => s.faultTrap cIllegal 0
    | some _ => if !s.firmware && r != 0x041 then s.faultTrap cPriv 0 else (s.writeSys r.toNat (s.reg ss)).advancePc))

/-- `wfe sD, mask`: it stalls until a listed event is pending, and takes and clears the listed ones (R360). -/
def execWfe (d : Reg) (m : BitVec 16) (s : State) : Outcome State Fault Refusal :=
  .next (s.whenReady [d] (fun s =>
    if m = 0 ∨ bits m 15 6 ≠ 0 then s.faultTrap cIllegal 0
    else
      let ev := s.cr.evPend &&& m.setWidth 6
      if ev = 0 then s else (s.setCr { s.cr with evPend := s.cr.evPend &&& ~~~ev }).result d (ev.setWidth 64)))

end Sys2Proof.Machine
end

