-- ==== Sys2Proof/Machine/Packets.lean ====
section
/-! DEFINITION. Packets of streams and of die firmware (R147, R148, R213, R217 to R221), and pod links at work (R47 to R52). -/

namespace Sys2Proof.Machine

open Host (Outcome)

/-! ## STR packets (R148, R219) -/

/-- A packet of class STR from another package makes its channel known: its sender receives the route updates of the cell that takes it (R147;
assumption 122, DESIGN CHOICE). -/
def State.farChannel (s : State) (k : Nat) (p : Packet) : State :=
  match farCore p.src with
  | none => s
  | some j =>
    let f : FarChannel := ⟨j, p.channel, k⟩
    if s.swap.far.contains f || (s.core k).occ.isNone || p.dset != 0 then s else { s with swap := { s.swap with far := s.swap.far ++ [f] } }

/-- A packet of class STR arrives at a port of core `k` (R219 to R221): it waits behind what the port holds of its class. Its ADDR, which no
STR packet uses, keeps the handler entry of its arrival, but for one that a mask, an exchange or a due marker holds. -/
def State.strArrives (s : State) (k : Nat) (p0 : Packet) : State :=
  let p1 := if s.awaitsFlip k p0 then { p0 with dset := 2 } else p0
  let n := p1.dport.toNat
  let later := (s.port k n).mask.getLsbD p1.rclass.toNat || s.claimed k || s.flipHolds k p1
  let p := { p1 with addr := if later then 0 else BitVec.ofNat 64 (65536 + s.handler k n p1.rclass.toNat) }
  let behind := (s.port k n).held.any (fun q => q.rclass == p.rclass && !s.flipHolds k q)
  let hold : State → State := fun s =>
    let q := s.port k n
    let s1 := s.setPort k n { q with held := q.held ++ [p] }
    if q.mask.getLsbD p.rclass.toNat then s1.event k 2 else s1
  if behind then hold s
  else
    match s.enterStr k p with
    | some s1 => s1.settle k
    | none => hold s

/-- STREAM_TOKEN: the STR packet that the input names arrives: an adder on its path takes it, the old site of a moved cell forwards it, or
its port handles it (R148, R219, R227). -/
def execStreamToken (s : State) : Outcome State Fault Refusal :=
  .next (match s.findPacket s.input.num with
    | none => s
    | some p =>
      if p.cls ≠ 2 ∨ p.kind ≠ 8 ∨ !s.deliverable p then s
      else if p.badHeader then s.discardBad p
      else
        match s.adderFor p with
        | some (place, a, u) => (s.takePacket p.id).adderPut place a u p
        | none =>
          if p.leaves then s.leave p
          else
          match nodeCore p.dst with
          | none => s.takePacket p.id
          | some k =>
            match s.forwardTo k p with
            | some f => (s.takePacket p.id).sendPacket { p with dst := coreNode f.newCore, dset := 1 }
            | none => ((s.takePacket p.id).farChannel k p).strArrives k p)

/-- The marker of a channel has arrived: what waited for it follows what the old site forwarded, and the packets of a moved sender's old
core are its own (R148). -/
def Port.passFlip (p : Port) (f : Flip) : Port :=
  let late : Packet → Bool := fun q => q.dset == 2 && q.src == coreNode f.src && q.cls == f.cls && q.channel == f.rclass
  let ours := (p.held.filter (fun q => !late q)).map (fun q =>
    if f.oldSrc ≠ f.src ∧ q.dset ≠ 2 ∧ f.carries q then { q with src := coreNode f.src } else q)
  { p with held := ours ++ (p.held.filter late).map (fun q => { q with dset := 1 }) }

def State.flipPasses (s : State) (k : Nat) (f : Flip) : State :=
  let c := s.core k
  let s1 := s.setCore k { c with ports := c.ports.map (fun p => (p.1, p.2.passFlip f)) }
  ({ s1 with swap := { s1.swap with flips := s1.swap.flips.filter (fun g => g != f) } }).settle k

/-- The channel that a flip marker names: its class, its source, and its destination cell by region and CELL. -/
def State.flipOf (s : State) (p : Packet) : Option Flip :=
  s.swap.flips.find? (fun f => f.carries p && 16 * f.region.toNat + f.cell.toNat == p.addr.toNat)

/-- Packets ahead of a marker wait at an adder, or have left one. -/
def State.adderHolds (s : State) (p : Packet) : Bool :=
  let ahead : Packet → Bool := fun q => q.src == p.src && q.dst == p.dst && q.channel == p.channel
  p.cls == 2 &&
  (s.net.adders.any (fun a => (a.2.l ++ a.2.u).any ahead) || s.net.packets.any (fun q => q.cls == 2 && q.kind == 8 && q.access != 0 && ahead q))

/-- FLIP_MARKER: the marker that the input names is forwarded by the old site behind its packets, or ends the hold at its destination
(R148). -/
def execFlipMarker (s : State) : Outcome State Fault Refusal :=
  .next (match s.findPacket s.input.num with
    | none => s
    | some p =>
      if p.kind ≠ 9 ∨ !(if p.cls = 0 then s.served p else s.deliverable p) ∨ s.adderHolds p then s
      else if p.badHeader then s.discardBad p
      else if p.leaves then s.leave p
      else
        let s1 := s.takePacket p.id
        match nodeCore p.dst, s1.flipOf p with
        | some k, some f =>
          if f.oldCore = k ∧ f.newCore ≠ k ∧ !f.gone then
            let flips := s1.swap.flips.map (fun g => if g = f then { g with gone := true } else g)
            ({ s1 with swap := { s1.swap with flips := flips } }).sendPacket { p with dst := coreNode f.newCore, dset := 1 }
          else s1.flipPasses k f
        | _, _ => s1)

/-! ## Credits and firmware's packets (R213, R217) -/

/-- A credit of a class comes back to its sender: a core's port block, or the landing path of an Ethernet port (R59, R217). -/
def State.creditArrives (s : State) (p : Packet) : State :=
  match nodeCore p.dst with
  | some k =>
    let n := p.dport.toNat
    match s.bindingOf k n p.tag.toNat with
    | none => s
    | some b =>
      let q := s.port k n
      (s.setPort k n { q with credits := q.credits.modify b (· + 1) }).settle k
  | none => s.landingCredit p

/-- CREDIT_RETURN (R217). -/
def execCreditReturn (s : State) : Outcome State Fault Refusal :=
  .next (match s.findPacket s.input.num with
    | none => s
    | some p =>
      if p.cls ≠ 1 ∨ p.kind ≠ 12 ∨ !s.deliverable p then s
      else if p.badHeader then s.discardBad p
      else if p.leaves then s.leave p
      else (s.takePacket p.id).creditArrives p)

/-- SYS_CONTROL: die firmware of the input's die sends a control packet to the input's core, if the flag says so; else the SYS packet that
the input names is delivered, and signals its core (R213, R360). -/
def execSysControl (s : State) : Outcome State Fault Refusal :=
  .next (if s.input.flag then
    s.sendPacket
      { id := 0, cls := 3, rclass := 0, kind := 13, src := coreNode (16 * s.input.die.toNat), sport := 15, dst := coreNode s.input.core.ix,
        dport := 0, tag := 0, addr := 0, dset := 0, lines := 0, op := 0, asn := 0, access := 0, payload := [], badHeader := false }
  else
    match s.findPacket s.input.num with
    | none => s
    | some p =>
      if p.cls ≠ 3 ∨ p.kind ≠ 13 ∨ p.isRoute ∨ !s.deliverable p then s
      else if p.badHeader then s.discardBad p
      else if p.leaves then s.leave p
      else
        match nodeCore p.dst with
        | some k => (s.takePacket p.id).event k 4
        | none => s.takePacket p.id)

/-! ## Pod links (R47 to R50) -/

/-- The flit in the input's bytes, low byte first. -/
def inFlit (s : State) : Frame := BitVec.ofNat 256 (leNat (s.input.bytes.take 32))

/-- Every access that waits for a response over a link takes LINK_DOWN, as does every request of another package that has gone on over it, and what
the link holds is lost (R50). -/
def State.linkDown (s : State) (l : Nat) : State :=
  let s0 := s.setPodLink l { s.podLink l with up := false, unacked := [], rxBuf := [], through := [] }
  let s1 := (s.podLink l).through.foldl (fun s p => s.sendPacket p.linkError) s0
  let waits : List Access := s1.net.accesses.filter (fun x =>
    match x.loc with
    | .remote g _ => s1.routeLink g.toNat 0 == some l && !x.done && !s1.net.packets.any (fun p => p.access == x.id && p.cls == 0)
    | _ => false)
  waits.foldl (fun s x => s.answer x (.error cLinkDown)) s1

/-- Send an acknowledgement or a NAK with the last good SEQ (R49). -/
def PodLink.ack (g : PodLink) (nak : Bool) : PodLink :=
  { g with txOut := g.txOut ++ [controlFlit (g.rxNext - 1) nak 0 0], rxSince := 0, nakSent := g.nakSent || nak }

/-- The bytes of a packet's flits, and how long a packet that begins with a header is. -/
def flitBytes (fs : List Frame) : List Byte := (fs.map (fun f => leBytes 28 (bits f 239 16))).flatten
def packetLength (h : List Byte) : Nat := if kindPayload (nbits (fieldAt h 0 8) 9 6) then 160 else 32

/-- A packet of another package enters: a request becomes an access of that package's, a response goes to the access that its tag names, a
token, a marker or a credit goes on to its core; one for a third package goes on over the link of its route (R30, R48, R51, R52, R214). A request
tells its home no page policy: a slice treats it as code 00 (R35; assumption 92, DESIGN CHOICE). What no field of the header names comes with the
packet as input: the destination port of a token, a marker or a credit, the bytes of a write, whether a read is a .fe load and whether the page
has FE set (assumption 45, DESIGN CHOICE). -/
def State.podPacket (s : State) (l : Nat) (bs : List Byte) : State :=
  let h := leNat (bs.take 32)
  let pay := bs.drop 32
  let kind := nbits h 9 6
  let spkg : BitVec 6 := BitVec.ofNat 6 (nbits h 29 24)
  let snode := 32 * nbits h 32 30 + nbits h 37 33
  let dpkg := nbits h 15 10
  let dst := (if dpkg = s.boot.test.pkgId.toNat then 0 else 256 * (dpkg + 1)) + 32 * nbits h 18 16 + nbits h 23 19
  let tag := nbits h 63 48
  let op := nbits h 159 152
  let p : Packet :=
    { id := 0, cls := BitVec.ofNat 2 (nbits h 1 0), rclass := BitVec.ofNat 4 (nbits h 5 2), kind := BitVec.ofNat 4 kind,
      src := 256 * (spkg.toNat + 1) + snode, sport := BitVec.ofNat 4 (nbits h 41 38), dst := dst, dport := s.input.port, tag := BitVec.ofNat 16 tag,
      addr := BitVec.ofNat 64 (nbits h 115 64), dset := BitVec.ofNat 16 (nbits h 143 128), lines := BitVec.ofNat 8 (nbits h 151 144),
      op := BitVec.ofNat 8 op, asn := BitVec.ofNat 16 (nbits h 175 160), access := 0, payload := pay, badHeader := false }
  if p.leaves then s.sendPacket p
  else if 14 ≤ kind ∨ nbits h 47 42 ≠ 0 ∨ nbits h 127 116 ≠ 0 ∨ nbits h 255 176 ≠ 0 then
    let d := nodeDie dst
    { s with net := { s.net with netErr := tabPut s.net.netErr d (tabGet 0 s.net.netErr d + 1) } }
  else if kind ≤ 4 then
    let line := kind == 0 && s.input.acc != .feRead
    let first := if line then nbits h 108 64 / 128 * 128 else nbits h 108 64
    let size := if line then 128 else if kind = 0 then 8 else if kind = 1 then max 1 (min s.input.size (128 - first % 128)) else 2 ^ (op / 16 % 8)
    let ag : Agent := .remote spkg (BitVec.ofNat 8 snode) p.sport
    (List.range (if line then nbits h 151 144 + 1 else 1)).foldl
      (fun s j =>
        let off := first + 128 * j
        let x : Access :=
          { id := 0, agent := ag
            op := (match kind with | 0 => .read | 1 => .write | 2 => .amo (BitVec.ofNat 4 op) | 3 => .cas | _ => .cas16)
            loc := .hbm off, ea := BitVec.ofNat 64 off, size := size, data := if kind = 0 then [] else pay.take size
            expect := if 3 ≤ kind then (pay.drop 16).take size else []
            fe := kind == 0 && !line, sc := false, fePage := s.input.flag, pub := false, cp := 0, acquire := none, dest := .none
            after := s.sameGranule ag (.hbm off) size, done := false, pc := BitVec.ofNat 64 tag, asn := 0, err := 0 }
        if s.hbmTop < off + size ∨ s.hbmTop ≤ off then
          let id := s.net.nextId
          let s1 := { s with net := { s.net with accesses := s.net.accesses ++ [{ x with id := id }], nextId := id + 1 } }
          s1.answer { x with id := id } (.error cBounds)
        else s.request x) s
  else if kind ≤ 7 then
    match s.net.accesses.find? (fun x =>
      x.id % 2 ^ 16 == tag && x.loc.far && !x.done && op != cUnbound) with
    | none => if kind = 7 then s.sendPacket p else s
    | some x =>
      match kind with
      | 5 =>
        let old := (pay.drop (if x.op = .read ∧ !x.fe then x.loc.key % 128 else 0)).take x.size
        (match x.op.effect old x.data x.expect with | some new => s.publishWritten x new | none => s).answer x (.data old)
      | 6 => (s.publishWritten x x.data).answer x .ack
      | _ => s.answer x (.error op)
  else if kind = 8 then s.sendPacket { p with access := 200 + l }
  else if kind = 9 ∨ kind = 12 ∨ kind = 13 then s.sendPacket p
  else s

/-- A good flit in order joins its virtual lane's buffer; a packet that is whole enters the package and returns its credits (R48, R49). -/
def State.takeFlit (s : State) (l : Nat) (f : Frame) : State :=
  let g := s.podLink l
  let vl := bits f 245 241
  let fs := (if bits f 240 240 = 1 then [] else tabGet [] g.rxBuf vl) ++ [f]
  let g1 := { g with rxNext := g.rxNext + 1, rxSince := g.rxSince + 1, nakSent := false, fails := 0, rxBuf := tabPut g.rxBuf vl fs }
  let g2 := if 32 ≤ g1.rxSince then g1.ack false else g1
  let bs := flitBytes fs
  let n := packetLength bs
  if bs.length < 32 ∨ bs.length < n then s.setPodLink l g2
  else
    let g3 := { g2 with rxBuf := tabPut g2.rxBuf vl [], txOut := g2.txOut ++ [controlFlit (g2.rxNext - 1) false vl fs.length], rxSince := 0 }
    (s.setPodLink l g3).podPacket l (bs.take n)

/-- A flit whose CRC fails is NAKed; the eighth failure in a row takes the link down (R49, R50). -/
def State.flitFails (s : State) (l : Nat) : State :=
  let g := s.podLink l
  let s1 := s.setPodLink l ({ g with fails := g.fails + 1 }.ack true)
  if 8 ≤ g.fails + 1 then s1.linkDown l else s1

/-- A pod link that works. -/
def State.podUp (s : State) (l : Nat) : Bool := s.boot.test.podLive l && (s.podLink l).up && decide (l < 12)

/-- POD_DATA_FLIT: the flit in the input's bytes arrives on the pod link that the input's number names (R47 to R50). -/
def execPodDataFlit (s : State) : Outcome State Fault Refusal :=
  let l := s.input.num
  let f := inFlit s
  .next (if !s.podUp l then s
    else if !flitGood f then s.flitFails l
    else if flitKind f ≠ 1 then s
    else if flitSeq f = (s.podLink l).rxNext then s.takeFlit l f
    else if (s.podLink l).nakSent then s
    else s.setPodLink l ((s.podLink l).ack true))

/-- Flits behind the one that an ACKSEQ names, with whether it names one of them. -/
def unackedAfter (fs : List Frame) (ack : BitVec 8) : Option (List Frame) :=
  match fs.findIdx? (fun f => flitSeq f == ack) with
  | some i => some (fs.drop (i + 1))
  | none => none

/-- POD_CONTROL_FLIT: acknowledged flits go, credits come back, and a NAK resends every flit after ACKSEQ (R48, R49). Only an ACKSEQ that names a
flit not acknowledged before counts as an acknowledgement that starts the 100 µs again (R50; assumption 102, DESIGN CHOICE). -/
def execPodControlFlit (s : State) : Outcome State Fault Refusal :=
  let l := s.input.num
  let f := inFlit s
  .next (if !s.podUp l then s
    else if !flitGood f then s.flitFails l
    else if flitKind f ≠ 2 then s
    else
      let g := s.podLink l
      let left := unackedAfter g.unacked (flitSeq f)
      let un := left.getD g.unacked
      let vl := bits f 244 240
      let g1 := { g with
        unacked := un, credits := g.credits.modify vl (· + bits f 239 232)
        ackDue := if left.isSome then s.time.cycle + 200000 else g.ackDue
        txOut := if bits f 245 245 = 1 then g.txOut ++ un else g.txOut }
      s.setPodLink l g1)

/-- POD_ACK_TIMER: a receiver acknowledges at least once every 64 cycles (R49). -/
def execPodAckTimer (s : State) : Outcome State Fault Refusal :=
  let l := s.input.num
  .next (if s.podUp l ∧ (s.podLink l).rxSince ≠ 0 then s.setPodLink l ((s.podLink l).ack false) else s)

/-- POD_LINK_TIMEOUT: 100 µs without an acknowledgement while flits are outstanding take a link down (R50). -/
def execPodLinkTimeout (s : State) : Outcome State Fault Refusal :=
  let l := s.input.num
  let s1 := s.elapse
  .next (if s1.podUp l ∧ (s1.podLink l).unacked ≠ [] ∧ (s1.podLink l).ackDue ≤ s1.time.cycle then s1.linkDown l else s1)

end Sys2Proof.Machine
end

