-- ==== Sys2Proof/Machine/Faults.lean ====
section
/-! DEFINITION. What die firmware does with a fault record: RESUME, ABANDON, and the service of a deferred leaf (R112, R202 to R206, R209). -/

namespace Sys2Proof.Machine

open Host (Outcome)

/-- The die whose firmware holds a record: a reticle engine's is on the first die of its reticle. -/
def faultDie (f : FaultRef) : Nat :=
  match f with
  | .port c _ => c.die.toNat
  | .copyEng r _ => 2 * r.toNat
  | .gatherEng r _ => 2 * r.toNat

/-- A multicast of core `k` that is stopped on a fault resumes at its line (R203, R223). -/
def EngOp.resumed (e : EngOp) (k : Nat) (f : FaultRec) : EngOp :=
  if e.stoppedAt k && e.fault == f then
    { e with unit := f.unit.toNat, lines := e.lines.filter (fun i => decide (i < f.unit.toNat)), fault := FaultRec.clear }
  else e

/-- A core's multicasts that are stopped on a fault resume, and the record of p0 that shows it is freed (R203, R209, R223). -/
def State.resumeMultis (s : State) (k : Nat) (f : FaultRec) : State :=
  let p := s.port k 0
  let s1 : State := { s with x := { s.x with multis := s.x.multis.map (fun (e : Nat × EngOp) => (e.1, e.2.resumed k f)) } }
  if p.fault = f then (s1.setPort k 0 { p with fault := { p.fault with valid := false } }).nextRecord k 0 else s1

/-- A port block's generator resumes at UNIT: its active stream issues from there (R203). A record of p0 that shows a multicast's fault resumes that
multicast (R223). The record takes the next fault that waits for it. -/
def State.resumePort (s : State) (k n : Nat) : State :=
  let p := s.port k n
  if !p.fault.valid then s
  else if s.multiHolds k n then (s.resumeMultis k p.fault).settle k
  else
    let u := p.fault.unit.toNat
    let p1 := { p with fault := { p.fault with valid := false } }
    let p2 := match p1.active with
      | some t => if p.fault.cause.toNat ≠ cBkpt ∧ u < t.unit then p1.setStream { t with unit := u } else p1
      | none => p1
    ((s.setPort k n p2).nextRecord k n).settle k

/-- An engine operation resumes at UNIT; a gather reads its index again (R203, R205). -/
def State.resumeEng (s : State) (copy : Bool) (ret slot : Nat) : State :=
  match s.engOp copy ret slot with
  | none => s
  | some e =>
    if !e.fault.valid then s
    else s.setEngOp copy ret slot { e with unit := e.fault.unit.toNat, index := none, fault := { e.fault with valid := false } }

/-- RESUME of a record (R202). -/
def State.resumeRecord (s : State) (f : FaultRef) : State :=
  match f with
  | .port c n => s.resumePort c.ix n.toNat
  | .copyEng r n => s.resumeEng true r.toNat n.toNat
  | .gatherEng r n => s.resumeEng false r.toNat n.toNat

/-- An engine operation whose fault is not serviced: fatal to its queue, whose record names the command of the work. That of die firmware's
own core is dropped and never completes (R112, R205). -/
def State.abandonEng (s : State) (copy : Bool) (ret slot : Nat) : State :=
  match s.engOp copy ret slot with
  | none => s
  | some e =>
    if !e.fault.valid then s
    else
      let cause := e.fault.cause.toNat
      match e.cmd, e.core with
      | some (q, n), _ => s.queueFatal q.toNat (some n) none stFault cause e.fault.va
      | none, some c => if (s.core c.ix).occ.isSome then s.coreFatal c.ix cause e.fault.va else s.dropEngOp copy ret slot
      | none, none => s.dropEngOp copy ret slot

/-- ABANDON of a record: the fault is unserviced (R112, R202). -/
def State.abandonRecord (s : State) (f : FaultRef) : State :=
  match f with
  | .port c n =>
    let r := (s.port c.ix n.toNat).fault
    if r.valid then s.coreFatal c.ix r.cause.toNat r.va else s
  | .copyEng r n => s.abandonEng true r.toNat n.toNat
  | .gatherEng r n => s.abandonEng false r.toNat n.toNat

/-- FAULT_RESUME: a write of RESUME to the record that the input names (R202, R203). -/
def execFaultResume (s : State) : Outcome State Fault Refusal :=
  .next (if s.fwActs (faultDie s.input.fault) then s.resumeRecord s.input.fault else s)

/-- FAULT_ABANDON: a write of ABANDON to the record that the input names (R112, R202). -/
def execFaultAbandon (s : State) : Outcome State Fault Refusal :=
  .next (if s.fwActs (faultDie s.input.fault) then s.abandonRecord s.input.fault else s)

/-- A record is stopped on a page with XLATE. -/
def FaultRec.onPage (f : FaultRec) (page size : Nat) : Bool :=
  f.valid && f.cause.toNat == cXlate && f.sp == 0 && decide (page ≤ f.va.toNat) && decide (f.va.toNat < page + size)

/-- Every agent of an address space that is stopped on a page walks again: multicasts, ports, engine operations, and control cores, which execute
their instruction again (R204, R206, R209). -/
def State.resumePage (s : State) (asn : BitVec 16) (page size : Nat) : State :=
  let multis := (s.x.multis.filter (fun e => e.2.asn == asn && e.2.fault.onPage page size)).filterMap (fun (e : Nat × EngOp) =>
    e.2.core.map (fun c => (c.ix, e.2.fault)))
  let s0 := multis.foldl (fun s e => s.resumeMultis e.1 e.2) s
  let ports := s0.cores.flatMap (fun c =>
    if s0.asnOf c.1 = asn then (c.2.ports.filter (fun p => p.2.fault.onPage page size)).map (fun p => (c.1, p.1)) else [])
  let s1 := ports.foldl (fun s p => s.resumePort p.1 p.2) s0
  let engs : Bool → Tab EngOp → State → State := fun copy t s =>
    (t.filter (fun e => e.2.asn == asn && e.2.fault.onPage page size)).foldl (fun s e => s.resumeEng copy (e.1 / 64) (e.1 % 64)) s
  let s2 := engs false s1.x.gathers (engs true s1.x.copies s1)
  let cores := (s2.cores.filter (fun c =>
    let r := c.2.ctl.r
    c.2.ctl.run == .stopped && s2.asnOf c.1 == asn && r.trapCause.toNat == cXlate && decide (page ≤ r.trapVal.toNat) &&
    decide (r.trapVal.toNat < page + size))).map (fun c => c.1)
  cores.foldl
    (fun s k =>
      let c := s.ctlAt k
      s.setCtlAt k { c with run := .running, r := { c.r with pc := c.r.trapPc } }) s2

/-- Service the deferred leaf that an address of an address space ends at: V is set, DEFER cleared, the write released at .pkg, and every
agent stopped on the page resumes (R204). -/
def State.serviceLeaf (s : State) (asn : BitVec 16) (va : Nat) : State :=
  match (s.rootOf asn).bind (fun t => s.leafPlace va 3 t) with
  | none => s
  | some (a, e, lv) =>
    if !deferredLeaf e lv then s
    else
      let size := 2 ^ levelBit lv
      ((s.store a (leBytes 8 (e - 2 ^ 7 + 1))).releaseBanks 0 5).resumePage asn (va / size * size) size

/-- DEFERRED_LEAF_SERVICE: of the address and the address space that the input gives (R204). -/
def execDeferredLeafService (s : State) : Outcome State Fault Refusal :=
  .next (if s.fwActs 0 then s.serviceLeaf s.input.asn s.input.addr.toNat else s)

end Sys2Proof.Machine
end

