-- ==== Sys2Proof/Machine/Queues.lean ====
section
/-! DEFINITION. Command queues: submission, loading, consumption and start of commands, SIGNAL, WAIT, COPY and QRESET, and completion records
(R44, R100 to R112, R118, R420). -/

namespace Sys2Proof.Machine

open Host (Outcome)

/-! ## Die firmware on die 0 -/

/-- A record of the completion buffer is free (R97). -/
def State.recordRoom (s : State) : Bool := decide (s.host.records.length < 1024)

/-- A command of a queue by its number. -/
def State.cmdAt (s : State) (q n : Nat) : Option Cmd := (s.queue q).cmds.find? (fun c => c.n == n)

def State.setCmd (s : State) (q : Nat) (c : Cmd) : State :=
  let x := s.queue q
  s.setQueue q { x with cmds := x.cmds.map (fun d => if d.n = c.n then c else d) }

def State.dropCmd (s : State) (q n : Nat) : State :=
  let x := s.queue q
  s.setQueue q { x with cmds := x.cmds.filter (fun d => d.n != n) }

/-- A command completes with one record (R110). -/
def State.finishCmd (s : State) (q : Nat) (c : Cmd) (status cause : Nat) (va : Word) : State :=
  ((s.dropCmd q c.n).record (s.cmdRecord q c status cause va)).drawn

/-- A queue works: it is active, and no QRESET is resetting it. What it holds when that ends neither starts nor goes on (R111, R112). -/
def Queue.works (x : Queue) : Bool := x.st == .active && x.resetBy == []

/-- Run a step of the started command that the input names, if it is one of the given code, its record has room and its queue works. -/
def State.withCmd (s : State) (op : Nat) (f : State → Nat → Cmd → State) : State :=
  let q := s.input.queue.toNat
  match s.cmdAt q s.input.num with
  | none => s
  | some c => if c.started && c.op == op && s.fwReady && s.recordRoom && (s.queue q).works then f s.elapse q c else s

/-! ## Reads and translations of die firmware in a queue's address space -/

/-- Translate for die firmware: a deferred leaf is serviced, and the walk made again (R117, R204). -/
def State.fwTranslate (s : State) (ret : Nat) (asn : BitVec 16) (va : Word) (acc : Acc) : Where × State :=
  match s.translate ret asn va acc with
  | (.fault c, s1) => if c = cXlate then (s1.serviceLeaf asn va.toNat).translate ret asn va acc else (.fault c, s1)
  | r => r

/-- A range cut at 64 KiB pages: address and length of each part. -/
def pageParts (va n : Nat) : List (Nat × Nat) :=
  let last := (va + n + 65535) / 65536
  ((List.range (last - va / 65536)).map (fun i =>
    let lo := max va ((va / 65536 + i) * 65536)
    (lo, min (va + n) ((va / 65536 + i + 1) * 65536) - lo))).filter (fun p => p.2 != 0)

/-- What a read of die firmware finds: the bytes, or the cause and the address of a fault. -/
abbrev FwRead := Except (Nat × Word) (List Byte)

/-- What a read of die firmware at a place finds: outside the package the bytes that the outside world put there, or an error response of the host
or of another package, whichever came (R30, R46, R50); within it, its bytes or poison (R40). -/
def State.fwTake (s : State) (l : Loc) (n : Nat) : Except Nat (List Byte) × State :=
  let pick := (Config.freeWord s.draws).toNat % 4
  let s1 : State := { s with draws := s.draws + n + 1 }
  let free : Except Nat (List Byte) := .ok (freeBytes (s.draws + 1) n)
  match l with
  | .host _ => (if pick = 0 then .error cPerm else if pick = 1 then .error cLinkDown else free, s1)
  | .remote g _ =>
    (if !s.reaches g.toNat 0 || pick == 0 then .error cLinkDown else if pick = 1 then .error cBounds else if pick = 2 then .error cEcc else free, s1)
  | _ =>
    match s.poisonedIn l.key n with
    | u :: _ => (.error cEcc, s.logUe u 0)
    | [] => (.ok (s.bytes l.key n), s)

/-- Read parts of a range one after another, translated in a reticle, under their pages' policies (R35, R117). -/
def State.fwParts (ret : Nat) (asn : BitVec 16) : List (Nat × Nat) → List Byte → State → FwRead × State
  | [], bs, s => (.ok bs, s)
  | (va, n) :: rest, bs, s =>
    match s.fwTranslate ret asn (BitVec.ofNat 64 va) .read with
    | (.at l a, s1) =>
      match (s1.touched l n a).fwTake l n with
      | (.ok b, s2) => State.fwParts ret asn rest (bs ++ b) s2
      | (.error c, s2) => (.error (c, BitVec.ofNat 64 va), s2)
    | (.hole _, s1) => (.error (cBounds, BitVec.ofNat 64 va), s1)
    | (.fault c, s1) => (.error (c, BitVec.ofNat 64 va), s1)
    | (.stall, s1) => (.error (cPerm, BitVec.ofNat 64 va), s1)

/-- Read a range. One that reaches beyond the last VA meets BOUNDS there. -/
def State.fwRead (s : State) (asn : BitVec 16) (va n : Nat) : FwRead × State := State.fwParts 0 asn (pageParts va n) [] s

/-! ## Commands and their defects (R106, R108) -/

def Cmd.barrier (c : Cmd) : Bool := (byteAt c.bytes 1).getLsbD 0

/-- The graph that a LAUNCH or RESTORE names. -/
def Cmd.graphVa (c : Cmd) : Nat := if c.op = opLaunch then fieldAt c.bytes 8 8 else fieldAt c.bytes 0x10 8

/-- The scope code of a SIGNAL, WAIT or COPY. -/
def Cmd.scope (c : Cmd) : Nat :=
  if c.op = opSignal ∨ c.op = opWait then fieldAt c.bytes 0x18 1 else if c.op = opCopy then fieldAt c.bytes 0x21 1 else 0

/-- Offsets from 8 upwards that a command's table assigns. -/
def operandBytes (op : Nat) : List (Nat × Nat) :=
  match op with
  | 1 => [(8, 24)]
  | 2 => [(8, 26)]
  | 3 => [(8, 26), (32, 40)]
  | 4 => [(8, 34)]
  | 5 => [(8, 14), (16, 25)]
  | 6 => [(8, 24)]
  | 7 => [(8, 14)]
  | _ => [(8, 10)]

/-- A byte that must be zero is not. -/
def Cmd.dirty (c : Cmd) : Bool :=
  byteAt c.bytes 2 != 0 || byteAt c.bytes 3 != 0 || decide (4 ≤ (byteAt c.bytes 1).toNat) ||
  (List.range 64).any (fun i =>
    decide (8 ≤ i) && !(operandBytes c.op).any (fun r => decide (r.1 ≤ i) && decide (i < r.2)) && byteAt c.bytes i != 0)

/-- The defects of a command that its bytes show (R108, R156). -/
def Cmd.defect (c : Cmd) : Bool :=
  let len := fieldAt c.bytes 0x18 8
  c.op == 0 || decide (8 < c.op) || c.dirty || decide (7 < c.scope) || (c.op == opSignal && decide (1 < fieldAt c.bytes 0x19 1)) ||
  (c.op == opWait && decide (1 < fieldAt c.bytes 0x19 1)) || (c.op == opCopy && (len == 0 || decide (2 ^ 40 < len))) ||
  (c.op == opCkpt && decide (2 < fieldAt c.bytes 0x18 1)) || (c.op == opQreset && decide (1023 < fieldAt c.bytes 8 2))

/-! ## Submission and loading (R44, R101, R102, R104, R105) -/

def State.tail (s : State) (q : Nat) : Nat := (tabGet 0 s.host.tails q).toNat

def State.setTail (s : State) (q t : Nat) : State :=
  { s with host := { s.host with tails := if t = 0 then tabDel s.host.tails q else tabPut s.host.tails q (BitVec.ofNat 64 t) } }

/-- The recorded tail exceeds the head by more than the ring (R104). -/
def State.overrun (s : State) (q : Nat) : Bool :=
  let x := s.queue q
  x.st == .active && x.resetBy == [] && decide (x.head + 2 ^ x.sqLog.toNat < s.tail q)

/-- An overrun faults the queue (R104, R112). -/
def State.overrunFatal (s : State) (q : Nat) : State := s.elapse.queueFatal q none none stOverrun 0 0

/-- SUBMISSION_WRITE: a host write of the input's size and value to the input's offset of BAR 0 (R44, R97, R102, R111). -/
def execSubmissionWrite (s : State) : Outcome State Fault Refusal :=
  let off := s.input.num
  let q := off / 8
  .next (
    if off % 8 ≠ 0 ∨ s.input.size ≠ 8 ∨ 0x2000 ≤ off ∨ s.boot.warming ∨ (s.queue q).resetBy ≠ [] then s
    else if s.input.word.toNat ≤ s.tail q then s
    else
      let s1 := s.setTail q s.input.word.toNat
      if s1.fwReady && s1.overrun q then s1.overrunFatal q else s1)

/-- QE_ERR of an entry of the queue table: zero where it may be loaded (R100, R101, R186). -/
def State.entryErr (s : State) (e : List Byte) : Nat :=
  let sq := fieldAt e 0 8
  let cq := fieldAt e 8 8
  let sqLog := fieldAt e 0x10 1
  let cqLog := fieldAt e 0x11 1
  if !(byteAt e 0x13).getLsbD 0 then 1
  else if sq % 4096 ≠ 0 ∨ cq % 4096 ≠ 0 ∨ 2 ^ 50 < sq + 64 * 2 ^ sqLog ∨ 2 ^ 50 < cq + 64 * 2 ^ cqLog ∨ sqLog < 4 ∨ 16 < sqLog ∨
      cqLog < 6 ∨ 16 < cqLog ∨ nbits (fieldAt e 0x12 1) 6 3 ≠ 0 ∨ fieldAt e 0x13 1 ≠ 1 ∨ fieldAt e 0x14 2 = 0 ∨ fieldAt e 0x16 2 ≠ 0 ∨
      fieldAt e 0x3A 6 ≠ 0 then 2
  else if s.hbmTop ≤ fieldAt e 0x18 8 then 3
  else 0

/-- QUEUE_LOAD: firmware loads the entry, which the input's bytes give, of an idle queue with a recorded tail (R101, R198). The records of
its earlier load are written first, and the invalidation of the address space completes (R210). -/
def execQueueLoad (s : State) : Outcome State Fault Refusal :=
  let q := s.input.queue.toNat
  let x := s.queue q
  let e := s.input.bytes
  .next (
    if !s.fwReady || (x.st != .idle && x.st != .refused) || x.resetBy != [] || s.tail q == 0 ||
        s.host.records.any (fun r => r.queue.toNat == q) then s
    else
      let err := s.entryErr e
      if err = 0 ∧ s.usesRange (BitVec.ofNat 16 (fieldAt e 0x14 2)) 0 0 then s
      else if err ≠ 0 then
        ((s.setQueue q { x with st := .refused, err := BitVec.ofNat 8 err }).setTail q 0).tellState q 3 err
      else
        let asn : BitVec 16 := BitVec.ofNat 16 (fieldAt e 0x14 2)
        let y : Queue :=
          { st := .active, err := 0, sqBase := BitVec.ofNat 64 (fieldAt e 0 8), cqBase := BitVec.ofNat 64 (fieldAt e 8 8),
            sqLog := BitVec.ofNat 8 (fieldAt e 0x10 1), cqLog := BitVec.ofNat 8 (fieldAt e 0x11 1),
            prio := BitVec.ofNat 3 (fieldAt e 0x12 1), intEn := (byteAt e 0x12).getLsbD 7, asn := asn,
            ptRoot := BitVec.ofNat 64 (fieldAt e 0x18 8), save := BitVec.ofNat 64 (fieldAt e 0x20 8), head := 0, written := 0, cmds := [],
            resetBy := [] }
        (((s.setQueue q y).invalidate asn 0 0).tellHead q 0).tellState q 1 0)

/-! ## Consumption and start (R103, R107, R108, R118) -/

/-- A command may start: every earlier one has, BARRIER and SIGNAL wait until they have completed, and all wait for an earlier WAIT, and for an
earlier STOP or QRESET to act, which they do as they start (R107). -/
def Queue.mayStart (x : Queue) (c : Cmd) : Bool :=
  let prior := x.cmds.filter (fun d => decide (d.n < c.n))
  (prior == [] || (!c.barrier && c.op != opSignal)) &&
  !prior.any (fun d => !d.started || d.op == opWait || ((d.op == opStop || d.op == opQreset) && d.left == 0))

/-- A command starts. The timeout of a WAIT runs from here, in cycles (R3, R106). -/
def State.startCmd (s : State) (q : Nat) (c : Cmd) : State :=
  let us := fieldAt c.bytes 0x20 8
  let deadline := if c.op = opWait ∧ us ≠ 0 then s.time.cycle + 2000 * us else 0
  s.setCmd q { c with started := true, time := s.timeOf 0, deadline := deadline }

/-- Free task records of the pool: a record is kept until its completion record is written (R108, R118). -/
def State.poolFree (s : State) : Nat := 4096 - s.sched.tasks.length - (s.host.records.filter (fun r => r.uid.isSome)).length

/-- The tasks of a LAUNCH or RESTORE exceed the free records: it waits unconsumed (R118). -/
def State.lacksRecords (s : State) (asn : BitVec 16) (c : Cmd) : Bool × State :=
  if !c.launches || c.defect then (false, s)
  else
    match s.fwRead asn c.graphVa 64 with
    | (.ok h, s1) => (decide (fieldAt h 6 2 ≤ 256) && decide (s1.poolFree < fieldAt h 6 2), s1)
    | (.error _, s1) => (false, s1)

/-! ## SIGNAL and WAIT (R106, R107, R420) -/

/-- What die firmware has issued and is not answered (R170). -/
def State.firmwareIds (s : State) : List Nat := ((s.outstanding (.firmware 0)).filter (fun x => !s.answered x)).map Access.id

/-- Issue an access of a SIGNAL or WAIT, as the control core of die 0's hub core: behind that core's earlier accesses where it releases. A SIGNAL to a
PUB page is delivered as it performs (R174, R176). -/
def State.fwAccess (s : State) (asn : BitVec 16) (op : ReqOp) (l : Loc) (a : Attr) (va : Word) (data : List Byte) (release : Bool)
    (acquire : Option Scope) : Nat × State :=
  let ag : Agent := .firmware 0
  let after := if release then s.firmwareIds ++ s.openIds (.ctl ⟨0, 0⟩) else s.sameGranule (.ctl ⟨0, 0⟩) l 8
  let x : Access :=
    { id := 0, agent := ag, op := op, loc := l, ea := va, size := 8, data := data, expect := [], fe := false, sc := false, fePage := a.fe,
      pub := a.pub && op != .read, cp := a.cp, acquire := acquire, dest := .fetch, after := after, done := false, pc := 0, asn := asn, err := 0 }
  (s.net.nextId, s.request x)

/-- A command's access has been answered: its access as it stands. -/
def State.cmdAnswer (s : State) (c : Cmd) : Option Access :=
  (c.access.bind s.findAccess).bind (fun x => if s.answered x then some x else none)

/-- A fault of a command's own work: fatal to its queue (R112). -/
def State.cmdFatal (s : State) (q : Nat) (c : Cmd) (cause : Nat) (va : Word) : State := s.queueFatal q (some c.n) none stFault cause va

/-- Check the address of a SIGNAL or WAIT and go on with its place (R208, R239). -/
def State.cmdPlace (s : State) (q : Nat) (c : Cmd) (acc : Acc) (f : State → Loc → Attr → State) : State :=
  let va : Word := BitVec.ofNat 64 (fieldAt c.bytes 8 8)
  if va.toNat % 8 ≠ 0 then s.cmdFatal q c (if acc = .rmw then cAtomicAlign else cMisalign) va
  else if va.toNat < 65536 then s.cmdFatal q c cBounds va
  else
    match s.fwTranslate 0 (s.queue q).asn va acc with
    | (.fault e, s1) => s1.cmdFatal q c e va
    | (.hole _, s1) => s1.cmdFatal q c cBounds va
    | (.stall, s1) => s1
    | (.at l a, s1) => f s1 l a

/-- One act of a SIGNAL: its release store or AMO.ADD leaves, or its answer completes it (R106, R420). -/
def State.signalStep (s : State) (q : Nat) (c : Cmd) : State :=
  let va : Word := BitVec.ofNat 64 (fieldAt c.bytes 8 8)
  match c.access with
  | none =>
    let op : ReqOp := if fieldAt c.bytes 0x19 1 = 0 then .write else .amo 0
    s.cmdPlace q c (if op = .write then .write else .rmw) (fun s l a =>
      let (id, s1) := (s.releaseBanks 0 (BitVec.ofNat 3 c.scope)).fwAccess (s.queue q).asn op l a va ((c.bytes.drop 0x10).take 8) true none
      s1.setCmd q { c with access := some id })
  | some _ =>
    match s.cmdAnswer c with
    | none => s
    | some x =>
      let s1 := s.dropAccess x.id
      if x.err ≠ 0 then s1.cmdFatal q c x.err.toNat va
      else (s1.dropCmd q c.n).record { s1.cmdRecord q c stOk 0 0 with doneT := BitVec.ofNat 96 (leNat x.expect) }

/-- SIGNAL (R106, R107, R420). -/
def execSignal (s : State) : Outcome State Fault Refusal := .next (s.withCmd opSignal State.signalStep)

/-- The condition of a WAIT: unsigned at least, or equal (R106). -/
def Cmd.holds (c : Cmd) (v : Nat) : Bool :=
  let want := fieldAt c.bytes 0x10 8
  if fieldAt c.bytes 0x19 1 = 0 then decide (want ≤ v) else v == want

/-- One act of a WAIT: a read leaves, or its answer completes the command or makes it read again (R106, R420). -/
def State.waitStep (s : State) (q : Nat) (c : Cmd) : State :=
  let va : Word := BitVec.ofNat 64 (fieldAt c.bytes 8 8)
  match c.access with
  | none =>
    s.cmdPlace q c .read (fun s l a =>
      let (id, s1) := s.fwAccess (s.queue q).asn .read l a va [] false (some (BitVec.ofNat 3 c.scope))
      s1.setCmd q { c with access := some id })
  | some _ =>
    match s.cmdAnswer c with
    | none => s
    | some x =>
      let s1 := s.dropAccess x.id
      if x.err ≠ 0 then s1.cmdFatal q c x.err.toNat va
      else
        let s2 := s1.acquireBanks 0 (BitVec.ofNat 3 c.scope)
        if c.holds (leNat x.data) then
          (s2.dropCmd q c.n).record { s2.cmdRecord q c stOk 0 0 with doneT := BitVec.ofNat 96 (leNat x.expect) }
        else s2.setCmd q { c with access := none }

/-- WAIT_COMMAND (R106, R420). -/
def execWaitCommand (s : State) : Outcome State Fault Refusal := .next (s.withCmd opWait State.waitStep)

/-- WAIT_TIMEOUT: the timeout of the WAIT that the input names has run out (R107). No address has failed, and its record's CR_VA is 0 (assumption
116, DESIGN CHOICE). -/
def execWaitTimeout (s : State) : Outcome State Fault Refusal :=
  .next (s.withCmd opWait (fun s q c =>
    if c.deadline = 0 ∨ s.time.cycle < c.deadline then s
    else (match c.access with | some id => s.dropAccess id | none => s).finishCmd q c stFault cWatchdog 0))

/-! ## COPY (R106, R420) -/

/-- The copy descriptor that a COPY command stands for (R339). -/
def Cmd.copyDesc (c : Cmd) : List Byte :=
  (c.bytes.drop 8).take 24 ++ leBytes 1 (fieldAt c.bytes 0x20 1 % 4) ++ leBytes 1 c.scope ++ List.replicate 38 0

/-- One act of a COPY command: it takes a slot of reticle 0's copy engine, or completes with the operation (R420). -/
def State.copyCmdStep (s : State) (q : Nat) (c : Cmd) : State :=
  match c.slot with
  | none =>
    match s.freeSlot true 0 with
    | none => s
    | some i =>
      let (op, s1) := s.freshId
      let e := newEngOp .copy c.copyDesc (s1.queue q).asn none (some (BitVec.ofNat 10 q, c.n)) op []
      (s1.setEngOp true 0 i e).setCmd q { c with slot := some (BitVec.ofNat 6 i) }
  | some i =>
    match s.engOp true 0 i.toNat with
    | none => s
    | some e =>
      if s.engDone true 0 i.toNat e then
        ((s.dropEngOp true 0 i.toNat).dropCmd q c.n).record
          { s.cmdRecord q c stOk 0 (BitVec.ofNat 64 (fieldAt c.bytes 0x18 8)) with doneT := e.doneT }
      else s

/-- COPY_COMMAND. -/
def execCopyCommand (s : State) : Outcome State Fault Refusal := .next (s.withCmd opCopy State.copyCmdStep)

/-! ## QRESET (R111) -/

/-- The target of a QRESET is idle, and every other QRESET that waited for this reset is reported (R111). -/
def State.freeQueue (s : State) (t : Nat) : State :=
  let x := s.queue t
  let s1 := (((s.setQueue t { x with st := .idle, err := 0, head := 0, cmds := [], resetBy := [] }).setTail t 0).tellHead t 0).tellState t 0 0
  x.resetBy.foldl
    (fun s r =>
      match s.cmdAt r.1.toNat r.2 with
      | some c => s.finishCmd r.1.toNat c stOk 0 0
      | none => s) s1

/-- The QRESET begins: an idle target is reported at once, with its recorded tail gone; another stops, and a reset in progress is waited for
(R111). -/
def State.qresetStep (s : State) (q : Nat) (c : Cmd) : State :=
  let t := fieldAt c.bytes 8 2
  let x := s.queue t
  let me : BitVec 10 × Nat := (BitVec.ofNat 10 q, c.n)
  if x.resetBy.contains me then s
  else if (x.st = .idle ∨ x.st = .refused) ∧ x.resetBy = [] then (s.freeQueue t).finishCmd q c stOk 0 0
  else
    let s1 := (if x.resetBy = [] then s.stopQueue t else s).setCmd q { c with left := 1 }
    let y := s1.queue t
    s1.setQueue t { y with resetBy := y.resetBy ++ [me] }

/-- QRESET (R111). -/
def execQreset (s : State) : Outcome State Fault Refusal := .next (s.withCmd opQreset State.qresetStep)

/-- QRESET_REPORT: of the target that the input names. Once it has drained, DISCARDED records are written for its commands, and once those
are in its ring the report follows; the queue is idle when that is written (R111). -/
def execQresetReport (s : State) : Outcome State Fault Refusal :=
  let t := s.input.queue.toNat
  .next (
    if (s.queue t).resetBy = [] ∨ !s.fwReady then s
    else
      let s1 := s.elapse.freeDead
      if !s1.drained t || s1.host.records.any (fun r => r.queue.toNat == t || r.frees == some s.input.queue) || !s1.recordRoom then s1
      else
        let x := s1.queue t
        let own : Cmd → Bool := fun c => x.resetBy.contains (BitVec.ofNat 10 t, c.n)
        let left := x.cmds.filter (fun c => !own c)
        if left ≠ [] then (left.map (s1.discardRecord t)).foldl State.record (s1.setQueue t { x with cmds := x.cmds.filter own }).drawn
        else
          match x.resetBy.findSome? (fun r => (s1.cmdAt r.1.toNat r.2).map (fun c => (r.1.toNat, c))) with
          | none => s1.freeQueue t
          | some (q, c) =>
            (((s1.dropCmd q c.n).record { s1.cmdRecord q c stOk 0 0 with frees := some s.input.queue }).drawn))

/-! ## Completion records (R110, R118) -/

/-- The bytes of record `k` of a queue (R110). -/
def Record.bytes (r : Record) (x : Queue) (phase : Nat) : List Byte :=
  leBytes 4 r.id.toNat ++ leBytes 2 r.task.toNat ++ leBytes 2 r.queue.toNat ++ leBytes 1 r.status.toNat ++ leBytes 1 r.cause.toNat ++
  List.replicate 6 0 ++ leBytes 8 x.head ++ leBytes 12 r.launchT.toNat ++ leBytes 12 r.doneT.toNat ++ leBytes 8 r.va.toNat ++
  leBytes 8 (r.flags.toNat / 2 * 2 + phase)

/-- The dependence counter of a task falls by one; at zero the task is ready from now on (R118). -/
def State.taskReady (s : State) (uid : Nat) : State :=
  match s.sched.tasks.find? (fun t => t.uid == uid) with
  | none => s
  | some t =>
    let t1 := { t with deps := t.deps - 1 }
    s.setTask (if t1.deps = 0 ∧ t1.st = .waiting then { t1 with st := .ready, readyT := s.clock } else t1)

/-- The record of a fatal event waits until the writes of the work that took it have performed (R110, R112). -/
def State.holdsRecord (s : State) (q : Nat) (r : Record) : Bool :=
  (s.queue q).st == .faulting && (r.status.toNat == stFault || r.status.toNat == stOverrun) && !s.drained q

/-- COMPLETION_RECORD: the oldest record of the input's queue is written to its ring once the host has consumed enough records: the input's
number is QE_CHEAD. Its successors' dependence counters fall (R110, R118); the target of a QRESET whose report it is, is idle (R111). A queue whose
fatal work has drained is faulted first (R112). -/
def execCompletionRecord (s : State) : Outcome State Fault Refusal :=
  let q := s.input.queue.toNat
  let s := s.settleFault q
  let x := s.queue q
  .next (match s.host.records.find? (fun r => r.queue.toNat == q) with
    | none => s
    | some r =>
      let n := 2 ^ x.cqLog.toNat
      if !s.fwReady || decide (s.input.num + n ≤ x.written) || s.holdsRecord q r then s
      else
        let s0 := s.elapse
        let bs := r.bytes x (1 - x.written / n % 2)
        let key := hostKey (x.cqBase.toNat + 64 * (x.written % n))
        let s1 := (s0.store key (bs.take 56)).store (key + 56) (bs.drop 56)
        let s2 := { s1.setQueue q { x with written := x.written + 1 } with
          host := { (s1.setQueue q { x with written := x.written + 1 }).host with records := s1.host.records.erase r } }
        let s3 := if x.intEn || r.msi then s2.msi q else s2
        let s4 := if r.status.toNat = stOk ∨ r.status.toNat = stStopped then r.succs.foldl State.taskReady s3 else s3
        match r.frees with
        | some t => s4.freeQueue t.toNat
        | none => s4)

end Sys2Proof.Machine
end

