-- ==== Sys2Proof/Machine/Graph.lean ====
section
/-! DEFINITION. Graph images and their checks (R115 to R117), placement (R122), and LAUNCH (R106, R118, R124, R131, R136, R197). -/

namespace Sys2Proof.Machine

open Host (Outcome)

/-! ## Writes of die firmware in a queue's address space -/

/-- The lines that a range touches: offset and length of the part in each. -/
def lineParts (va n : Nat) : List (Nat × Nat) :=
  (List.range ((va % 128 + n + 127) / 128)).map (fun i => (128 * i - va % 128, min n (128 * (i + 1) - va % 128) - (128 * i - va % 128)))

/-- Write requests of die firmware for another package, a line each (R52, R214). -/
def State.farPut (s : State) (ag : Agent) (d : Dest) (asn : BitVec 16) (l : Loc) (a : Attr) (va : Word) (bs : List Byte) : State :=
  (lineParts va.toNat bs.length).foldl
    (fun s p =>
      s.request
        { id := 0, agent := ag, op := .write, loc := l.plus p.1, ea := va + BitVec.ofNat 64 p.1, size := p.2, data := (bs.drop p.1).take p.2,
          expect := [], fe := false, sc := false, fePage := a.fe, pub := a.pub, cp := a.cp, acquire := none, dest := d, after := [],
          done := false, pc := 0, asn := asn, err := 0 }) s

/-- Die firmware writes bytes within a page: none, or the cause of a fault. A write to another package of which its writer takes up the answers
leaves as requests; of any other one, the outcome is what the outside world makes it (R30, R50, R197). -/
def State.fwStore (s : State) (ag : Agent) (d : Dest) (asn : BitVec 16) (l : Loc) (a : Attr) (va : Word) (bs : List Byte) : Option Nat × State :=
  match l with
  | .host _ =>
    let (id, s1) := (s.store l.key bs).freshId
    (none, if a.pub then s1.publish id (s1.agentNode ag) asn va.toNat bs else s.store l.key bs)
  | .remote g _ =>
    let pick := if d = .fetch then 4 else (Config.freeWord s.draws).toNat % 5
    if !s.reaches g.toNat 0 ∨ pick = 0 then (some cLinkDown, s.drawn)
    else if pick = 1 then (some cBounds, s.drawn)
    else if pick = 2 then (some cEcc, s.drawn)
    else if pick = 3 ∧ a.fe then (some cFeConflict, s.drawn)
    else (none, s.drawn.farPut ag d asn l a va bs)
  | _ =>
    let (id, s1) := s.freshId
    let x : Access :=
      { id := id, agent := ag, op := .write, loc := l, ea := va, size := bs.length, data := bs, expect := [], fe := false, sc := false,
        fePage := a.fe, pub := a.pub, cp := a.cp, acquire := none, dest := .none, after := [], done := false, pc := 0, asn := asn, err := 0,
        told := true }
    match s1.perform x with
    | (.error c, s2) => (some c, s2)
    | (_, s2) => (none, if a.pub then s2.publish id (s2.agentNode ag) asn va.toNat bs else s2)

/-- What a write of die firmware finds: done, the cause and the address of a fault, or a page that a checkpoint still copies. -/
inductive FwWrite where
  | done
  | fault (cause : Nat) (va : Word)
  | stall
  deriving DecidableEq, Repr

/-- Write parts of a range one after another. -/
def State.fwPutParts (ag : Agent) (d : Dest) (ret : Nat) (asn : BitVec 16) : List (Nat × Nat) → List Byte → State → FwWrite × State
  | [], _, s => (.done, s)
  | (va, n) :: rest, bs, s =>
    match s.fwTranslate ret asn (BitVec.ofNat 64 va) .write with
    | (.fault c, s1) => (.fault c (BitVec.ofNat 64 va), s1)
    | (.hole _, s1) => (.fault cBounds (BitVec.ofNat 64 va), s1)
    | (.stall, s1) => (.stall, s1)
    | (.at l a, s1) =>
      match s1.fwStore ag d asn l a (BitVec.ofNat 64 va) (bs.take n) with
      | (some c, s2) => (.fault c (BitVec.ofNat 64 va), s2)
      | (none, s2) => State.fwPutParts ag d ret asn rest (bs.drop n) s2

/-- Die firmware writes a range. -/
def State.fwWrite (s : State) (asn : BitVec 16) (va : Nat) (bs : List Byte) : FwWrite × State :=
  State.fwPutParts (.firmware 0) .none 0 asn (pageParts va bs.length) bs s

/-! ## The graph image (R115, R116) -/

/-- A task of a graph as its image gives it: descriptor, canonical graph and tile operands. -/
structure TaskImage where
  desc : List Byte
  graph : List Byte
  opers : List Byte
  deriving DecidableEq, Repr

/-- Regions of a task descriptor, as their records. -/
def descRegions (d : List Byte) : List (BitVec 64) :=
  (List.range (fieldAt d 0x0C 1)).map (fun r => BitVec.ofNat 64 (fieldAt d (0x40 + 8 * r) 8))

/-- Fields of a region record (R116). -/
def rgCells (r : BitVec 64) : Nat := bits r 7 0
def rgDie (r : BitVec 64) : Nat := bits r 15 8
def rgGroup (r : BitVec 64) : Nat := bits r 62 60
def rgOnDemand (r : BitVec 64) : Bool := r.getLsbD 63

/-- The stacks whose base dies a region names, once for each port, stack and link that it names (R11, R27, R122). -/
def rgStacks (r : BitVec 64) : List Nat :=
  (List.range 16).filter (fun n => (bits r 31 16).testBit n) ++ (List.range 16).filter (fun n => (bits r 47 32).testBit n) ++
  (((List.range 12).filter (fun l => (bits r 59 48).testBit l)).map podStack)

/-- The header is as R115 says. -/
def headerOk (h : List Byte) : Bool :=
  fieldAt h 0 4 == 0x47525048 && fieldAt h 4 2 == 1 && decide (1 ≤ fieldAt h 6 2) && decide (fieldAt h 6 2 ≤ 256) &&
  decide (fieldAt h 8 4 ≤ 4096) && fieldAt h 0x20 32 == 0

/-- A region record is as R116 says. -/
def regionOk (r : BitVec 64) : Bool := decide (1 ≤ rgCells r) && decide (rgCells r ≤ 15) && (decide (rgDie r ≤ 7) || rgDie r == 0xFF)

/-- Task flags. -/
def descResident (d : List Byte) : Bool := (byteAt d 0x0D).getLsbD 0
def descLatency (d : List Byte) : Bool := (byteAt d 0x0D).getLsbD 1
def descPinned (d : List Byte) : Bool := (byteAt d 0x0D).getLsbD 2

/-- A task descriptor is as R116 says; LATENCY stands only with RESIDENT (R117). -/
def descOk (d : List Byte) : Bool :=
  let n := fieldAt d 0x0C 1
  decide (fieldAt d 8 4 ≤ 2 ^ 24) && decide (1 ≤ n) && decide (n ≤ 8) && decide (fieldAt d 0x0D 1 < 8) &&
  (!descLatency d || descResident d) && fieldAt d 0x10 8 % 4096 == 0 && decide (fieldAt d 0x2C 4 ≤ 64) && fieldAt d 0x38 8 == 0 &&
  (descRegions d).all regionOk && (List.range 8).all (fun r => decide (r < n) || fieldAt d (0x40 + 8 * r) 8 == 0)

/-- Tile operands: VA, length, read and write flags (R116). -/
def operands (o : List Byte) : List (Nat × Nat × Bool × Bool) :=
  (List.range (o.length / 16)).map (fun i =>
    let w := fieldAt o (16 * i + 8) 8
    (fieldAt o (16 * i) 8, nbits w 47 0, w.testBit 62, w.testBit 63))

/-- Bits [61:48] of every operand are zero. -/
def operandsOk (o : List Byte) : Bool := (List.range (o.length / 16)).all (fun i => nbits (fieldAt o (16 * i + 8) 8) 61 48 == 0)

/-- The edge table: predecessor and successor of each edge (R115). -/
def edgesOf (e : List Byte) : List (Nat × Nat) := (List.range (e.length / 4)).map (fun i => (fieldAt e (4 * i) 2, fieldAt e (4 * i + 2) 2))

/-- Tasks that still wait after every task without a waiting predecessor has gone, `fuel` times. -/
def waitingTasks (edges : List (Nat × Nat)) : Nat → List Nat → List Nat
  | 0, l => l
  | n + 1, l => waitingTasks edges n (l.filter (fun i => edges.any (fun e => e.2 == i && l.contains e.1)))

/-- Edges name tasks of the graph and form no cycle (R117). -/
def edgesOk (n : Nat) (edges : List (Nat × Nat)) : Bool :=
  edges.all (fun e => decide (e.1 < n) && decide (e.2 < n)) && waitingTasks edges n (List.range n) == []

/-! ## Placement (R122) -/

/-- Manhattan distance of two cores of a die (R12). -/
def coreDist (a b : Nat) : Nat :=
  let d : Nat → Nat → Nat := fun x y => max x y - min x y
  d (a / 4) (b / 4) + d (a % 4) (b % 4)

/-- Insert a core in the order of distance and number. -/
def insertCore (cost : Nat → Nat) (c : Nat) : List Nat → List Nat
  | [] => [c]
  | b :: t => if cost c < cost b ∨ (cost c = cost b ∧ c < b) then c :: b :: t else b :: insertCore cost c t

/-- Give cores to the cells that no pin fixes, in order. -/
def fillCells : List (Option (BitVec 4)) → List Nat → List (BitVec 4)
  | [], _ => []
  | some c :: t, free => c :: fillCells t free
  | none :: t, c :: free => BitVec.ofNat 4 c :: fillCells t free
  | none :: t, [] => fillCells t []

/-- The cores of a region's cells on a die whose free cores are `avail` (R122). -/
def cellCores (r : BitVec 64) (pins : List (Option (BitVec 4))) (avail : List Nat) : List (BitVec 4) :=
  let entries := (rgStacks r).map (fun n => if n % 2 = 0 then 3 else 15)
  let cost : Nat → Nat := fun c => (entries.map (coreDist c)).sum
  let open_ := avail.filter (fun c => !pins.contains (some (BitVec.ofNat 4 c)))
  fillCells pins (open_.foldl (fun l c => insertCore cost c l) [])

/-- The pins of a region's cells. -/
def regionPins (info : GraphInfo) (ri : Nat) (r : BitVec 64) : List (Option (BitVec 4)) :=
  (List.range (rgCells r)).map (fun c => (info.pins.find? (fun p => p.1 == 16 * ri + c)).map (fun p => p.2))

/-- Free work cores of a die, of those of a list that no earlier region of the placement has taken. -/
def dieFree (free : List Nat) (taken : List Nat) (d : Nat) : List Nat :=
  (free.filter (fun k => k / 16 == d && k % 16 != 0 && !taken.contains k)).map (fun k => k % 16)

/-- A die meets the conditions for a region (R122). -/
def dieFits (t : SelfTest) (r : BitVec 64) (pins : List (Option (BitVec 4))) (avail : List Nat) (groups : List (Nat × Nat)) (d : Nat) : Bool :=
  let fixed := pins.filterMap id
  t.dieLive d && (rgDie r == 0xFF || rgDie r == d) && (rgStacks r).all (fun n => n / 2 == d) && decide (rgCells r ≤ avail.length) &&
  fixed.all (fun c => avail.contains c.toNat) && decide fixed.Nodup && (rgGroup r == 0 || !groups.contains (rgGroup r, d))

/-- The die for a region among those that it may stand on: the lowest-numbered of those whose free cores are fewest (R122). -/
def chooseDie (fits : Nat → Bool) (count : Nat → Nat) (dies : List Nat) : Option Nat :=
  (dies.filter fits).foldl
    (fun best d =>
      match best with
      | none => some d
      | some b => if count d < count b then some d else some b) none

/-- Place regions in ascending order: index and record of each, with the dies it may stand on. None where one finds no die (R122). -/
def placeRegions (t : SelfTest) (info : GraphInfo) (free : List Nat) :
    List (Nat × BitVec 64 × List Nat) → List Nat → List (Nat × Nat) → List (Nat × BitVec 3 × List (BitVec 4)) →
    Option (List (Nat × BitVec 3 × List (BitVec 4)))
  | [], _, _, out => some out
  | (ri, r, dies) :: rest, taken, groups, out =>
    let pins := regionPins info ri r
    let avail := dieFree free taken
    match chooseDie (fun d => dieFits t r pins (avail d) groups d) (fun d => (avail d).length) dies with
    | none => none
    | some d =>
      let cores := cellCores r pins (avail d)
      placeRegions t info free rest (taken ++ cores.map (fun c => 16 * d + c.toNat)) (groups ++ [(rgGroup r, d)])
        (out ++ [(ri, BitVec.ofNat 3 d, cores)])

/-- Regions of a list that are placed at dispatch, on any die. -/
def dispatchRegions (rs : List (BitVec 64)) : List (Nat × BitVec 64 × List Nat) :=
  (List.range rs.length).filterMap (fun i =>
    let r := rs.getD i 0
    if rgOnDemand r then none else some (i, r, List.range 8))

/-- The mapper's cells of every region of a task on a live build whose work cores are all free: none where a region, an ONDEMAND one by itself, finds
no place, or where the mapper fails (R117, R122, R124). -/
def mapFull (t : SelfTest) (info : GraphInfo) (graph : List Byte) (rs : List (BitVec 64)) : Option (List MappedCell) :=
  (placeRegions t info t.cores (dispatchRegions rs) [] [] []).bind (fun p =>
    ((List.range rs.length).mapM (fun i =>
      let r := rs.getD i 0
      (if rgOnDemand r then (placeRegions t info t.cores [(i, r, List.range 8)] [] [] []).map (p ++ ·) else some p).bind (fun all =>
        (Config.mapRegion graph t.shape all i).filter (fun cells => cells.length == rgCells r)))).map List.flatten)

/-- The checks of a canonical graph that the mapper makes as E201 and E202 (R124, R418): edges join like kinds, no input is bound twice, no output is
used twice, required inputs are bound, and every cycle passes a CARRY. -/
def graphSound (g : GraphInfo) : Bool :=
  let n := g.nodes.length
  g.typed && g.edges.all g.joins && decide ((g.edges.map (fun e => (e.dst, e.inp))).Nodup) && decide ((g.edges.map (fun e => (e.src, e.out))).Nodup) &&
  (List.range n).all g.fed && waitingTasks g.plainEdges n (List.range n) == []

/-! ## The save requirement (R131) -/

/-- The most tokens, headers included, that the parts of a site can emit under QSC, as its frames stand (R131, R257). -/
def Site.stateMost (x : Site) (i : Nat) : Nat :=
  let node : Nat → Nat := fun j => (if x.nodeRlen j then (x.share j).length + 2 else 0) + (if x.ownsMatrix j then 385 else 0)
  let mode := if !x.nodeRlen 0 && !x.nodeRlen 1 && !x.noNode then 2 else 0
  let op : Nat → Nat := fun m => match x.opKind i m with | 8 => 3 | 7 => 2 | _ => 0
  let tile :=
    match x.role with
    | 1 => 1025
    | 2 => (((List.range 4).filter (fun r => x.ringSlots r != 0)).map (fun r => x.ringSlots r + 2)).sum
    | 3 => 1026
    | _ => 0
  (if isCSite i then node 0 + node 1 + mode else 0) + ((List.range 4).map op).sum + (if isMSite i then tile else 0)

/-- The save requirement of cells: 80 KiB and 128 bytes a token for each, up to a multiple of 4 KiB (R131). -/
def saveNeed (cells : List MappedCell) : Nat :=
  let tokens : MappedCell → Nat := fun c => (c.frames.map (fun f => ({ Site.reset with frames := f.2 } : Site).stateMost f.1)).sum
  ((cells.map (fun c => 81920 + 128 * tokens c)).sum + 4095) / 4096 * 4096

/-! ## Reading and checking a graph (R117) -/

/-- What a check of a graph finds: its tasks and edges, or a refusal with the cause and the address of a read that failed, both zero where no
read did. -/
abbrev Graph := Except (Nat × Word) (List TaskImage × List (Nat × Nat))

/-- A refusal that no read caused. -/
def plainRefusal : Nat × Word := (0, 0)

/-- Read the canonical graph and the operands of each task. -/
def State.readTasks (asn : BitVec 16) : List (List Byte) → List TaskImage → State → Except (Nat × Word) (List TaskImage) × State
  | [], out, s => (.ok out, s)
  | d :: rest, out, s =>
    match s.fwRead asn (fieldAt d 0 8) (fieldAt d 8 4) with
    | (.error e, s1) => (.error e, s1)
    | (.ok g, s1) =>
      match s1.fwRead asn (fieldAt d 0x30 8) (16 * fieldAt d 0x2C 4) with
      | (.error e, s2) => (.error e, s2)
      | (.ok o, s2) => State.readTasks asn rest (out ++ [⟨d, g, o⟩]) s2

/-- A task of a graph may run on the live build (R108, R117, R122, R124, R131, R136). -/
def State.taskSound (s : State) (t : TaskImage) : Bool :=
  let info := s.graphInfo t.graph
  let d := t.desc
  let save := fieldAt d 0x18 8
  let bound := fieldAt d 0x28 4
  operandsOk t.opers && graphSound info &&
  (match mapFull s.boot.test info t.graph (descRegions d) with
   | some cells => save == 0 || decide (saveNeed cells ≤ save)
   | none => false) &&
  (bound == 0 || info.bounds.all (fun b => decide (b ≤ bound))) &&
  (List.range 16).all (fun c => !(fieldAt d 0x0E 2).testBit c || s.boot.test.chanLive c)

/-- Read and check the graph image at an address (R115 to R117). -/
def State.readGraph (s : State) (asn : BitVec 16) (va : Nat) : Graph × State :=
  match s.fwRead asn va 64 with
  | (.error e, s1) => (.error e, s1)
  | (.ok h, s1) =>
    if !headerOk h then (.error plainRefusal, s1)
    else
      let n := fieldAt h 6 2
      match s1.fwRead asn (fieldAt h 0x10 8) (128 * n) with
      | (.error e, s2) => (.error e, s2)
      | (.ok ds, s2) =>
        match s2.fwRead asn (fieldAt h 0x18 8) (4 * fieldAt h 8 4) with
        | (.error e, s3) => (.error e, s3)
        | (.ok es, s3) =>
          let descs := (List.range n).map (fun i => (ds.drop (128 * i)).take 128)
          let edges := edgesOf es
          if !descs.all descOk || !edgesOk n edges then (.error plainRefusal, s3)
          else
            match State.readTasks asn descs [] s3 with
            | (.error e, s4) => (.error e, s4)
            | (.ok ts, s4) => (if ts.all s4.taskSound then .ok (ts, edges) else .error plainRefusal, s4)

/-! ## LAUNCH (R106, R117, R118, R197) -/

/-- Empty every granule of the FE page that an address lies on (R197). -/
def State.emptyPage (s : State) (asn : BitVec 16) (va : Nat) : State :=
  match (s.rootOf asn).bind (fun t => s.leafPlace va 3 t) with
  | none => s
  | some (_, e, lv) =>
    let a := leafAttr e lv
    if malformed e lv || !a.fe then s
    else
      match s.checkPa (nbits e 51 16 * 65536) with
      | none => s
      | some l =>
        let lo := l.key / 8
        { s with m := { s.m with full := s.m.full.filter (fun g => !(decide (lo ≤ g) && decide (g < lo + a.size / 8))) } }

/-- Empty the FE pages that operands cover: every granule of each (R197). -/
def State.emptyOperands (s : State) (asn : BitVec 16) (ts : List TaskImage) : State :=
  (ts.flatMap (fun t => operands t.opers)).foldl
    (fun s o => (pageParts o.1 o.2.1).foldl (fun s p => s.emptyPage asn p.1) s) s

/-- The path bounds of each task are written at TD_BOUNDVA (R136). -/
def State.writeBounds (asn : BitVec 16) : List TaskImage → State → FwWrite × State
  | [], s => (.done, s)
  | t :: rest, s =>
    let va := fieldAt t.desc 0x20 8
    if va = 0 then State.writeBounds asn rest s
    else
      match s.fwWrite asn va ((s.graphInfo t.graph).bounds.flatMap (leBytes 4)) with
      | (.done, s1) => State.writeBounds asn rest s1
      | r => r

/-- The task records of a graph (R116, R118). -/
def State.newTasks (s : State) (q : Nat) (c : Cmd) (arg : Word) (ts : List TaskImage) (edges : List (Nat × Nat)) : List Task :=
  (List.range ts.length).map (fun i =>
    let t := ts.getD i ⟨[], [], []⟩
    let deps := (edges.filter (fun e => e.2 == i)).length
    { uid := s.sched.nextUid + i, queue := BitVec.ofNat 10 q, cmd := c.cmId, cmdN := c.n, index := BitVec.ofNat 16 i, desc := t.desc,
      graph := t.graph, opers := t.opers, arg := arg, deps := deps,
      succs := (edges.filter (fun e => e.1 == i)).map (fun e => s.sched.nextUid + e.2), st := if deps = 0 then .ready else .waiting,
      readyT := s.clock, leftT := 0, dispatchT := 0, launchT := none, doneT := 0,
      regions := (descRegions t.desc).map (fun r => ⟨r, 0, [], false, false, false, []⟩), scope := [], stopping := false, flags := 0, steps := 0,
      starts := [], saved := [] })

/-- Enter every task of a graph in the pool, once records are free for all of them (R118). The FE pages of its operands are emptied. -/
def State.enterTasks (s : State) (q : Nat) (c : Cmd) (arg : Word) (ts : List TaskImage) (edges : List (Nat × Nat)) : State :=
  let s1 := s.emptyOperands (s.queue q).asn ts
  let new := s1.newTasks q c arg ts edges
  let s2 := s1.setCmd q { c with left := new.length }
  { s2 with sched := { s2.sched with tasks := s2.sched.tasks ++ new, nextUid := s2.sched.nextUid + new.length } }

/-- A LAUNCH or RESTORE is refused: one record, with what a failed read met (R117). -/
def State.refuse (s : State) (q : Nat) (c : Cmd) (e : Nat × Word) : State := s.finishCmd q c stRefused e.1 e.2

/-- LAUNCH of a started command (R106, R117, R118). -/
def State.launchStep (s : State) (q : Nat) (c : Cmd) : State :=
  if c.left ≠ 0 then s
  else
    let asn := (s.queue q).asn
    match s.readGraph asn (fieldAt c.bytes 8 8) with
    | (.error e, s1) => s1.refuse q c e
    | (.ok (ts, edges), s1) =>
      if s1.poolFree < ts.length then s1
      else
        match State.writeBounds asn ts s1 with
        | (.stall, s2) => s2
        | (.fault cause va, s2) => s2.cmdFatal q c cause va
        | (.done, s2) => s2.enterTasks q c (BitVec.ofNat 64 (fieldAt c.bytes 0x10 8)) ts edges

/-- LAUNCH. -/
def execLaunch (s : State) : Outcome State Fault Refusal := .next (s.withCmd opLaunch State.launchStep)

end Sys2Proof.Machine
end

