-- ==== Sys2Proof/Machine/Checkpoint.lean ====
section
/-! DEFINITION. Checkpoints: requests, the cut, the background copy and the commit (R152 to R162, R351), and RESTORE (R163). -/

namespace Sys2Proof.Machine

open Host (Outcome)

/-! ## The cells of a task -/

/-- Cores whose occupant belongs to a task. -/
def State.taskCores (s : State) (uid : Nat) : List Nat :=
  (s.cores.filter (fun c => match c.2.occ with | some o => o.task == uid | none => false)).map (fun c => c.1)

/-- Loaded port blocks of a core. -/
def State.loadedPorts (s : State) (k : Nat) : List Nat := (List.range 16).filter (fun n => (s.site k (portSite n)).frames != [])

/-- A port block is a source: its stream position is a load's, and it has somewhere to send (R152, R255). -/
def State.isSource (s : State) (k n : Nat) : Bool := (s.port k n).sourceNow && s.outlets k n != []

/-- The source ports of a task: core and port. -/
def State.sources (s : State) (uid : Nat) : List (Nat × Nat) :=
  (s.taskCores uid).flatMap (fun k => ((s.loadedPorts k).filter (s.isSource k)).map (fun n => (k, n)))

/-- Source ports where QSC and SWP begin: an IDX stream takes them from its index input instead (R130, R145, R402). -/
def State.feeds (s : State) (p : Nat × Nat) : Bool :=
  match (s.port p.1 p.2).active with
  | some t => sbMode t.spb != 1
  | none => true

def State.feeders (s : State) (uid : Nat) : List (Nat × Nat) := (s.sources uid).filter s.feeds

/-- The sinks of a core, each with the count of step-level EORs that have aligned there and whether it has reported (R152, R260). -/
def State.sinks (s : State) (k : Nat) : List (Nat × Bool) :=
  ((s.loadedPorts k).filter (s.portSink k)).map (fun n => ((s.port k n).sunk, (s.port k n).reported)) ++
  (s.core k).sites.flatMap (fun x =>
    if !isCSite x.1 || x.2.frames == [] then []
    else ((List.range 2).filter x.2.nodeSink).map (fun j => ((x.2.ct.node j).sunk, (x.2.ct.node j).reported)))

def State.taskSinks (s : State) (uid : Nat) : List (Nat × Bool) := (s.taskCores uid).flatMap s.sinks

def State.findTask (s : State) (uid : Nat) : Option Task := s.sched.tasks.find? (fun t => t.uid == uid)

def State.stepLevel (s : State) (t : Task) : Nat := (s.graphInfo t.graph).stepLevel.toNat

/-! ## Saved ranges and blocks (R154, R155, R157, R160) -/

/-- Operands whose write flag is set, with their index (R154). -/
def savedOperands (o : List Byte) : List (Nat × Nat × Nat) :=
  ((operands o).mapIdx (fun i x => (i, x))).filterMap (fun p => if p.2.2.2.2 then some (p.1, p.2.1, p.2.2.1) else none)

/-- The attributes of the page that an address lies on, as its leaf gives them, and the page's address and size. -/
def State.leafAt (s : State) (root va : Nat) : Option (Attr × Nat) :=
  match s.leafPlace va 3 root with
  | some (_, e, lv) => if malformed e lv then none else some (leafAttr e lv, va / 2 ^ levelBit lv * 2 ^ levelBit lv)
  | none => none

/-- The leaves of the pages that a range touches, in ascending order. -/
def State.leavesOf (s : State) (root va len : Nat) : List (Option (Attr × Nat)) := (pageParts va len).map (fun p => s.leafAt root p.1)

/-- A saved range touches no FE page and spans pages of one format and geometry (R156). -/
def State.rangeOk (s : State) (root va len : Nat) : Bool :=
  let ls := (s.leavesOf root va len).filterMap id
  ls.all (fun l => !l.1.fe) && ls.all (fun l => ls.all (fun m => l.1.fmt == m.1.fmt && l.1.geo == m.1.geo))

/-- The saved ranges of a task with byte 24 of their entries: format, geometry and seed (R154, R160). -/
def State.savedRanges (s : State) (root : Nat) (t : Task) : List (Word × Nat × BitVec 8) :=
  (savedOperands t.opers).map (fun o =>
    let a := match ((s.leavesOf root o.2.1 o.2.2).filterMap id).head? with | some l => (l.1.fmt, l.1.geo) | none => (0, 0)
    let seed := if (s.graphInfo t.graph).seeds.contains o.1 then 128 else 0
    (BitVec.ofNat 64 o.2.1, o.2.2, BitVec.ofNat 8 (a.1 + 16 * a.2 + seed)))

/-- Insert a page in ascending order, once. -/
def insertPage (p : Nat × Nat) : List (Nat × Nat) → List (Nat × Nat)
  | [] => [p]
  | q :: t => if p.1 < q.1 then p :: q :: t else if p.1 = q.1 then q :: t else q :: insertPage p t

/-- The pages of saved ranges in ascending order: address and size. Where no leaf maps a part, the part's 64 KiB stand for it. -/
def State.savedPages (s : State) (root : Nat) (rs : List (Word × Nat × BitVec 8)) : List (Nat × Nat) :=
  (rs.flatMap (fun r => pageParts r.1.toNat r.2.1)).foldl
    (fun l p =>
      let page := match s.leafAt root p.1 with | some (a, va) => (va, a.size) | none => (p.1 / 65536 * 65536, 65536)
      insertPage page l) []

/-- Blocks of ranges: index, address and length of each (R155). -/
def blockList : Nat → List (Word × Nat × BitVec 8) → List (Nat × Nat × Nat)
  | _, [] => []
  | first, r :: rest =>
    (List.range (blocksOf r.2.1)).map (fun j => (first + j, r.1.toNat + 4096 * j, min 4096 (r.2.1 - 4096 * j))) ++
    blockList (first + blocksOf r.2.1) rest

/-! ## Areas and manifests (R155, R159, R160) -/

/-- Fields of an area header: slot length and the offsets of both slots. -/
structure Area where
  slotLen : Nat
  slot0 : Nat
  slot1 : Nat
  deriving DecidableEq, Repr

/-- The header in the first 4 KiB of an area: none where it breaks R155. -/
def areaOf (h : List Byte) : Option Area :=
  let len := fieldAt h 8 8
  let a := fieldAt h 0x10 8
  let b := fieldAt h 0x18 8
  if fieldAt h 0 4 = 0x434B5041 ∧ fieldAt h 4 2 = 1 ∧ fieldAt h 6 2 = 0 ∧ len % 65536 = 0 ∧ a % 65536 = 0 ∧ b % 65536 = 0 ∧ 65536 ≤ a ∧
      65536 ≤ b ∧ (a + len ≤ b ∨ b + len ≤ a) ∧ (h.drop 0x20).all (· == 0) then some ⟨len, a, b⟩ else none

/-- A manifest is valid in a slot (R159). -/
def manifestOk (m : List Byte) (slot : Nat) : Bool :=
  fieldAt m 0 4 == 0x4D414E49 && fieldAt m 4 2 == 1 && fieldAt m 6 1 == slot && fieldAt m 0xFFF8 8 == (crc64xz 0 (m.take 0xFFF8)).toNat

/-- Read the header and both manifests of an area. -/
def State.readArea (s : State) (asn : BitVec 16) (area : Nat) : Except (Nat × Word) (Option (Area × List Byte × List Byte)) × State :=
  match s.fwRead asn area 4096 with
  | (.error e, s1) => (.error e, s1)
  | (.ok h, s1) =>
    match areaOf h with
    | none => (.ok none, s1)
    | some a =>
      match s1.fwRead asn (area + a.slot0) 65536 with
      | (.error e, s2) => (.error e, s2)
      | (.ok m0, s2) =>
        match s2.fwRead asn (area + a.slot1) 65536 with
        | (.error e, s3) => (.error e, s3)
        | (.ok m1, s3) => (.ok (some (a, m0, m1)), s3)

/-- The slot of the newest valid manifest (R159). -/
def newest (m0 m1 : List Byte) : Option Nat :=
  match manifestOk m0 0, manifestOk m1 1 with
  | true, true => some (if fieldAt m0 8 8 < fieldAt m1 8 8 then 1 else 0)
  | true, false => some 0
  | false, true => some 1
  | false, false => none

/-- A location is of a destination kind (R155). -/
def Loc.ofKind (l : Loc) (kind : BitVec 2) : Bool :=
  match l with
  | .hbm _ => kind == 0
  | .host _ => kind == 1
  | .remote .. => kind == 2
  | _ => false

/-- A part of the area that translates lies where its kind says. -/
def State.partOfKind (s : State) (asn : BitVec 16) (kind : BitVec 2) (va : Nat) : Bool :=
  match (s.translate 0 asn (BitVec.ofNat 64 va) .read).1 with
  | .at l _ => l.ofKind kind
  | _ => true

/-- The checks of a request, in their order: true where one fails (R156). -/
def State.requestFails (s : State) (t : Task) (root : Nat) (asn : BitVec 16) (area : Nat) (kind : BitVec 2) : Bool × State :=
  match s.fwRead asn area 4096 with
  | (.error _, s1) => (true, s1)
  | (.ok h, s1) =>
    match areaOf h with
    | none => (true, s1)
    | some a =>
      let parts := area :: (pageParts (area + a.slot0) a.slotLen ++ pageParts (area + a.slot1) a.slotLen).map (fun p => p.1)
      let rs := s1.savedRanges root t
      (!parts.all (s1.partOfKind asn kind) || decide (a.slotLen < slotBytes (dataBlocks rs)) ||
        !rs.all (fun r => s1.rangeOk root r.1.toNat r.2.1), s1)

/-! ## Requests (R152, R156, R351) -/

/-- Set the EOR behind which each source of a task stops: its next of the step level or above; a source that is one behind another goes on
to the boundary that both reach (R152). -/
def State.armCut (s : State) (t : Task) : State :=
  let l := s.stepLevel t
  let src := s.sources t.uid
  let count : Nat × Nat → Nat := fun p => (s.port p.1 p.2).eors.getD l 0
  let top := (src.map count).foldl max 0
  src.foldl
    (fun s p =>
      let q := s.port p.1 p.2
      let own := q.eors.getD l 0
      s.setPort p.1 p.2 { q with cutAt := some (l, if top ≤ own + 1 then top + 1 else own + 1) }) s

/-- Step-level EORs that every sink of a task has seen: the greatest count. -/
def State.stepsSunk (s : State) (uid : Nat) : Nat := ((s.taskSinks uid).map (fun x => x.1)).foldl max 0

/-- Jobs of a task, oldest first. -/
def State.jobsOf (s : State) (uid : Nat) : List Ckpt := s.ckpt.jobs.filter (fun j => j.task == uid)

/-- Two records of one job: a task has at most one job of an area before the cut, and at most one behind it (R156, R351). -/
def Ckpt.same (a b : Ckpt) : Bool := a.task == b.task && a.area == b.area && a.cut == b.cut

def State.setJob (s : State) (old new : Ckpt) : State :=
  { s with ckpt := { s.ckpt with jobs := s.ckpt.jobs.map (fun j => if j.same old then new else j) } }

/-- The oldest job of a task, which has not been cut, begins to wait for its boundary. -/
def State.armFirst (s : State) (uid : Nat) : State :=
  match s.findTask uid, (s.jobsOf uid).head? with
  | some t, some j =>
    if j.cut || t.st != .running then s
    else (s.setJob j { j with step := BitVec.ofNat 64 (s.stepsSunk uid) }).armCut t
  | _, _ => s

/-- A completion of a checkpoint's request: that of a command completes it, that of an instruction stands alone (R159, R351). -/
def State.answerRequest (s : State) (q : Nat) (r : Nat × Record) (status cause : Nat) (va : Word) : State :=
  let doneT := if status = stOk then s.timeOf 0 else Config.openTime s.draws (3 * r.1 + 2)
  let rec' : Record := { r.2 with status := BitVec.ofNat 8 status, cause := BitVec.ofNat 8 cause, va := va, doneT := doneT }
  ((if r.1 = 0 then s else s.dropCmd q (r.1 - 1)).record rec').drawn

/-- Accept a request of a task, or fail it with CKPT_ABORT (R156). The spec gives no address there: it is free (assumption 50, DESIGN CHOICE). -/
def State.requestCkpt (s : State) (t : Task) (area : Word) (kind : BitVec 2) (r : Nat × Record) : State :=
  let q := t.queue.toNat
  let asn := (s.queue q).asn
  match s.rootOf asn with
  | none => s
  | some root =>
    match s.requestFails t root asn area.toNat kind with
    | (true, s1) => s1.drawn.answerRequest q r stFault cCkptAbort (Config.freeWord s1.draws)
    | (false, s1) =>
      match (s1.jobsOf t.uid).find? (fun j => !j.cut && j.area == area) with
      | some j => s1.setJob j { j with records := j.records ++ [r] }
      | none =>
        let j : Ckpt :=
          { task := t.uid, index := t.index, digest := sha384 t.graph, queue := t.queue, asn := asn, root := root, area := area,
            kind := kind, cut := false, cutTime := 0, slot := 0, slotVa := 0, seq := 0, step := 0, ranges := [], pages := [],
            started := false, positions := [], records := [r], abort := false }
        let s2 : State := { s1 with ckpt := { s1.ckpt with jobs := s1.ckpt.jobs ++ [j] } }
        if s1.jobsOf t.uid = [] then s2.armFirst t.uid else s2

/-- The running tasks of a queue that a command names: CM_ID of a LAUNCH or RESTORE and task index. -/
def State.namedTasks (s : State) (q : Nat) (id index : Nat) : List Task :=
  s.sched.tasks.filter (fun t => t.queue.toNat == q && t.cmd.toNat == id && (index == 0xFFFF || t.index.toNat == index))

/-- CKPT_COMMAND of a started command: a request of a running task, or BADCMD (R108, R156). -/
def State.ckptStep (s : State) (q : Nat) (c : Cmd) : State :=
  if s.ckpt.jobs.any (fun j => j.queue.toNat == q && j.records.any (fun r => r.1 == c.n + 1)) then s
  else
    match (s.namedTasks q (fieldAt c.bytes 8 4) (fieldAt c.bytes 0x0C 2)).find? (fun t =>
      fieldAt c.bytes 0x0C 2 != 0xFFFF && (t.st == .running || t.st == .draining)) with
    | some t =>
      s.requestCkpt t (BitVec.ofNat 64 (fieldAt c.bytes 0x10 8)) (BitVec.ofNat 2 (fieldAt c.bytes 0x18 1)) (c.n + 1, s.cmdRecord q c stOk 0 0)
    | none => s.finishCmd q c stBadCmd 0 0

/-- CKPT_COMMAND. -/
def execCkptCommand (s : State) : Outcome State Fault Refusal := .next (s.withCmd opCkpt State.ckptStep)

/-- A cell's request for a checkpoint: while die firmware restarts it is held with dispatch (R97, R351, R362). -/
def State.askCkpt (s : State) (t : Task) (area : Word) (kind : BitVec 2) (r : Record) : State :=
  if s.fwReady then s.requestCkpt t area kind (0, r) else { s with ckpt := { s.ckpt with asked := s.ckpt.asked ++ [(t.uid, area, kind, r)] } }

/-- Dispatch goes on, and takes up the requests that it has held. -/
def State.takeAsked (s : State) : State :=
  s.ckpt.asked.foldl
    (fun s a =>
      match s.findTask a.1 with
      | some t => s.requestCkpt t a.2.1 a.2.2.1 (0, a.2.2.2)
      | none => s)
    { s with ckpt := { s.ckpt with asked := [] } }

/-- `ckpt sA, kind` (R351): the issue checks, and then a request whose record has no command. -/
def execCkpt (a : Reg) (kind : BitVec 2) (s : State) : Outcome State Fault Refusal :=
  .next (s.whenReady [a] (fun s =>
    let va := s.reg a
    if s.firmware ∨ kind = 3 then s.faultTrap cIllegal 0
    else
      s.readDesc va 4096 4096 (fun _ s0 =>
        let s := s0.elapse
        match s.taskOf s.me with
        | none => s.advancePc
        | some t =>
          let r : Record :=
            { queue := t.queue, id := BitVec.allOnes 32, task := t.index, status := 0, cause := 0, launchT := s.timeOf 0, doneT := 0, va := 0,
              flags := 0, msi := false, uid := none, succs := [], frees := none }
          (s.askCkpt t va kind r).advancePc)))

/-! ## The cut (R152, R153, R157) -/

/-- The position of a source generator: region, cell, port, round and the unit that it holds, the next to hand on (R152, R160). -/
def State.position (s : State) (k n : Nat) : List Byte :=
  match (s.core k).occ with
  | none => []
  | some o =>
    let p := s.port k n
    let unit := match p.active with | some t => t.handed | none => 0
    leBytes 1 o.region.toNat ++ leBytes 1 o.cell.toNat ++ leBytes 1 n ++ leBytes 1 (p.round % 64) ++ leBytes 8 unit ++ leBytes 4 0

/-- The step boundary has come: every source stands behind its EOR or has nothing to issue, the EOR has aligned at every sink, every port's
writes are acknowledged, no access is on its way to a saved page, and no agent of the task waits for the service of a fault (R152, R157, R209). -/
def State.atBoundary (s : State) (j : Ckpt) (pages : List (Nat × Nat)) : Bool :=
  let sinks := s.taskSinks j.task
  let c := s.stepsSunk j.task
  (s.sources j.task).all (fun p => (s.port p.1 p.2).atCut || (s.port p.1 p.2).items == []) &&
  (sinks.all (fun x => x.2) || (sinks.all (fun x => x.1 == c) && decide (j.step.toNat < c))) &&
  (s.taskCores j.task).all (fun k => (s.core k).ports.all (fun p => p.2.writes == []) && !s.agentStopped k && (s.core k).ctl.late.isNone) &&
  pages.all (fun p => !s.usesRange j.asn (p.1 / 65536) ((p.2 + 65535) / 65536))

/-- Set COW in a page's leaf and invalidate the page (R152, R157). -/
def State.setCow (s : State) (asn : BitVec 16) (root page : Nat) : State :=
  match s.leafPlace page 3 root with
  | none => s
  | some (a, e, lv) =>
    let s1 := if e.testBit 4 then s else s.store a (leBytes 8 (e + 2 ^ 4))
    s1.invalidate asn (page / 65536) (2 ^ levelBit lv / 65536)

/-- The reticles whose checkpoint engines are in service (R13). -/
def State.ckptEngines (s : State) : List Nat := (List.range 4).filter (fun r => (s.boot.test.engineStack r).isSome)

/-- The cut of a job at its boundary: COW on every saved page, the cut instant, the positions, and the sources' release (R152). -/
def State.cutJob (s : State) (t : Task) (j : Ckpt) : State :=
  let rs := s.savedRanges j.root t
  let pages := s.savedPages j.root rs
  if !s.atBoundary j pages then s
  else
    let engines := s.ckptEngines
    let s1 := pages.foldl (fun s p => s.setCow j.asn j.root p.1) s
    let src := s1.sources t.uid
    let j' : Ckpt :=
      { j with
        cut := true, cutTime := s1.timeOf 0, step := t.steps + BitVec.ofNat 64 (s1.stepsSunk t.uid), ranges := rs,
        pages := pages.mapIdx (fun i p => (BitVec.ofNat 64 p.1, p.2, engines.getD (i % engines.length) 0)),
        positions := src.flatMap (fun p => s1.position p.1 p.2) }
    src.foldl (fun s p => s.setPort p.1 p.2 { s.port p.1 p.2 with cutAt := none }) (s1.setJob j j')

/-- CHECKPOINT_CUT: of the task whose identity the input's number gives (R152). -/
def execCheckpointCut (s : State) : Outcome State Fault Refusal :=
  .next (match s.findTask s.input.num, (s.jobsOf s.input.num).head? with
    | some t, some j => if s.fwReady && !j.cut && t.st == .running then s.elapse.cutJob t j else s
    | _, _ => s)

/-! ## The copy (R157 to R162) -/

/-- End a job: its requests are answered, COW is cleared on the pages it has not copied, and the task's next job waits for its boundary. -/
def State.endJob (s : State) (j : Ckpt) (status cause : Nat) (va : Word) : State :=
  let s1 := s.dropJobs (fun c => c.same j)
  (j.records.foldl (fun s r => s.answerRequest j.queue.toNat r status cause va) s1).armFirst j.task

/-- The job's own work takes a fault on a read: fatal to its queue, in the name of its first command, or of its task (R112, R161). -/
def State.jobFatal (s : State) (j : Ckpt) (cause : Nat) (va : Word) : State :=
  match (j.records.map (fun r => r.1)).find? (fun n => n != 0), s.findTask j.task with
  | some n, _ => s.queueFatal j.queue.toNat (some (n - 1)) none stFault cause va
  | none, some t => s.queueFatal j.queue.toNat (some t.cmdN) (some t) stFault cause va
  | none, none => s.queueFatal j.queue.toNat none none stFault cause va

/-- Register a slot (R161). -/
def State.registerSlot (s : State) (asn : BitVec 16) (va : Word) (blocks : Nat) : State :=
  { s with
    ckpt := { s.ckpt with registry := s.ckpt.registry.filter (fun r => !(r.1 == asn && r.2.1 == va)) ++ [(asn, va, blocks)] } }

/-- Whether writes to a job's slot are still on their way, and the address of one that an error response has answered: what a release at the area's
scope waits for (R155, R159, R170). What is written within the package or to the host has performed or been posted in order (R46). -/
def State.slotOpen (s : State) (j : Ckpt) (sel : Access → Bool) : Bool := s.net.accesses.any (fun x => j.writes x && sel x && !s.answered x)
def State.slotError (s : State) (j : Ckpt) : Option Word := (s.net.accesses.find? (fun x => j.writes x && x.err != 0)).map Access.ea

/-- Forget the slot's writes that have been answered. -/
def State.slotSettle (s : State) (j : Ckpt) : State :=
  { s with net := { s.net with accesses := s.net.accesses.filter (fun x => !(j.writes x && s.answered x)) } }

/-- Before the first write: the target slot is chosen, its MF_MAGIC zeroed, and the slot registered (R159, R161). None where the job ended or
waits. -/
def State.startCopy (s : State) (j : Ckpt) : Option Ckpt × State :=
  if j.started then (some j, s)
  else
    match s.readArea j.asn j.area.toNat with
    | (.error e, s1) => (none, s1.endJob j stFault cCkptAbort e.2)
    | (.ok none, s1) => (none, s1.drawn.endJob j stFault cCkptAbort (Config.freeWord s1.draws))
    | (.ok (some (a, m0, m1)), s1) =>
      let best := newest m0 m1
      let slot := match best with | some n => 1 - n | none => 0
      let seq := match best with | some n => fieldAt (if n = 0 then m0 else m1) 8 8 + 1 | none => 1
      let va := j.area.toNat + (if slot = 0 then a.slot0 else a.slot1)
      match State.fwPutParts (.ckptEng 0 j.task) .fetch 0 j.asn [(va, 4)] (leBytes 4 0) s1 with
      | (.stall, s2) => (none, s2)
      | (.fault _ v, s2) => (none, s2.endJob j stFault cCkptAbort v)
      | (.done, s2) =>
        let j' := { j with started := true, slot := slot, slotVa := BitVec.ofNat 64 va, seq := BitVec.ofNat 64 seq }
        (some j', (s2.setJob j j').registerSlot j.asn j'.slotVa (dataBlocks j.ranges))

/-- How the copy of blocks ends. -/
inductive CopyOut where
  | done
  | wait
  | dest (va : Word)
  | source (cause : Nat) (va : Word)
  deriving DecidableEq, Repr

/-- Copy blocks to a slot with their CRC (R155, R157). -/
def State.copyBlocks (ret : Nat) (j : Ckpt) : List (Nat × Nat × Nat) → State → CopyOut × State
  | [], s => (.done, s)
  | (ix, va, n) :: rest, s =>
    let ag : Agent := .ckptEng (BitVec.ofNat 2 ret) j.task
    match State.fwParts ret j.asn (pageParts va n) [] s with
    | (.error e, s1) => (.source e.1 e.2, s1)
    | (.ok bs0, s1) =>
      match s1.slotCheck ret j.asn va n with
      | (some v, s2) => (.source cEcc (BitVec.ofNat 64 v), s2)
      | (none, s2) =>
        let bs := (bs0 ++ List.replicate 4096 0).take 4096
        let blocks := dataBlocks j.ranges
        let dst := j.slotVa.toNat + 65536 + sidecarBytes blocks + 4096 * ix
        match State.fwPutParts ag .fetch ret j.asn (pageParts dst 4096) bs s2 with
        | (.fault _ v, s3) => (.dest v, s3)
        | (.stall, s3) => (.wait, s3)
        | (.done, s3) =>
          match State.fwPutParts ag .fetch ret j.asn [(j.slotVa.toNat + 65536 + 8 * ix, 8)] (leBytes 8 (crc64xz 0 bs).toNat) s3 with
          | (.fault _ v, s4) => (.dest v, s4)
          | (.stall, s4) => (.wait, s4)
          | (.done, s4) => State.copyBlocks ret j rest s4

/-- Blocks to copy with a page: those that touch it and no page that has been copied. -/
def Ckpt.blocksOfPage (j : Ckpt) (s : State) (page size : Nat) : List (Nat × Nat × Nat) :=
  let held : Nat → Bool := fun va =>
    match s.leafAt j.root va with
    | some (_, p) => j.pages.any (fun x => x.1.toNat == p)
    | none => true
  (blockList 0 j.ranges).filter (fun b =>
    decide (b.2.1 < page + size) && decide (page < b.2.1 + b.2.2) && held b.2.1 && held (b.2.1 + b.2.2 - 1))

/-- Copy the next page of an engine for a job (R157, R158, R162). -/
def State.copyPage (s : State) (ret : Nat) (j0 : Ckpt) (p : Word × Nat × Nat) : State :=
  match s.startCopy j0 with
  | (none, s1) => s1
  | (some j, s1) =>
    if let some va := s1.slotError j then s1.endJob j stFault cCkptAbort va
    else if s1.slotOpen j (fun x => x.ea == j.slotVa) then s1
    else
    match State.copyBlocks ret j (j.blocksOfPage s1 p.1.toNat p.2.1) s1 with
    | (.wait, s2) => s2
    | (.source c va, s2) => s2.jobFatal j c va
    | (.dest va, s2) => s2.endJob j stFault cCkptAbort va
    | (.done, s2) =>
      let s3 := s2.setJob j { j with pages := j.pages.filter (fun x => x != p) }
      if (s3.copying j.asn p.1.toNat).isSome then s3 else s3.clearCow j.asn j.root p.1

/-- CHECKPOINT_PAGE_COPY: the checkpoint engine of the input's reticle copies its next page, clears COW there and invalidates the page (R157,
R158). -/
def execCheckpointPageCopy (s : State) : Outcome State Fault Refusal :=
  let r := s.input.reticle.toNat
  .next (
    match s.ckpt.jobs.find? (fun j => j.cut && !j.abort && j.pages.any (fun p => p.2.2 == r)) with
    | none => s
    | some j =>
      match j.pages.find? (fun p => p.2.2 == r) with
      | some p => s.elapse.copyPage r j p
      | none => s)

/-- The bytes of a manifest ahead of its CRC (R160). -/
def State.manifest (s : State) (j : Ckpt) : List Byte :=
  let pad : Nat → List Byte → List Byte := fun n bs => (bs ++ List.replicate n 0).take n
  let ranges := (j.ranges.mapIdx (fun i r => (i, r))).flatMap (fun p =>
    leBytes 8 p.2.1.toNat ++ leBytes 8 p.2.2.1 ++ leBytes 8 (dataBlocks (j.ranges.take p.1)) ++ [p.2.2.2] ++ List.replicate 7 0)
  leBytes 4 0x4D414E49 ++ leBytes 2 1 ++ leBytes 1 j.slot ++ leBytes 1 j.kind.toNat ++ leBytes 8 j.seq.toNat ++ leBytes 8 j.step.toNat ++
  leBytes 12 j.cutTime.toNat ++ leBytes 2 j.index.toNat ++ leBytes 2 j.ranges.length ++ leBytes 2 (j.positions.length / 16) ++
  List.replicate 6 0 ++ digestBytes j.digest ++ pad 0x30 s.boot.test.shapeRecord ++ leBytes 8 (dataBlocks j.ranges) ++
  List.replicate 0x68 0 ++ pad 2048 ranges ++ pad 30720 j.positions ++ List.replicate (0xFFF8 - 0x8100) 0

/-- The manifest of a job is on its way to another package. -/
def State.manifestSent (s : State) (j : Ckpt) : Bool := s.net.accesses.any (fun x => j.writes x && x.agent == .firmware 0)

/-- Once every write to the slot is released, write the manifest, MF_CRC last, and once that is released too, complete the requests (R159). -/
def State.commit (s : State) (j0 : Ckpt) : State :=
  match s.startCopy j0 with
  | (none, s1) => s1
  | (some j, s1) =>
    if let some va := s1.slotError j then s1.endJob j stFault cCkptAbort va
    else if s1.slotOpen j (fun _ => true) then s1
    else if s1.manifestSent j then (s1.slotSettle j).endJob j stOk 0 0
    else
      let m := s1.manifest j
      match State.fwPutParts (.firmware 0) .fetch 0 j.asn (pageParts j.slotVa.toNat 65536) (m ++ leBytes 8 (crc64xz 0 m).toNat) (s1.slotSettle j) with
      | (.stall, s2) => s2
      | (.fault _ va, s2) => s2.endJob j stFault cCkptAbort va
      | (.done, s2) => if s2.manifestSent j then s2 else s2.endJob j stOk 0 0

/-- CHECKPOINT_COMMIT: of the task whose identity the input's number gives, once every page is copied (R159). -/
def execCheckpointCommit (s : State) : Outcome State Fault Refusal :=
  .next (match (s.jobsOf s.input.num).head? with
    | some j => if s.fwReady && j.cut && !j.abort && j.pages == [] && s.recordRoom then s.elapse.commit j else s
    | none => s)

/-! ## RESTORE (R163) -/

/-- Ranges of a manifest: address, length, first block, byte 24. -/
def manifestRanges (m : List Byte) : List (Nat × Nat × Nat × BitVec 8) :=
  (List.range (min 64 (fieldAt m 0x26 2))).map (fun i =>
    let o := 0x100 + 32 * i
    (fieldAt m o 8, fieldAt m (o + 8) 8, fieldAt m (o + 16) 8, byteAt m (o + 24)))

/-- Positions of a manifest, keyed by 256 × region + 16 × cell + port: unit and round. -/
def manifestPositions (m : List Byte) : List (Nat × Nat × Nat) :=
  (List.range (min 1920 (fieldAt m 0x28 2))).map (fun i =>
    let o := 0x900 + 16 * i
    (256 * fieldAt m o 1 + 16 * fieldAt m (o + 1) 1 + fieldAt m (o + 2) 1, fieldAt m (o + 4) 8, fieldAt m (o + 3) 1 % 64))

/-- How the write back of blocks ends: a mismatch at a block of the slot, or a fault of firmware's access. -/
inductive BackOut where
  | done
  | wait
  | differs (va : Nat)
  | fault (cause : Nat) (va : Word)
  deriving DecidableEq, Repr

/-- Every part of a target carries the recorded format and geometry. -/
def State.targetMatches (s : State) (asn : BitVec 16) (b : BitVec 8) (parts : List (Nat × Nat)) : Bool :=
  match s.rootOf asn with
  | none => false
  | some root =>
    parts.all (fun p =>
      match s.leafAt root p.1 with
      | some (a, _) => a.fmt == nbits b.toNat 3 0 && a.geo == nbits b.toNat 6 4
      | none => true)

/-- Write blocks back from a slot: block index, target, length and format byte of each; each is checked against the sidecar and its target's
format first (R161, R163). -/
def State.writeBackBlocks (asn : BitVec 16) (slot blocks : Nat) : List (Nat × Nat × Nat × BitVec 8) → State → BackOut × State
  | [], s => (.done, s)
  | (ix, va, n, b) :: rest, s =>
    let at_ := slot + 65536 + sidecarBytes blocks + 4096 * ix
    match s.fwRead asn at_ 4096 with
    | (.error e, s1) => (.fault e.1 e.2, s1)
    | (.ok bs, s1) =>
      match s1.fwRead asn (slot + 65536 + 8 * ix) 8 with
      | (.error e, s2) => (.fault e.1 e.2, s2)
      | (.ok crc, s2) =>
        if crc64xz 0 bs ≠ BitVec.ofNat 64 (leNat crc) ∨ !s2.targetMatches asn b (pageParts va n) then (.differs at_, s2)
        else
          match s2.fwWrite asn va (bs.take n) with
          | (.stall, s3) => (.wait, s3)
          | (.fault c v, s3) => (.fault c v, s3)
          | (.done, s3) => State.writeBackBlocks asn slot blocks rest s3

/-- Launch the graph of a RESTORE: the restored task carries its steps and positions on. The value of s1 at entry is not given: it is free. -/
def State.enterRestored (s : State) (q : Nat) (c : Cmd) (m : List Byte) (ts : List TaskImage) (edges : List (Nat × Nat)) : State :=
  let s1 := s.drawn.enterTasks q c (Config.freeWord s.draws) ts edges
  { s1 with
    sched := { s1.sched with
               tasks := s1.sched.tasks.map (fun t =>
                 if t.queue.toNat = q ∧ t.cmdN = c.n ∧ t.index.toNat = fieldAt m 0x24 2 then
                   { t with steps := BitVec.ofNat 64 (fieldAt m 0x10 8), starts := manifestPositions m }
                 else t) } }

/-- Step 3 and 4 of a RESTORE (R163). -/
def State.restoreRanges (s : State) (q : Nat) (c : Cmd) (slot : Nat) (m : List Byte) (ts : List TaskImage) (edges : List (Nat × Nat)) : State :=
  let asn := (s.queue q).asn
  let work := (manifestRanges m).flatMap (fun r =>
    (List.range (blocksOf r.2.1)).map (fun i => (r.2.2.1 + i, r.1 + 4096 * i, min 4096 (r.2.1 - 4096 * i), r.2.2.2)))
  match State.writeBackBlocks asn slot (fieldAt m 0x90 8) work s with
  | (.wait, s1) => s1
  | (.differs va, s1) => s1.finishCmd q c stFault cCkptAbort (BitVec.ofNat 64 va)
  | (.fault cause va, s1) => s1.cmdFatal q c cause va
  | (.done, s1) =>
    match State.writeBounds asn ts s1 with
    | (.stall, s2) => s2
    | (.fault cause va, s2) => s2.cmdFatal q c cause va
    | (.done, s2) => s2.enterRestored q c m ts edges

/-- RESTORE of a started command (R163). -/
def State.restoreStep (s : State) (q : Nat) (c : Cmd) : State :=
  let asn := (s.queue q).asn
  let area := fieldAt c.bytes 8 8
  if c.left ≠ 0 then s
  else
    match s.readArea asn area with
    | (.error e, s1) => s1.cmdFatal q c e.1 e.2
    | (.ok none, s1) => s1.drawn.finishCmd q c stFault cCkptAbort (Config.freeWord s1.draws)
    | (.ok (some (a, m0, m1)), s1) =>
      match newest m0 m1 with
      | none => s1.drawn.finishCmd q c stFault cCkptAbort (Config.freeWord s1.draws)
      | some n =>
        let m := if n = 0 then m0 else m1
        if (m.drop 0x60).take 36 ≠ s1.boot.test.shapeRecord then s1.finishCmd q c stShape 0 0
        else
          match s1.readGraph asn (fieldAt c.bytes 0x10 8) with
          | (.error e, s2) => s2.refuse q c e
          | (.ok (ts, edges), s2) =>
            let found : Bool := match ts[fieldAt m 0x24 2]? with
              | some t => digestBytes (sha384 t.graph) == (m.drop 0x30).take 48
              | none => false
            if !found then s2.refuse q c plainRefusal
            else if s2.poolFree < ts.length then s2
            else s2.restoreRanges q c (area + (if n = 0 then a.slot0 else a.slot1)) m ts edges

/-- RESTORE. -/
def execRestore (s : State) : Outcome State Fault Refusal := .next (s.withCmd opRestore State.restoreStep)

end Sys2Proof.Machine
end

