-- ==== Sys2Proof/Machine/Pool.lean ====
section
/-! DEFINITION. The ready pool: order, reservation, dispatch and loading (R118 to R127), the start release, STOP (R109), configuration requests
(R128, R346), and the completion of regions and tasks (R110, R260, R356). -/

namespace Sys2Proof.Machine

open Host (Outcome)

/-! ## Tasks -/

/-- Fields of a task's descriptor (R116). -/
def Task.sprint (t : Task) : Nat := fieldAt t.desc 0x0E 2
def Task.saveLen (t : Task) : Nat := fieldAt t.desc 0x18 8
def Task.latency (t : Task) : Bool := descLatency t.desc
def Task.pinned (t : Task) : Bool := descPinned t.desc

/-- A task is in the pool, and a task holds cores. -/
def Task.inPool (t : Task) : Bool := t.st == .ready || t.st == .preempted
def Task.placed (t : Task) : Bool := t.st == .configuring || t.st == .running || t.st == .draining

/-- QE_PRIO of a task, and its effective priority (R120). -/
def State.prioOf (s : State) (t : Task) : Nat := (s.queue t.queue.toNat).prio.toNat
def State.effective (s : State) (t : Task) : Nat :=
  min 7 (s.prioOf t + (s.clock - t.readyT) / (1000 * nsUnit) / s.sched.ageStep.toNat)

/-- A die is throttled (R99). -/
def State.throttled (s : State) (d : Nat) : Bool := s.thr d != 16

/-- Dies on which a task's cells run: those of its released regions. -/
def Task.runDies (t : Task) : List Nat := (t.regions.filter (fun r => r.placed && r.released)).map (fun r => r.die.toNat)

/-- Dies of a task's placed regions. -/
def Task.dies (t : Task) : List Nat := (t.regions.filter (fun r => r.placed)).map (fun r => r.die.toNat)

/-- A task that runs on a throttled die is marked, CR_FLAGS [2] (R99, R110). -/
def State.markThrottled (s : State) : State :=
  { s with
    sched := { s.sched with
               tasks := s.sched.tasks.map (fun t => if t.runDies.any s.throttled then { t with flags := t.flags ||| 4 } else t) } }

/-! ## Placement of tasks and requests (R121, R122, R128, R133, R143) -/

/-- Work cores that hold nothing, with those of a list counted as free, on dies whose firmware acts (R143, R361). -/
def State.freeCores (s : State) (extra : List Nat) : List Nat :=
  s.boot.test.cores.filter (fun k =>
    k % 16 != 0 && ((s.core k).occ.isNone || extra.contains k) && !s.claimed k && s.fwActs (k / 16))

/-- The regions to place for a task: at its first dispatch those that are not ONDEMAND, on any die; at a resumption those it had, on their
dies (R123, R128, R133). -/
def Task.toPlace (t : Task) : List (Nat × BitVec 64 × List Nat) :=
  if t.st = .preempted then
    (List.range t.regions.length).filterMap (fun i =>
      match t.regions[i]? with
      | some r => if r.placed then some (i, r.info, [r.die.toNat]) else none
      | none => none)
  else dispatchRegions (t.regions.map (fun r => r.info))

abbrev Placement := List (Nat × BitVec 3 × List (BitVec 4))

def State.placeTask (s : State) (t : Task) (extra : List Nat) : Option Placement :=
  placeRegions s.boot.test (s.graphInfo t.graph) (s.freeCores extra) t.toPlace [] [] []

/-- Channels that placed tasks hold, but for tasks of a list (R79, R120). -/
def State.heldChannels (s : State) (but : List Nat) : Nat :=
  ((s.sched.tasks.filter (fun t => t.placed && !but.contains t.uid)).map Task.sprint).foldl (fun a b => a ||| b) 0

/-- The lowest of .layer, .ret and .pkg that encloses dies (R18, R21). -/
def scopeOfDies (ds : List Nat) : Nat :=
  match ds with
  | [] => 5
  | d :: es => if es.all (· == d) then 2 else if es.all (fun e => e / 2 == d / 2) then 4 else 5

/-- The dies within that scope: of one die's cells its own, and where no region is placed, all (R21; assumption 125, DESIGN CHOICE). -/
def enclosing (ds : List Nat) : List Nat :=
  let d := ds.headD 0
  match scopeOfDies ds with
  | 2 => [d]
  | 4 => [2 * (d / 2), 2 * (d / 2) + 1]
  | _ => List.range 8

/-- The dies within the scope that a task's first placement has resolved, which holds for its life (R21, R125, R128). -/
def Task.scopeDies (t : Task) : List Nat := if t.scope = [] then enclosing t.dies else t.scope

/-- The region that a request names can be placed within the task's scope once every other region and task has gone (R128). -/
def State.placeEver (s : State) (t : Task) (ri : Nat) : Option Placement :=
  match t.regions[ri]? with
  | none => none
  | some r =>
    placeRegions s.boot.test (s.graphInfo t.graph) (s.boot.test.cores.filter (fun k => k % 16 != 0)) [(ri, r.info, t.scopeDies)] [] [] []

/-- Place the region that a request names: on the requester's die if it fits there (R128). -/
def State.placeRequest (s : State) (t : Task) (ri : Nat) (free : List Nat) : Option Placement :=
  match t.regions[ri]? with
  | none => none
  | some r =>
    let info := s.graphInfo t.graph
    let groups := (t.regions.filter (fun x => x.placed)).map (fun x => (rgGroup x.info, x.die.toNat))
    let on : List Nat → Option Placement := fun ds => placeRegions s.boot.test info free [(ri, r.info, ds)] [] groups []
    let dies := t.scopeDies
    let own := match r.waiters.head? with | some w => [w.1.die.toNat] | none => []
    match on (own.filter dies.contains) with
    | some p => some p
    | none => on dies

/-! ## Loading (R123, R126, R133) -/

/-- What a cell saved, if its task was pre-empted. -/
def Task.savedCell (t : Task) (region cell : Nat) : Option SavedCell :=
  t.saved.find? (fun c => c.region.toNat == region && c.cell.toNat == cell)

/-- Flow table entries that firmware sets up for the cell of core `k`: a direct target only to that cell, and only of a latency-class or pinned
task (R55, R59, R217). -/
def State.setFlows (s : State) (t : Task) (k : Nat) (mc : MappedCell) : State :=
  let bound : List Byte → Bool := fun b => !(byteAt b 0).getLsbD 1 || ((t.latency || t.pinned) && directKey b / 16 == k)
  (mc.flows.filter (fun f => bound f.2.2.1)).foldl
    (fun s f =>
      let e := s.eth f.1
      s.setEth f.1 { e with
        flows := tabPut e.flows f.2.1 (flowConfig (tabGet [] e.flows f.2.1) (fun i => f.2.2.1[i]?))
        credits := if (byteAt f.2.2.1 0).getLsbD 1 then tabPut e.credits (directKey f.2.2.1) f.2.2.2 else e.credits
        shares := if (byteAt f.2.2.1 0).getLsbD 1 then tabPut e.shares (directKey f.2.2.1) f.2.2.2 else e.shares }) s

/-- A ring that R58 allows: one of a vault's eight, at a multiple of 4 KiB, of 2^6 to 2^18 slots that lie in the vault. -/
def ringOk (r : Nat × Nat × Nat × Nat) : Bool :=
  decide (r.2.1 < 8) && r.2.2.1 % 4096 == 0 && decide (6 ≤ r.2.2.2) && decide (r.2.2.2 ≤ 18) && decide (r.2.2.1 + 128 * 2 ^ r.2.2.2 ≤ 0x3000000)

/-- Landing rings that firmware sets up for a cell at its first load; firmware sets up none that R58 does not allow. -/
def State.setRings (s : State) (mc : MappedCell) : State :=
  (mc.rings.filter ringOk).foldl
    (fun s r =>
      let g : LandRing := { base := r.2.2.1, slots := 2 ^ r.2.2.2, packets := [], tail := 0, served := 0 }
      { s with links := { s.links with rings := tabPut s.links.rings (8 * r.1 + r.2.1) g } }) s

/-- The vault grants in the frames of a cell that are in use, lowest first (R37, R313). -/
def frameGrants (fs : List (Nat × List Frame)) : List Nat :=
  match fs.find? (fun x => (sitePort x.1).isSome && x.2.length == 8) with
  | none => []
  | some x => ((List.range 8).map (fun g => bits (x.2.getD 7 0) (32 * g + 31) (32 * g))).filter (fun e => nbits e 26 17 != 0)

/-- The place of a cell's vault image: the region's first grant, from its first offset (R411). -/
def vaultImage (mc : MappedCell) : List (Nat × Nat × List Byte) :=
  match frameGrants mc.frames with
  | e :: _ =>
    if mc.vault = [] then []
    else [(Loc.key (.vault (16 * nbits e 2 0 + nbits e 6 3) (65536 * nbits e 16 7)), mc.vault.length, mc.vault)]
  | [] => []

/-- Load a cell on a core: its occupant, and its tiles' CFG marks with their frames on their configuration paths, with its images behind them (R126,
R411). A resumed cell's saved units wait behind an RST mark, and its vaults and rings keep what they hold (R133). Its flow table entries are set up
again (R59). -/
def State.loadCell (s : State) (t : Task) (region cell k : Nat) (mc : MappedCell) : State :=
  let saved := t.savedCell region cell
  let site : Nat × List Frame → Nat × Site := fun f =>
    (f.1, { Site.reset with path := cfgStream k f.2, rst := match saved with | some c => tabGet [] c.units f.1 | none => [] })
  let o : Cell :=
    { task := t.uid, region := BitVec.ofNat 3 region, cell := BitVec.ofNat 4 cell, queue := t.queue, asn := (s.queue t.queue.toNat).asn, age := 0,
      frozen := 0, configured := false, quiescing := false, ctlDone := false }
  let data : List (Nat × Nat × List Byte) :=
    match saved with
    | some x => (dmemKey k 0, 65536, []) :: x.dmem.map (fun b => (dmemKey k b.1, 1, [b.2]))
    | none => (dmemKey k 0, 65536, mc.data) :: vaultImage mc
  let c : CoreSt :=
    { CoreSt.reset false with
      occ := some o, images := (codeKey k 0, 65536, mc.code) :: data
      sites := (mc.frames.filter (fun f => f.2 != [])).foldl (fun a f => tabPut a f.1 (site f).2) [] }
  let s1 := (s.setCore k c).loadImages k
  (if saved.isSome then s1 else s1.setRings mc).setFlows t k mc

/-- The adders in the paths of a task's streams (R227). -/
def State.setAdders (s : State) (t : Task) : State :=
  ((s.graphInfo t.graph).adders).foldl
    (fun s a =>
      match s.cores.find? (fun c =>
        match c.2.occ with
        | some o => o.task == t.uid && o.region.toNat == a.region && o.cell.toNat == a.cell
        | none => false) with
      | none => s
      | some c =>
        s.setAdder a.place
          { bf16 := a.bf16, lFrom := a.lFrom, uFrom := a.uFrom, lCls := a.lCls, uCls := a.uCls, cls := a.cls, dst := coreNode c.1, dport := a.port, task := t.uid, l := [], u := [],
            runL := 0, runU := 0, blocked := none, cause := 0, next := a.next.map (fun n => (256 * (n.1.toNat + 1) + n.2.1.toNat, n.2.2)) }) s

/-- The die of a region of a placement (R123). -/
def regionDie (all : Placement) (r : Nat) : Option Nat := (all.find? (fun p => p.1 == r)).map (fun p => p.2.1.toNat)

/-- What a task's fields are resolved from: the dies of its scope, the regions whose dies its first dispatch has fixed, and every region that stands
now. -/
structure Binding where
  home : List Nat
  fixed : Placement
  all : Placement
  deriving DecidableEq, Repr

/-- The lowest scope code that encloses the parties of a field: .core for one cell, .layer for one region, else by their dies; a vault controller
raises it to .chip. An ONDEMAND region may come to stand on any die of the task's scope, so that the code holds for the task's life (R125). -/
def lowestScope (b : Binding) (parties : List (Nat × Nat)) (vaults : Bool) : Nat :=
  let dies := parties.flatMap (fun p => match regionDie b.fixed p.1 with | some d => [d] | none => b.home)
  let first := parties.headD (0, 0)
  let base :=
    if parties != [] && parties.all (· == first) then 1
    else if parties != [] && parties.all (fun p => p.1 == first.1) then 2
    else scopeOfDies dies
  if vaults then max 3 base else base

/-- The bits that a patch fills, its value, and where it stands (R123, R125, R415). The die of an ONDEMAND region that is not placed reads 0, and the
field is not filled in again when it is (assumption 127, DESIGN CHOICE). -/
def kindField (b : Binding) : PatchKind → Nat × Nat × Nat
  | .die16 r sh => (0, 16, (regionDie b.all r).getD 0 * 2 ^ sh)
  | .vdie r => (33, 3, (regionDie b.all r).getD 0)
  | .scope bit ps v => (bit, 3, lowestScope b ps v)

/-- The binding of a task whose regions stand as a placement says. -/
def Task.binding (t : Task) (all : Placement) : Binding :=
  let demand : Nat → Bool := fun i => match t.regions[i]? with | some r => r.onDemand | none => false
  ⟨t.scopeDies, all.filter (fun p => !demand p.1), all⟩

/-- A field of a number takes a value. -/
def setField (x : Nat) (f : Nat × Nat × Nat) : Nat :=
  x - x / 2 ^ f.1 % 2 ^ f.2.1 * 2 ^ f.1 + f.2.2 % 2 ^ f.2.1 * 2 ^ f.1

/-- A field of the 8 bytes at an offset of an image. -/
def patchBytes (bs : List Byte) (off : Nat) (f : Nat × Nat × Nat) : List Byte :=
  let full := bs ++ List.replicate (off + 8 - bs.length) 0
  full.take off ++ leBytes 8 (setField (fieldAt full off 8) f) ++ full.drop (off + 8)

/-- Patch a mapped cell. -/
def patchCell (mc : MappedCell) (place : PatchPlace) (f : Nat × Nat × Nat) : MappedCell :=
  match place with
  | .frame i n => { mc with frames := mc.frames.map (fun x => if x.1 = i then (i, x.2.modify n (fun y => BitVec.ofNat 256 (setField y.toNat f))) else x) }
  | .code off => { mc with code := patchBytes mc.code off f }
  | .data off => { mc with data := patchBytes mc.data off f }
  | .spb _ => mc

/-- The grants with W, and the shares of credits by destination, of the frames of a cell: die, vault and range; region, cell, port and class
(R37, R217, R313). -/
def writeGrants (fs : List (Nat × List Frame)) : List (Nat × Nat × Nat) :=
  ((frameGrants fs).filter (fun e => e.testBit 28)).map (fun e => (nbits e 6 0, nbits e 16 7, nbits e 26 17))

def bindShares (fs : List (Nat × List Frame)) : List (Nat × Nat) :=
  (fs.filter (fun x => (sitePort x.1).isSome && x.2.length == 8)).flatMap (fun x =>
    ((List.range 8).map (fun b => bits (x.2.getD 6 0) (32 * b + 31) (32 * b))).filterMap (fun e =>
      if e.testBit 0 then some (((nbits e 18 16 * 16 + nbits e 8 5) * 16 + nbits e 12 9) * 16 + nbits e 4 1, nbits e 22 19) else none))

/-- The port block that handles a class of a cell: the lowest with a handler for it. -/
def mappedPort (fs : List (Nat × List Frame)) (c : Nat) : Nat :=
  ((List.range 16).find? (fun n =>
    fs.any (fun x => x.1 == portSite n && x.2.length == 8 && bits (x.2.getD 4 0) (16 * c) (16 * c) == 1))).getD 0

/-- The share of a direct landing target (R59, R217). -/
def flowShares (region cell : Nat) (mc : MappedCell) : List (Nat × Nat) :=
  (mc.flows.filter (fun f => (byteAt f.2.2.1 0).getLsbD 1)).map (fun f =>
    let c := directKey f.2.2.1 % 16
    (((region * 16 + cell) * 16 + mappedPort mc.frames c) * 16 + c, f.2.2.2))

abbrev Mapped := List (Nat × BitVec 3 × List (BitVec 4 × MappedCell))

/-- Two write grants share bytes. -/
def grantsMeet (a b : Nat × Nat × Nat) : Bool := a.1 == b.1 && decide (a.2.1 < b.2.1 + b.2.2) && decide (b.2.1 < a.2.1 + a.2.2)

/-- The frames that a core holds or loads. -/
def CoreSt.frames (c : CoreSt) : List (Nat × List Frame) := c.sites.map (fun x => (x.1, x.2.coming))

/-- The shares of the regions of a task that are loaded: those of its send bindings, and of the direct landing targets at its cells (R217). -/
def State.loadedShares (s : State) (uid : Nat) : List (Nat × Nat) :=
  (s.cores.filter (fun c => match c.2.occ with | some o => o.task == uid | none => false)).flatMap (fun c =>
    let direct := match c.2.occ with
      | some o =>
        s.links.eth.flatMap (fun e => (e.2.shares.filter (fun x => x.1 / 16 == c.1)).map (fun x =>
          (((o.region.toNat * 16 + o.cell.toNat) * 16 + mappedPort c.2.frames (x.1 % 16)) * 16 + x.1 % 16, x.2)))
      | none => []
    bindShares c.2.frames ++ direct)

/-- The grant frames of a region's port blocks (R313). -/
def grantFrames (cells : List (BitVec 4 × MappedCell)) : List Frame :=
  cells.flatMap (fun c => (c.2.frames.filter (fun f => (sitePort f.1).isSome && f.2.length == 8)).map (fun f => f.2.getD 7 0))

/-- A class of a port on an area of a die's grid: the die, the lowest and highest rows, those of the columns, and the class. -/
abbrev ClassArea := Nat × (Nat × Nat) × (Nat × Nat) × Nat

/-- Two areas share a router and a class. -/
def areasMeet (a b : ClassArea) : Bool :=
  let meet : Nat × Nat → Nat × Nat → Bool := fun x y => decide (x.1 ≤ y.2) && decide (y.1 ≤ x.2)
  a.1 == b.1 && meet a.2.1 b.2.1 && meet a.2.2.1 b.2.2.1 && a.2.2.2 == b.2.2.2

/-- The areas that the stream paths of a cell's send bindings may cross: the rectangle between two cores of a die, or both dies whole. The spec gives
no path: this is the widest that a shortest one needs (R135; assumption 129, DESIGN CHOICE). -/
def classAreas (k : Nat) (fs : List (Nat × List Frame)) (find : Nat → Nat → Option Nat) : List ClassArea :=
  (fs.filter (fun x => (sitePort x.1).isSome && x.2.length == 8)).flatMap (fun x =>
    ((List.range 8).map (fun b => bits (x.2.getD 6 0) (32 * b + 31) (32 * b))).flatMap (fun e =>
      match (if e.testBit 0 then find (nbits e 18 16) (nbits e 8 5) else none) with
      | none => []
      | some j =>
        let c := nbits e 4 1
        let span : Nat → Nat → Nat × Nat := fun a b => (min a b, max a b)
        if j = k then []
        else if j / 16 = k / 16 then [(k / 16, span (k % 16 / 4) (j % 16 / 4), span (k % 4) (j % 4), c)]
        else [(k / 16, (0, 3), (0, 3), c), (j / 16, (0, 3), (0, 3), c)]))

/-- The core of a cell of a placement. -/
def placedCore (all : Placement) (r c : Nat) : Option Nat :=
  (all.find? (fun p => p.1 == r)).bind (fun p => (p.2.2[c]?).map (fun x => 16 * p.2.1.toNat + x.toNat))

/-- The cells of mapped regions: region, CELL, core and what the mapper gives. -/
def mappedCells (regs : Mapped) : List (Nat × Nat × Nat × MappedCell) :=
  regs.flatMap (fun r => r.2.2.mapIdx (fun i c => (r.1, i, 16 * r.2.1.toNat + c.1.toNat, c.2)))

/-- What the mapper gives is never other than this: its frames pass the CFG_BAD checks, the port blocks of a region hold one grant frame, a vault
image lies in the first grant, no byte range is granted with W to two regions of the task, and a class of a port has eight credits in all, at least
one for each that sends (R37, R124, R217, R313, R411). -/
def State.mappingSound (s : State) (t : Task) (regs : Mapped) : Bool :=
  let cells := mappedCells regs
  let shares := s.loadedShares t.uid ++ cells.flatMap (fun c => bindShares c.2.2.2.frames ++ flowShares c.1 c.2.1 c.2.2.2)
  cells.all (fun c =>
    c.2.2.2.frames.all (fun f => f.2 == [] || (s.badFrame { Site.reset with frames := f.2 } f.1 0).isNone) &&
    (match frameGrants c.2.2.2.frames with
     | e :: _ => decide (c.2.2.2.vault.length ≤ 65536 * nbits e 26 17)
     | [] => c.2.2.2.vault == []) &&
    (writeGrants c.2.2.2.frames).all (fun g => !cells.any (fun d => d.1 != c.1 && (writeGrants d.2.2.2.frames).any (grantsMeet g)))) &&
  regs.all (fun r => let fs := grantFrames r.2.2; fs.all (fun f => f == fs.headD 0)) &&
  shares.all (fun x => decide (1 ≤ x.2) && decide (((shares.filter (fun y => y.1 == x.1)).map (fun y => y.2)).sum ≤ 8))

/-- Nothing that stands now keeps mapped regions out: no live region is granted one of their bytes with W (R37), and no class of a stream path is one
that a latency-class task reserves there, on their side or on the other (R135). -/
def State.mappingFree (s : State) (t : Task) (all : Placement) (regs : Mapped) : Bool :=
  let live := s.cores.filter (fun c => c.2.occ.isSome)
  let mine := (mappedCells regs).flatMap (fun c => classAreas c.2.2.1 c.2.2.2.frames (placedCore all))
  let guarded : Cell → Bool := fun o =>
    o.task != t.uid && (t.latency || (match s.findTask o.task with | some u => u.latency | none => false))
  let others := live.flatMap (fun c =>
    match c.2.occ with
    | some o => if guarded o then classAreas c.1 c.2.frames (s.regionCore c.1) else []
    | none => [])
  (mappedCells regs).all (fun c => (writeGrants c.2.2.2.frames).all (fun g => !live.any (fun l => (writeGrants l.2.frames).any (grantsMeet g)))) &&
  !mine.any (fun a => others.any (areasMeet a))

/-- The mapper's cells for each placed region, with their fields filled in: none where it fails (R123 to R125). -/
def State.mapPlacement (s : State) (t : Task) (all new : Placement) : Option Mapped :=
  let ps := (s.graphInfo t.graph).patches
  let fill : Nat → Nat → MappedCell → MappedCell := fun r c mc =>
    (ps.filter (fun p => p.region == r && p.cell == c)).foldl (fun mc p => patchCell mc p.place (kindField (t.binding all) p.kind)) mc
  match new.mapM (fun p =>
    match Config.mapRegion t.graph s.boot.test.shape all p.1 with
    | none => none
    | some cells => if cells.length = p.2.2.length then some (p.1, p.2.1, p.2.2.zip (cells.mapIdx (fun c mc => fill p.1 c mc))) else none) with
  | none => none
  | some regs => if s.mappingSound t regs then some regs else none

/-- Die firmware fills in a place of a stream parameter block: the queue maps it read-only, which does not bind firmware (R123, R411; assumption 130,
DEDUCED). -/
def State.fwPatch (asn : BitVec 16) : List (Nat × Nat) → List Byte → State → FwWrite × State
  | [], _, s => (.done, s)
  | (va, n) :: rest, bs, s =>
    let w : Word := BitVec.ofNat 64 va
    match (match s.fwTranslate 0 asn w .write with
      | (.fault c, s1) => if c = cPerm then s1.fwTranslate 0 asn w .read else (.fault c, s1)
      | r => r) with
    | (.fault c, s1) => (.fault c w, s1)
    | (.hole _, s1) => (.fault cBounds w, s1)
    | (.stall, s1) => (.stall, s1)
    | (.at l a, s1) =>
      match s1.fwStore (.firmware 0) .none asn l a w (bs.take n) with
      | (some c, s2) => (.fault c w, s2)
      | (none, s2) => State.fwPatch asn rest (bs.drop n) s2

/-- The fields of stream parameter blocks of regions, which firmware fills in where the blocks stand (R123, R125). -/
def State.patchBlocks (asn : BitVec 16) (b : Binding) : List Patch → State → FwWrite × State
  | [], s => (.done, s)
  | p :: rest, s =>
    match p.place with
    | .spb va =>
      match s.fwRead asn va 8 with
      | (.error e, s1) => (.fault e.1 e.2, s1)
      | (.ok bs, s1) =>
        match State.fwPatch asn (pageParts va 8) (patchBytes bs 0 (kindField b p.kind)) s1 with
        | (.done, s2) => State.patchBlocks asn b rest s2
        | r => r
    | _ => State.patchBlocks asn b rest s

/-- The frame cache of each die of a placement holds the mappings of its regions (R124). A hit would give the same frames. -/
def State.cacheFrames (s : State) (t : Task) (new : Placement) : State :=
  let key := sha384 (t.graph ++ digestBytes (sha384 s.boot.test.shapeRecord))
  let add : List (Nat × BitVec 384 × List (BitVec 4)) → Nat × BitVec 3 × List (BitVec 4) → List (Nat × BitVec 384 × List (BitVec 4)) := fun l p =>
    if l.contains (p.2.1.toNat, key, p.2.2) then l else l ++ [(p.2.1.toNat, key, p.2.2)]
  { s with sched := { s.sched with frameCache := new.foldl add s.sched.frameCache } }

/-- The placement of regions that a task already holds. -/
def Task.placement (t : Task) : Placement :=
  (List.range t.regions.length).filterMap (fun i =>
    match t.regions[i]? with
    | some r => if r.placed then some (i, r.die, r.cores) else none
    | none => none)

/-- Load placed regions of a task: none where the mapper fails, while what stands now keeps them out, or while a checkpoint copies a page of a stream
parameter block. A fault there is fatal to the queue (R112). -/
def State.loadRegions (s0 : State) (t : Task) (all new : Placement) : Option State :=
  match (s0.mapPlacement t all new).filter (s0.mappingFree t all) with
  | none => none
  | some regs =>
    let blocks := (s0.graphInfo t.graph).patches.filter (fun p => new.any (fun r => r.1 == p.region))
    match State.patchBlocks (s0.queue t.queue.toNat).asn (t.binding all) blocks (s0.cacheFrames t new) with
    | (.stall, _) => none
    | (.fault c va, s) => some (s.queueFatal t.queue.toNat (some t.cmdN) (some t) stFault c va)
    | (.done, s) =>
    let s1 := regs.foldl
      (fun s r =>
        ((r.2.2.mapIdx (fun i c => (i, c))).foldl
          (fun s c => s.loadCell t r.1 c.1 (16 * r.2.1.toNat + c.2.1.toNat) c.2.2) s)) s
    let set : List RegionSt → Nat × BitVec 3 × List (BitVec 4) → List RegionSt := fun rs p =>
      rs.modify p.1 (fun r => { r with die := p.2.1, cores := p.2.2, placed := true, released := false, done := false })
    some (s1.setTask { t with regions := new.foldl set t.regions })

/-- A task as it is dispatched to its placement: its scope holds from the first on (R21, R122). -/
def State.dispatched (s : State) (t : Task) (p : Placement) : Task :=
  let scope := if t.scope = [] then enclosing (p.map (fun r => r.2.1.toNat)) else t.scope
  { t with st := .configuring, dispatchT := s.clock, scope := scope }

/-- A task leaves the pool with its record, the last of its launch if no other task of it is left (R110, R118). -/
def State.endTask (s : State) (t : Task) (status : Nat) : State :=
  let q := t.queue.toNat
  match s.cmdAt q t.cmdN with
  | none => s
  | some c =>
    let last := c.left ≤ 1
    let r : Record :=
      { queue := t.queue, id := c.cmId, task := t.index, status := BitVec.ofNat 8 status, cause := 0,
        launchT := t.launchT.getD (Config.openTime s.draws (3 * t.uid + 1)), doneT := t.doneT,
        va := 0, flags := t.flags ||| (if last then 2 else 0), msi := c.notify, uid := some t.uid, succs := t.succs, frees := none }
    let s1 := (if last then s.dropCmd q c.n else s.setCmd q { c with left := c.left - 1 }).drawn
    { s1 with
      sched := { s1.sched with
                 tasks := s1.sched.tasks.filter (fun u => u.uid != t.uid), requests := s1.sched.requests.filter (fun x => x.1 != t.uid) }
      net := { s1.net with adders := s1.net.adders.filter (fun a => a.2.task != t.uid) }
      host := { s1.host with records := s1.host.records ++ [r] } }

/-- The mapping of a task fails on cores that are free: its LAUNCH is refused, in every task of it that has not started (R124; assumption 128, DESIGN
CHOICE). -/
def State.refuseLaunch (s : State) (t : Task) : State :=
  let idle : Task → Bool := fun u =>
    u.queue == t.queue && u.cmdN == t.cmdN && (u.uid == t.uid || u.st == .waiting || u.st == .ready)
  (s.sched.tasks.filter idle).foldl (fun s u => s.endTask { u with doneT := Config.openTime s.draws (3 * u.uid) } stRefused) s

/-- Dispatch a task to its placement (R122, R124, R126). -/
def State.dispatch (s : State) (t : Task) (p : Placement) : Option State :=
  let t1 := s.dispatched t p
  if (s.mapPlacement t1 p p).isNone then (if s.recordRoom then some (s.refuseLaunch t) else none)
  else (s.loadRegions t1 p p).map (fun s1 => s1.setAdders t)

/-! ## Order and reservation (R120, R121) -/

/-- A task or a request of the pool, with what orders it. -/
structure Cand where
  eff : Nat
  time : Nat
  queue : Nat
  index : Nat
  uid : Nat
  region : Option Nat
  deriving DecidableEq, Repr

/-- One comes before another (R120). -/
def Cand.before (a b : Cand) : Bool :=
  if a.eff ≠ b.eff then decide (b.eff < a.eff)
  else if a.time ≠ b.time then decide (a.time < b.time)
  else if a.queue ≠ b.queue then decide (a.queue < b.queue)
  else decide (a.index < b.index)

def insertCand (a : Cand) : List Cand → List Cand
  | [] => [a]
  | b :: t => if a.before b then a :: b :: t else b :: insertCand a t

/-- What the pool considers, in order. -/
def State.candidates (s : State) : List Cand :=
  let cand : Task → Nat → Option Nat → Cand := fun t time r => ⟨s.effective t, time, t.queue.toNat, t.index.toNat, t.uid, r⟩
  let tasks := (s.sched.tasks.filter Task.inPool).map (fun t => cand t t.readyT none)
  let reqs := s.sched.requests.filterMap (fun q => (s.findTask q.1).bind (fun t => if t.placed then some (cand t q.2.2 (some q.2.1.toNat)) else none))
  (tasks ++ reqs).foldl (fun l c => insertCand c l) []

/-- Try to dispatch a candidate: none where it cannot be placed now. -/
def State.tryDispatch (s : State) (c : Cand) : Option State :=
  match s.findTask c.uid with
  | none => none
  | some t =>
    match c.region with
    | none =>
      if t.sprint &&& s.heldChannels [] ≠ 0 then none else (s.placeTask t []).bind (fun p => s.dispatch t p)
    | some ri =>
      if (match t.regions[ri]? with | some r => r.placed | none => true) then none
      else
      (s.placeRequest t ri (s.freeCores [])).bind (fun p =>
        (s.loadRegions t (t.placement ++ p) p).map (fun s1 =>
          { s1 with sched := { s1.sched with requests := s1.sched.requests.filter (fun q => !(q.1 == t.uid && q.2.1.toNat == ri)) } }))

/-! ## Pre-emption: victims and QSC (R129, R130) -/

/-- A task may be a victim for an effective priority (R129). -/
def State.isVictim (s : State) (eff : Nat) (t : Task) : Bool :=
  t.st == .running && decide (s.prioOf t < eff) && !t.latency && !t.pinned && t.saveLen != 0 &&
  !decide (s.clock < t.dispatchT + s.sched.preemptAge.toNat * (1000 * nsUnit))

/-- Victims in order: lowest QE_PRIO first, then the latest dispatch. -/
def State.insertVictim (s : State) (t : Task) : List Task → List Task
  | [] => [t]
  | u :: rest =>
    if s.prioOf t < s.prioOf u ∨ (s.prioOf t = s.prioOf u ∧ u.dispatchT < t.dispatchT) then t :: u :: rest else u :: s.insertVictim t rest

/-- A task can be placed once tasks of a list have left. -/
def State.placedWithout (s : State) (t : Task) (gone : List Nat) : Bool :=
  t.sprint &&& s.heldChannels gone == 0 && (s.placeTask t (gone.flatMap s.taskCores)).isSome

/-- The victims that let a task be placed: the first of the order, as many as it takes. None where not even all do. -/
def State.chooseVictims (s : State) (t : Task) : List Task → List Task → List Nat → Option (List Task)
  | rest, taken, gone =>
    if s.placedWithout t gone then some taken
    else
      match rest with
      | [] => none
      | v :: vs => s.chooseVictims t vs (taken ++ [v]) (gone ++ [v.uid])

/-- Inject a mark of die firmware or of the arbiter at the front of a source port's order, which stops behind it (R109, R130, R145). -/
def State.stopSource (s : State) (k n : Nat) (m : Token) : State :=
  let (op, s1) := s.freshId
  let p := s1.port k n
  s1.setPort k n { p with items := .mark m op false :: p.items, stopped := true }

/-- QSC at every source port of a list of cores, which stop behind it, and a trap for their control cores (R130, R132). -/
def State.quiesce (s : State) (cores : List Nat) (ports : List (Nat × Nat)) : State :=
  let s1 := ports.foldl (fun s p => s.stopSource p.1 p.2 (mkMark kQsc 0 0 (markOrigin p.1 17) 0)) s
  cores.foldl
    (fun s k =>
      let c := s.core k
      let run := c.ctl.run == .running || c.ctl.run == .stopped
      s.setCore k { c with occ := c.occ.map (fun o => { o with quiescing := true }), ctl := { c.ctl with preempt := run } }) s1

/-- Begin the pre-emption of a task: QSC at every source port of every cell, and a trap for every control core. It waits while a cell is in
an exchange or a restart is in progress on its dies. No frame lands for it any more (R59, R130, R132, R134). -/
def State.startPreempt (s : State) (t : Task) : State :=
  let cores := s.taskCores t.uid
  if cores.any s.claimed || !t.dies.all s.fwActs then s
  else
    let s2 := (cores.foldl State.clearFlows s).quiesce cores (s.feeders t.uid)
    match s2.findTask t.uid with
    | some u => s2.setTask { u with st := .draining }
    | none => s2

/-- A task that has waited unplaced for PREEMPTAGE, since it was ready or last pre-empted, pre-empts, unless the tasks that are leaving already make
room for it (R129). -/
def State.preemptFor (s : State) (c : Cand) : State :=
  match s.findTask c.uid with
  | none => s
  | some t =>
    if c.region.isSome || decide (s.clock < max t.readyT t.leftT + s.sched.preemptAge.toNat * (1000 * nsUnit)) then s
    else
      let leaving := (s.sched.tasks.filter (fun u => u.st == .draining)).map Task.uid
      let victims := (s.sched.tasks.filter (s.isVictim c.eff)).foldl (fun l v => s.insertVictim v l) []
      match s.chooseVictims t victims [] leaving with
      | some vs => vs.foldl State.startPreempt s
      | none => s

/-- One evaluation: each candidate in order; the first reserving one holds back later ones of equal or lower priority (R120, R121, R129). A waiting
configuration request may be that one (R128; assumption 126, DESIGN CHOICE). -/
def State.evaluate : List Cand → Option Cand → State → State
  | [], _, s => s
  | c :: cs, held, s =>
    let back : Bool := match held with | some h => decide (c.eff ≤ h.eff) && decide (h.time < c.time) | none => false
    if back then State.evaluate cs held s
    else
      match s.tryDispatch c with
      | some s1 => State.evaluate cs held s1
      | none =>
        let held' := if held.isNone ∧ s.older c.time s.sched.resvAge.toNat then some c else held
        State.evaluate cs held' (s.preemptFor c)

/-- POOL_EVALUATION (R120). A cell that has gone frees its core once its writes are acknowledged. -/
def execPoolEvaluation (s : State) : Outcome State Fault Refusal :=
  let s1 := s.elapse.freeDead
  .next (if !s1.fwReady || s1.sched.paused then s1 else let s2 := s1.takeAsked; State.evaluate s2.candidates none s2)

/-! ## Start release (R106, R109, R127, R133, R163) -/

/-- Every tile of a core has passed its CFG mark, and its images and its saved state have come. -/
def State.coreLoaded (s : State) (k : Nat) : Bool :=
  (s.core k).sites.all (fun x => x.2.passed && x.2.rst == []) && (s.core k).images == []

/-- A resumed port: its generator's position, its mode and its marks' counts, with the credits of its frame (R130, R133). -/
def Port.resumed (p saved : Port) : Port :=
  { saved with
    credits := p.credits, slots := [], outq := [], writes := [], held := [], stopped := false, saving := false, saved := [], blocked := none,
    cutAt := none }

/-- A withdrawn .fe load stands under its new identity in what the core's fences wait for (R331). -/
def Ctl.reissued (c : Ctl) (old new : Nat) : Ctl :=
  let name : Nat → Nat := fun i => if i = old then new else i
  { c with
    withdrawn := c.withdrawn.filter (fun w => w.1 != old)
    relWait := c.relWait.map name, acqWait := c.acqWait.map name, fullWait := c.fullWait.map name }

/-- The oldest withdrawn .fe load is issued again: it walks afresh, and its register stays pending (R133, R184; assumption 15, DEDUCED). A fault of
its walk is a precise trap at the boundary at which the core resumes, and the load is issued again once that is serviced; it waits for a page
that is still being copied (R158, R204). -/
def State.reissue (s : State) (k : Nat) : State :=
  match (s.ctlAt k).withdrawn with
  | [] => s
  | (old, va, r) :: _ =>
    let pc := (s.ctlAt k).r.pc
    match s.translate (reticleOf k) (s.asnOf k) va .feRead with
    | (.at l a, s1) =>
      let s2 := s1.setCtlAt k ((s1.ctlAt k).reissued old s1.net.nextId)
      s2.request
        { id := 0, agent := .ctl (coreOfIx k), op := .read, loc := l, ea := va, size := 8, data := [], expect := [], fe := true, sc := false,
          fePage := true, pub := false, cp := a.cp, acquire := none, dest := .reg r .d, after := s2.sameGranule (.ctl (coreOfIx k)) l 8,
          done := false, pc := pc, asn := s2.asnOf k, err := 0 }
    | (.fault c, s1) => s1.trapAt k c va pc
    | (.hole _, s1) => s1.trapAt k cBounds va pc
    | (.stall, s1) => s1

/-- What a fence still waits for after a pre-emption: withdrawn .fe loads (R132, R331). -/
def Ctl.fenceLeft (c : Ctl) (ids : List Nat) : List Nat := ids.filter (fun i => c.withdrawn.any (fun w => w.1 == i))

/-- A resumed control core: what a pre-emption saves, and everything else as a load leaves it; it goes on at TRAPPC, once its withdrawn loads have
been issued again (R132, R133, R151). -/
def Ctl.resumed (c : Ctl) : Ctl :=
  let ended := c.run == .ended
  let r := CtlRegs.reset false
  { Ctl.reset false with
    run := if ended then .ended else .running
    tops := c.tops
    bars := c.bars
    withdrawn := c.withdrawn
    acqScope := c.acqScope
    relWait := c.fenceLeft c.relWait
    acqWait := c.fenceLeft c.acqWait
    fullWait := c.fenceLeft c.fullWait
    late := c.late
    lateOp := c.lateOp
    r := { r with
           s := c.r.s
           pc := if ended then c.r.pc else c.r.trapPc
           trapPc := c.r.trapPc
           spTarget := c.r.spTarget
           spGrant := c.r.spGrant
           evPend := c.r.evPend } }

/-- A node sink takes back what it has reported. -/
def State.resumeSink (s : State) (k key : Nat) (v : Bool × Nat) : State :=
  let x := s.site k (key / 2)
  s.setSite k (key / 2) { x with ct := x.ct.setNode (key % 2) { x.ct.node (key % 2) with reported := v.1, sunk := v.2 } }

/-- A resumed cell: its port blocks, node sinks and control core as they were saved (R132, R133). -/
def State.resumeCell (s : State) (k : Nat) (x : SavedCell) : State :=
  let s1 := x.ports.foldl (fun s p => s.setPort k p.1 ((s.port k p.1).resumed p.2)) s
  let s2 := x.sinks.foldl (fun s p => s.resumeSink k p.1 p.2) s1
  s2.setCtlAt k x.ctl.resumed

/-- The control core of a cell that starts: s1 holds the argument VA, and SPGRANT the task's channels (R78, R79, R106). -/
def freshCtl (arg : Word) (sprint : Nat) : Ctl :=
  let r := CtlRegs.reset false
  { Ctl.reset false with run := .running, r := { r with s := r.s.set 1 arg, spGrant := BitVec.ofNat 16 sprint } }

/-- Release one cell (R127). The sources of a restored task start at their recorded units and rounds (R163). -/
def State.releaseCell (s : State) (t : Task) (k : Nat) : State :=
  match (s.core k).occ with
  | none => s
  | some o =>
    let s1 := s.setCore k { s.core k with occ := some { o with configured := true } }
    match t.savedCell o.region.toNat o.cell.toNat with
    | some x => s1.resumeCell k x
    | none =>
      let s2 := s1.setCtlAt k (freshCtl t.arg t.sprint)
      (s2.loadedPorts k).foldl
        (fun s n =>
          match t.starts.find? (fun p => p.1 == 256 * o.region.toNat + 16 * o.cell.toNat + n) with
          | some p => s.setPort k n { s.port k n with startAt := p.2.1, round := p.2.2 }
          | none => s) s2

/-- STOP's EOR at a source port: level 7 with FINAL (R109). -/
def State.stopCells (s : State) (ps : List (Nat × Nat)) : State :=
  ps.foldl (fun s p => s.stopSource p.1 p.2 (mkMark kEor 7 0 (markOrigin p.1 17) 1)) s

/-- Release the cells of a task that a condition on regions selects, with the EOR of a STOP that waits (R109, R127). -/
def State.releaseRegions (s : State) (t : Task) (sel : Nat → RegionSt → Bool) : State :=
  let rs := t.regions.mapIdx (fun i r => if sel i r then { r with released := true } else r)
  let picked : Nat → Bool := fun k =>
    match (s.core k).occ with
    | some o => (match t.regions[o.region.toNat]? with | some r => sel o.region.toNat r | none => false)
    | none => false
  let cores := (s.taskCores t.uid).filter picked
  let s1 := cores.foldl (fun s k => s.releaseCell t k) (s.setTask { t with regions := rs })
  let s2 := if t.stopping then (cores.foldl State.clearFlows s1).stopCells ((s1.sources t.uid).filter (fun p => picked p.1)) else s1
  cores.foldl State.settle s2

/-- START_RELEASE: of the task whose identity the input's number gives, once every cell is loaded (R127). -/
def execStartRelease (s : State) : Outcome State Fault Refusal :=
  .next (match s.findTask s.input.num with
    | none => s
    | some t =>
      if t.st ≠ .configuring ∨ !s.fwReady ∨ !(s.taskCores t.uid).all s.coreLoaded then s
      else
        let s0 := s.elapse
        let s1 := s0.releaseRegions { t with st := .running } (fun _ r => r.placed)
        let done : Task → Task := fun u =>
          { u with saved := [], starts := [], launchT := if s1.sources t.uid = [] ∧ u.launchT.isNone then some (s1.timeOf 0) else u.launchT }
        let s2 := match s1.findTask t.uid with | some u => s1.setTask (done u) | none => s1
        (s2.markThrottled).armFirst t.uid)

/-! ## Configuration requests (R128, R346, R383) -/

/-- Write a result word to the agent that waits for a region. -/
def State.tellWaiter (s : State) (region : Nat) (who : CoreId × Option NodeRef) (w : Word) : State :=
  match who.2 with
  | some n =>
    let k := n.c.ix
    let x := s.site k n.site.toNat
    let j := n.slot.toNat
    s.setSite k n.site.toNat { x with ct := x.ct.setNode j { x.ct.node j with result := some w } }
  | none =>
    let k := who.1.ix
    let c := s.ctlAt k
    match c.wait with
    | .cfgreq d r => if r.toNat = region then s.setCtlAt k { c with wait := .none, r := { (c.r.put d w) with pc := c.r.pc + 4 } } else s
    | _ => s

/-- A requester still waits for a region: a trap withdraws a control core's wait, but not its request (R346). -/
def State.stillWaits (s : State) (region : Nat) (who : CoreId × Option NodeRef) : Bool :=
  match who.2 with
  | some n => ((s.site n.c.ix n.site.toNat).ct.node n.slot.toNat).armed
  | none =>
    match (s.ctlAt who.1.ix).wait with
    | .cfgreq _ r => r.toNat == region
    | _ => false

/-- Answer every waiter of a region: the first that still waits with one word, the others with another. -/
def State.answerWaiters (s : State) (t : Task) (ri : Nat) (first rest : Word) : State :=
  match t.regions[ri]? with
  | none => s
  | some r =>
    let s1 := ((r.waiters.filter (s.stillWaits ri)).mapIdx (fun i w => (i, w))).foldl (fun s w => s.tellWaiter ri w.2 (if w.1 = 0 then first else rest)) s
    match s1.findTask t.uid with
    | some u => s1.setTask { u with regions := u.regions.modify ri (fun r => { r with waiters := [] }) }
    | none => s1

/-- CONFIG_REQUEST_DONE: a requested region of the task that the input names is loaded and released, or can never be placed within its scope
(R128, R346). The cells of a task that is being pre-empted take their QSC at once, and so after an exchange that is in progress (R130, R150). -/
def execConfigRequestDone (s : State) : Outcome State Fault Refusal :=
  let ri := s.input.region.toNat
  .next (match s.findTask s.input.num with
    | none => s
    | some t =>
      match t.regions[ri]? with
      | none => s
      | some r =>
        if !s.fwReady || !r.onDemand || !(t.st == .running || t.st == .draining) || r.released then s
        else if r.placed then
          let cores := (s.taskCores t.uid).filter (fun k => match (s.core k).occ with | some o => o.region.toNat == ri | none => false)
          if !cores.all s.coreLoaded || (t.st == .draining && cores.any s.claimed) then s
          else
            let s0 := s.releaseRegions t (fun i _ => i == ri)
            let s1 := if t.st = .draining then s0.quiesce cores ((s0.feeders t.uid).filter (fun p => cores.contains p.1)) else s0
            (s1.setAdders t).markThrottled.answerWaiters (match s1.findTask t.uid with | some u => u | none => t) ri (cfgResult 0 r.die.toNat) (cfgResult 1 r.die.toNat)
        else if (s.placeEver t ri).any (fun p => (s.mapPlacement t (t.placement ++ p) p).isSome) then s
        else
          let s1 : State :=
            { s with sched := { s.sched with requests := s.sched.requests.filter (fun q => !(q.1 == t.uid && q.2.1.toNat == ri)) } }
          s1.answerWaiters t ri (cfgResult 3 0) (cfgResult 3 0))

/-! ## Completion (R110, R118, R260, R356) -/

/-- CONTROL_CORE_REPORT: a cell's program has ended, its counts are 0, and its dirty lines are written back: it reports as a sink (R356). -/
def execControlCoreReport (s : State) : Outcome State Fault Refusal :=
  let k := s.input.core.ix
  .next (
    if (s.ctlAt k).run ≠ .ended ∨ s.lcnt k ≠ 0 ∨ s.scnt k ≠ 0 ∨ s.ccnt k ≠ 0 ∨ s.tcnt k ≠ 0 ∨ s.claimed k then s
    else
      let s1 := s.cleanLines k
      let c := s1.core k
      s1.setCore k { c with occ := c.occ.map (fun o => { o with ctlDone := true }) })

/-- Every sink of a region has reported, its control cores too, and nothing of its cells' writes is on its way. -/
def State.regionReported (s : State) (cores : List Nat) : Bool :=
  cores.all (fun k =>
    (s.sinks k).all (fun x => x.2) && (match (s.core k).occ with | some o => o.ctlDone | none => false) && !s.claimed k &&
    !s.net.accesses.any (fun x => agentOfCore k x.agent && x.op != .read))

/-- The regions of a task that are still to complete: an ONDEMAND one counts while it is configured. -/
def Task.openRegions (t : Task) : Bool := t.regions.any (fun r => if r.onDemand then r.placed else !r.done)

/-- The completion store of a region: a release at .pkg. Its cores are freed; the task completes with its last region (R180, R260). It waits for
a checkpoint that the task still owes a cut, and for a free record (R97, R152). -/
def State.completeRegion (s : State) (t : Task) (ri : Nat) (r : RegionSt) : State :=
  let cores := (s.taskCores t.uid).filter (fun k => match (s.core k).occ with | some o => o.region.toNat == ri | none => false)
  if !s.regionReported cores || (s.jobsOf t.uid).any (fun j => !j.cut) || s.ckpt.asked.any (fun a => a.1 == t.uid) || !s.recordRoom then s
  else
    let s1 := cores.foldl (fun s k => s.releaseBanks k 5) s
    let r' := if r.onDemand then { r with placed := false, released := false, cores := [] } else { r with done := true, placed := false, cores := [] }
    let t' := { t with regions := t.regions.set ri r', doneT := s1.timeOf (r.die.toNat / 2) }
    let s2 := cores.foldl State.dropCell (s1.setTask t')
    let s3 := cores.foldl (fun s k => s.setCore k { s.core k with occ := none }) s2
    if t'.openRegions then s3 else s3.endTask t' (if t'.stopping then stStopped else stOk)

/-- REGION_COMPLETE: of the region that the input names, of the task whose identity its number gives (R260). -/
def execRegionComplete (s : State) : Outcome State Fault Refusal :=
  .next (match s.findTask s.input.num with
    | none => s
    | some t =>
      match t.regions[s.input.region.toNat]? with
      | none => s
      | some r => if r.placed && r.released && !r.done && (t.st == .running || t.st == .draining) then
          s.elapse.completeRegion t s.input.region.toNat r else s)

/-! ## STOP (R109) -/

/-- One task that a STOP names. -/
def State.stopTask (s : State) (t : Task) : State :=
  match t.st with
  | .waiting => s.endTask { t with doneT := Config.openTime s.draws (3 * t.uid) } stStopped
  | .ready => s.endTask { t with doneT := Config.openTime s.draws (3 * t.uid) } stStopped
  | .running =>
    if t.stopping then s
    else
      let s1 := (s.taskCores t.uid).foldl State.clearFlows (s.setTask { t with stopping := true })
      (s1.taskCores t.uid).foldl State.settle (s1.stopCells ((s1.sources t.uid).filter (fun p => s1.released p.1)))
  | _ => s.setTask { t with stopping := true }

/-- STOP of a started command. Its record waits until every named task has had its EORs injected (R108, R109). -/
def State.stopStep (s : State) (q : Nat) (c : Cmd) : State :=
  let named := s.namedTasks q (fieldAt c.bytes 8 4) (fieldAt c.bytes 0x0C 2)
  if c.left = 0 then
    if named = [] then s.finishCmd q c stBadCmd 0 0
    else if named.any (fun t => t.st == .running && !t.stopping && (s.taskCores t.uid).any s.claimed) then s
    else (named.foldl State.stopTask s).setCmd q { c with left := 1 }
  else if named.any (fun t => t.stopping && t.st != .running) then s
  else s.finishCmd q c stOk 0 0

/-- STOP. -/
def execStop (s : State) : Outcome State Fault Refusal := .next (s.withCmd opStop State.stopStep)

/-! ## Consumption and start (R103, R104, R107, R108) -/

/-- A command starts, and a STOP or a QRESET acts as it does (R107, R109, R111). -/
def State.beginCmd (s : State) (q : Nat) (c : Cmd) : State :=
  let s1 := s.startCmd q c
  match s1.cmdAt q c.n with
  | none => s1
  | some d => if d.op = opStop then s1.stopStep q d else if d.op = opQreset then s1.qresetStep q d else s1

/-- COMMAND_CONSUME: firmware reads the next command, whose 64 bytes the input gives, and records and mirrors the new head. A defective
command completes at once; another starts if nothing holds it (R103, R104, R107, R108). -/
def execCommandConsume (s : State) : Outcome State Fault Refusal :=
  let q := s.input.queue.toNat
  let x := s.queue q
  .next (
    if !s.fwReady || !x.works || decide (s.tail q ≤ x.head) then s
    else if s.overrun q then s.overrunFatal q
    else if !s.recordRoom then s
    else
      let s0 := s.elapse
      let c : Cmd :=
        { n := x.head, bytes := (s.input.bytes ++ List.replicate 64 0).take 64, started := false, time := s0.timeOf 0, deadline := 0,
          access := none, slot := none, left := 0, held := false }
      match s0.lacksRecords x.asn c with
      | (true, s1) => s1
      | (false, s1) =>
        let y := { x with head := x.head + 1, cmds := x.cmds ++ [c] }
        let s2 := (s1.setQueue q y).tellHead q y.head
        if c.defect then s2.finishCmd q c stBadCmd 0 0
        else if y.mayStart c then s2.beginCmd q c
        else s2)

/-- COMMAND_START: a held command that the input names starts once nothing holds it (R107). -/
def execCommandStart (s : State) : Outcome State Fault Refusal :=
  let q := s.input.queue.toNat
  .next (match s.cmdAt q s.input.num with
    | none => s
    | some c =>
      let x := s.queue q
      if c.started || !s.fwReady || !s.recordRoom || !x.works || !x.mayStart c then s else s.elapse.beginCmd q c)

end Sys2Proof.Machine
end

