-- ==== Sys2Proof/Machine/Preempt.lean ====
section
/-! DEFINITION. Pre-emption after QSC: the trap of a control core, the quiescent point, and the save (R130 to R134, R84). When a core's fabric
is quiet serves an exchange too (R145). -/

namespace Sys2Proof.Machine

open Host (Outcome)

/-! ## A quiet core -/

/-- A sink input that keeps what reaches it: its node or port block has reported (R260). -/
def State.deadInput (s : State) (k key : Nat) : Bool :=
  let i := key / 128
  let n := key % 128 - 48
  match sitePort i with
  | some p => (s.port k p).reported
  | none => isCSite i && decide (n < 4) && (List.range 2).any (fun j => (s.site k i).nodeIn j n && ((s.site k i).ct.node j).reported)

/-- Nothing moves at a port block any more, and it holds no fault. Recorded streams and MARKs stay (R362). -/
def Port.quiet (p : Port) : Bool :=
  !p.fault.valid && p.slots == [] && p.outq == [] && p.writes == [] && (p.reported || !p.owed) && p.items.all PortItem.recorded

/-- Packets of class STR to or from a core, and answers to its senders (R217, R220). -/
def State.strMoves (s : State) (k : Nat) : Bool :=
  s.net.packets.any (fun p =>
    (p.cls == 2 && (p.src == coreNode k || p.dst == coreNode k)) || (p.cls == 1 && p.dst == coreNode k && (p.kind == 12 || p.kind == 7)))

/-- The fabric of a core has drained: tokens stand at inputs of sinks alone that have reported. -/
def State.fabricQuiet (s : State) (k : Nat) : Bool :=
  (s.core k).chans.all (fun c => s.deadInput k c.1) && (s.core k).sites.all (fun x => x.2.quiet) && (s.core k).ports.all (fun p => p.2.quiet)

/-- A .fe load waits at its home (R184). -/
def State.waitsFill (s : State) (x : Access) : Bool := s.m.deferred.any (fun d => d.access == x.id)

/-- Bytes that an instruction has fetched and not taken up: it reads them again (R335). -/
def State.fetched (s : State) (x : Access) : Bool := x.fetches && s.answered x

/-- Accesses of a core that have not been answered, but for .fe loads that wait at their homes (R132, R145). -/
def State.openAccesses (s : State) (k : Nat) : Bool :=
  s.net.accesses.any (fun x => agentOfCore k x.agent && !s.waitsFill x && !s.fetched x)

/-- Counted accesses of a control core that have neither performed nor faulted, which its pre-emption trap waits for, and late faults, which trap
first (R317, R327, R334). -/
def State.countsOpen (s : State) (k : Nat) : Bool :=
  (s.outstanding (.ctl (coreOfIx k))).any (fun x => !x.fetches && !s.waitsFill x) || (s.ctlAt k).late.isSome || (s.lostAt k).isSome

/-! ## The trap (R84, R132) -/

/-- PREEMPT_TRAP: a control core of a task that is being pre-empted stops at its next instruction boundary. A core stopped on a fault waits for
its service first, a SPRINT whose frame has started for its result, and every counted access has performed or faulted (R334). The arms of the
cell's nodes that no frame has taken are withdrawn. -/
def execPreemptTrap (s : State) : Outcome State Fault Refusal :=
  let k := s.input.core.ix
  let c := s.ctlAt k
  .next (
    if !s.atTrap k || (c.run == .running && s.countsOpen k) then s
    else
      match c.run with
      | .running =>
        (match s.interrupt k 0 0 c.r.pc with
         | some s1 => (s1.setCtlAt k { s1.ctlAt k with preempt := false }).withdrawNodes k
         | none => s)
      | .stopped => s
      | _ => (s.setCtlAt k { c with preempt := false }).withdrawNodes k)

/-! ## The quiescent point (R130, R134) -/

/-- A control core has taken its trap, or its program has ended, and its COPY and GATHER operations are done (R132). -/
def Ctl.quiet (c : Ctl) : Bool := ((c.run == .stopped && c.r.trapCause == 0) || c.run == .ended) && !c.preempt && c.cops == []

/-- A cell of the task is at its quiescent point. -/
def State.cellQuiet (s : State) (k : Nat) : Bool :=
  s.released k && (s.ctlAt k).quiet && s.fabricQuiet k && !s.strMoves k && !s.openAccesses k &&
  (s.core k).ports.all (fun p => p.2.held == []) &&
  !s.x.multis.any (fun e => match e.2.core with | some c => c.ix == k | none => false)

/-- Adders of a task hold nothing. -/
def State.addersEmpty (s : State) (uid : Nat) : Bool :=
  s.net.adders.all (fun a => a.2.task != uid || (a.2.l == [] && a.2.u == [] && a.2.runL == 0 && a.2.runU == 0))

/-- Withdraw the .fe loads of a core: the home removes them in one step, and the word and its presence bit stay (R132). -/
def State.withdraw (s : State) (k : Nat) : State :=
  let mine := s.net.accesses.filter (fun x => agentOfCore k x.agent && (s.waitsFill x || s.fetched x))
  let loads := mine.filterMap (fun x => match x.dest with | .reg d _ => some (x.id, x.ea, d) | _ => none)
  let ids := mine.map Access.id
  let c := s.ctlAt k
  let s1 := s.setCtlAt k { c with withdrawn := c.withdrawn ++ loads }
  { s1 with
    m := { s1.m with deferred := s1.m.deferred.filter (fun d => !ids.contains d.access) }
    net := { s1.net with accesses := s1.net.accesses.filter (fun x => !ids.contains x.id) } }

/-- The state units of a site under QSC, as its parts emit them (R256, R257). -/
def State.siteUnits (s : State) (k i : Nat) : List Token :=
  let x := s.site k i
  let nodes := if isCSite i then s.nodeUnits k i 0 kQsc ++ s.nodeUnits k i 1 kQsc else []
  let ops := (List.range 4).flatMap (fun m =>
    if x.opKind i m = 7 then
      match (s.op k i m).last with
      | some t => s.unit k i (2 + m) kQsc t.round [t]
      | none => []
    else s.opUnits k i m kQsc)
  let ring : Nat → List Token := fun r =>
    let g := x.mt.ring r
    let n := x.ringSlots r
    let len := g.toks.length
    s.unit k i 6 kQsc (roundOf g.toks.head?) (g.toks ++ [u32Token [g.head, (g.head + len) % max n 1, n - len, len, r] 0])
  let tile :=
    if !isMSite i then [] else if x.role = 2 then ((List.range 4).filter (fun r => x.ringSlots r != 0)).flatMap ring else s.tileUnits k i kQsc
  nodes ++ ops ++ tile

/-- What the save holds of a cell. -/
def State.saveCell (s : State) (k : Nat) (o : Cell) : SavedCell :=
  let c := s.core k
  let dmem := s.m.mem.filter (fun b => decide (dmemKey k 0 ≤ b.1) && decide (b.1 < dmemKey k 65536))
  { region := o.region
    cell := o.cell
    ctl := c.ctl
    dmem := dmem.map (fun b => (b.1 - dmemKey k 0, b.2))
    ports := c.ports
    units := c.sites.filterMap (fun x => let u := s.siteUnits k x.1; if u = [] then none else some (x.1, u))
    sinks := c.sites.flatMap (fun x =>
      if !isCSite x.1 then []
      else ((List.range 2).filter x.2.nodeSink).map (fun j => (2 * x.1 + j, ((x.2.ct.node j).reported, (x.2.ct.node j).sunk)))) }

/-- A poisoned unit among what the save takes of a core's M tiles (R270): the tile, and the unit. -/
def State.saveBad (s : State) (k : Nat) : Option (Nat × Nat) :=
  (s.core k).sites.findSome? (fun x =>
    if !isMSite x.1 then none
    else
      let bad := if x.2.role = 2 then (List.range 4).findSome? (fun r => s.ringUe k x.1 r (x.2.mt.ring r).toks.length) else s.tileBad k x.1 kQsc
      bad.map (fun u => (x.1, u)))

/-- The bytes that the save of cells writes: 80 KiB for each and 128 for each token, within the save block (R131, R132). -/
def savedBytes (t : Task) (cells : List SavedCell) : Nat :=
  min t.saveLen ((cells.map (fun c => 81920 + 128 * (c.units.map (fun u => u.2.length)).sum)).sum)

/-- The task leaves its cores: it returns to the pool with its first ready time, and its record will carry PREEMPTED (R110, R129). -/
def State.leaveCores (s : State) (t : Task) (saved : List SavedCell) : State :=
  let cores := s.taskCores t.uid
  let t1 : Task :=
    { t with
      st := .preempted
      leftT := s.clock
      flags := t.flags ||| 8
      saved := saved
      regions := t.regions.map (fun r => { r with cores := [], released := false, waiters := [] }) }
  let s1 := cores.foldl (fun s k => (s.dropCell k).setCore k (CoreSt.reset (isHub k))) (s.setTask t1)
  { s1 with
    sched := { s1.sched with requests := s1.sched.requests.filter (fun q => q.1 != t.uid) }
    net := { s1.net with adders := s1.net.adders.filter (fun a => a.2.task != t.uid) } }

/-- Every sink of the task has reported before the drain has finished: the save is discarded and its control cores go on, so that the task
completes as any other (R134). -/
def State.cancelPreempt (s : State) (t : Task) : State :=
  (s.taskCores t.uid).foldl
    (fun s k =>
      let c := s.core k
      let ct := c.ctl
      let run := ct.run == .stopped && ct.r.trapCause == 0
      let ctl := if run then { ct with run := .running, preempt := false, r := { ct.r with pc := ct.r.trapPc } } else { ct with preempt := false }
      let ports := c.ports.map (fun p => (p.1, { p.2 with stopped := false, saving := false, saved := [] }))
      s.setCore k { c with occ := c.occ.map (fun o => { o with quiescing := false }), ctl := ctl, ports := ports })
    (s.setTask { t with st := .running })

/-- The fabric's sinks have all reported, or there are none and every control program has ended. -/
def State.allReported (s : State) (uid : Nat) : Bool :=
  let ss := s.taskSinks uid
  ss.all (fun x => x.2) && (ss != [] || (s.taskCores uid).all (fun k => (s.ctlAt k).run == .ended))

/-- The save: every cell stands at its quiescent point, and the save block is written (R130 to R132). A write that faults is fatal to the
queue; one that meets a page still being copied waits (R112, R158). -/
def State.savePreempted (s : State) (t : Task) : State :=
  let cores := s.taskCores t.uid
  if !cores.all s.cellQuiet || !s.addersEmpty t.uid then s
  else if let some (k, i, u) := cores.findSome? (fun k => (s.saveBad k).map (fun b => (k, b))) then s.tileError k i u
  else
    let q := t.queue.toNat
    let x := s.queue q
    let s0 := cores.foldl (fun s k => (s.withdraw k).cleanLines k) s
    let saved := cores.filterMap (fun k => ((s0.core k).occ).map (s0.saveCell k))
    let n := savedBytes t saved
    let bs := freeBytes s0.draws n
    let s1 : State := { s0 with draws := s0.draws + n }
    match s1.fwWrite x.asn ((x.save.toNat + fieldAt t.desc 0x10 8) % 2 ^ 64) bs with
    | (.done, s2) => s2.leaveCores t saved
    | (.fault c va, s2) => s2.queueFatal q (some t.cmdN) (some t) stFault c va
    | (.stall, _) => s

/-- PREEMPT_QUIESCED: of the task whose identity the input's number gives (R130, R134). -/
def execPreemptQuiesced (s : State) : Outcome State Fault Refusal :=
  .next (match s.findTask s.input.num with
    | none => s
    | some t =>
      if t.st != .draining || !t.dies.all s.fwActs then s
      else if s.allReported t.uid then s.cancelPreempt t
      else s.savePreempted t)

end Sys2Proof.Machine
end

