-- ==== Sys2Proof/Machine/Swaps.lean ====
section
/-! DEFINITION. Traffic-driven residency (R138 to R151): the instants of a die's arbiter, and an exchange from its claim to its release. -/

namespace Sys2Proof.Machine

open Host (Outcome)

/-! ## The arbiter (R140 to R142) -/

def State.arbiter (s : State) (d : Nat) : Arbiter := tabGet Arbiter.reset s.swap.arb d
def State.setArbiter (s : State) (d : Nat) (a : Arbiter) : State := { s with swap := { s.swap with arb := tabPut s.swap.arb d a } }

/-- SILL[c][t] of a die (R138). -/
def State.sillOf (s : State) (d c t : Nat) : BitVec 32 := tabGet 0 s.swap.sill ((16 * d + c) * 16 + t)

/-- A core may take part in an exchange (R142): `empty`, or with a long-resident occupant. -/
def State.coreEmpty (s : State) (k : Nat) : Bool := (s.core k).occ.isNone

def State.longResident (s : State) (a : Arbiter) (k : Nat) : Bool :=
  match (s.core k).occ, s.taskOf k with
  | some o, some t =>
    t.flag 0 && !t.latency && !t.pinned && decide (a.elig.toNat ≤ o.age.toNat) && o.frozen == 0 && s.coreLoaded k && !o.quiescing &&
    (s.core k).ports.all (fun p => !p.2.fault.valid)
  | _, _ => false

def State.eligible (s : State) (a : Arbiter) (k : Nat) : Bool :=
  s.boot.test.coreLive k && k % 16 != 0 && !s.claimed k && (s.coreEmpty k || s.longResident a k)

/-- The weight between the occupants of two cores: a core with no cell has none (R138, R141). -/
def State.swapWeight (s : State) (d x t : Nat) : Nat :=
  if s.coreEmpty (16 * d + x) || s.coreEmpty (16 * d + t) then 0 else (s.sillOf d x t).toNat + (s.sillOf d t x).toNat

/-- Δ of a pair (R141). -/
def State.swapDelta (s : State) (d a b : Nat) : Int :=
  ((List.range 16).filter (fun t => t != a && t != b)).foldl
    (fun z t =>
      let far : Int := (coreDist b t : Int) - (coreDist a t : Int)
      z + (s.swapWeight d a t : Int) * far - (s.swapWeight d b t : Int) * far) 0

/-- The pairs that an exchange would help, as Δ, a, b (R141). -/
def State.swapList (s : State) (d : Nat) (r : Arbiter) : List (Int × Nat × Nat) :=
  let pairs := (List.range 16).flatMap (fun a => ((List.range 16).filter (fun b => decide (a < b) && coreDist a b == 1)).map (fun b => (a, b)))
  pairs.filterMap (fun p =>
    let ka := 16 * d + p.1
    let kb := 16 * d + p.2
    let z := s.swapDelta d p.1 p.2
    if s.eligible r ka && s.eligible r kb && !(s.coreEmpty ka && s.coreEmpty kb) && decide (z < 0) && decide (z ≤ -(r.hyst.toNat : Int))
    then some (z, p.1, p.2) else none)

/-- One candidate comes before another: Δ, then a, then b. -/
def swapBefore (x y : Int × Nat × Nat) : Bool :=
  if x.1 ≠ y.1 then decide (x.1 < y.1) else if x.2.1 ≠ y.2.1 then decide (x.2.1 < y.2.1) else decide (x.2.2 < y.2.2)

def insertSwap (x : Int × Nat × Nat) : List (Int × Nat × Nat) → List (Int × Nat × Nat)
  | [] => [x]
  | y :: t => if swapBefore x y then x :: y :: t else y :: insertSwap x t

/-- The pairs chosen from the sorted list: disjoint, and at most SWMAXP of them (R141). -/
def chooseSwaps (most : Nat) : List (Int × Nat × Nat) → List (Nat × Nat) → List (Nat × Nat)
  | [], chosen => chosen
  | x :: t, chosen =>
    let used := chosen.any (fun c => c.1 == x.2.1 || c.2 == x.2.1 || c.1 == x.2.2 || c.2 == x.2.2)
    chooseSwaps most t (if chosen.length < most ∧ !used then chosen ++ [(x.2.1, x.2.2)] else chosen)

/-! ## Claim and cut (R144, R145) -/

/-- The cores of a pair as package-wide numbers. -/
def Exchange.ka (x : Exchange) : Nat := 16 * x.die.toNat + x.a.toNat
def Exchange.kb (x : Exchange) : Nat := 16 * x.die.toNat + x.b.toNat

/-- The SWP mark of an exchange (R144); its origin's port is the arbiter's 18. -/
def Exchange.mark (x : Exchange) : Token := mkMark kSwp 0 x.seq.toNat (markOrigin x.ka 18) (x.a.toNat + 16 * x.b.toNat)

/-- A receiving port inserts SWP at each fabric input that its handler entries name (R145). -/
def State.cutInputs (s : State) (k n : Nat) (m : Token) : State :=
  let classes := (List.range 16).filter (fun c => s.handler k n c % 2 == 1)
  let dest : Nat → Nat := fun c => s.handler k n c / 2
  let first := classes.filter (fun c => (classes.find? (fun e => dest e == dest c)) == some c)
  first.foldl
    (fun s c =>
      let id := s.net.nextId
      let p := s.port k n
      let cut : Packet := { strPacket (coreNode k) n (coreNode k) n c m with id := id }
      let s1 := s.setPort k n { p with held := cut :: p.held }
      { s1 with net := { s1.net with nextId := id + 1 } }) s

/-- Steps 1 and 2 of an exchange (R145). -/
def State.startExchange (s : State) (x : Exchange) (freeze : BitVec 4) : State :=
  let r := s.arbiter x.die.toNat
  let s1 := s.setArbiter x.die.toNat { r with claimed := r.claimed ||| BitVec.ofNat 16 (2 ^ x.a.toNat + 2 ^ x.b.toNat) }
  let s2 : State := { s1 with swap := { s1.swap with exchanges := s1.swap.exchanges ++ [x] } }
  [x.ka, x.kb].foldl
    (fun s k =>
      match (s.core k).occ with
      | none => s
      | some o =>
        let s1 := s.setCore k { s.core k with occ := some { o with frozen := freeze } }
        let out := ((s1.loadedPorts k).filter (fun n => s1.isSource k n && s1.feeds (k, n)))
        let s2 := out.foldl (fun s n => s.stopSource k n x.mark) s1
        ((s2.loadedPorts k).foldl (fun s n => s.cutInputs k n x.mark) s2).settle k) s2

/-- FROZEN and AGE of an occupant after an instant (R141). -/
def Cell.aged (o : Cell) : Cell :=
  if o.frozen ≠ 0 then { o with frozen := o.frozen - 1 } else if o.age ≠ 15 then { o with age := o.age + 1 } else o

/-- One instant of a die's arbiter (R141). -/
def State.instant (s : State) (d : Nat) : State :=
  let r := s.arbiter d
  let chosen := chooseSwaps r.maxP.toNat ((s.swapList d r).foldl (fun l x => insertSwap x l) []) []
  let half := s.swap.sill.filterMap (fun (e : Nat × BitVec 32) =>
    let v := if e.1 / 256 = d then e.2 / 2 else e.2
    if v = 0 then none else some (e.1, v))
  let s1 : State := { s with
    cores := s.cores.map (fun c => (c.1, if c.1 / 16 = d then { c.2 with occ := c.2.occ.map Cell.aged } else c.2))
    swap := { s.swap with sill := half } }
  let s2 := s1.setArbiter d { r with inst := r.inst + 1, next := r.next + 2000 * r.period.toNat }
  chosen.foldl
    (fun s p =>
      s.startExchange ⟨BitVec.ofNat 3 d, BitVec.ofNat 4 p.1, BitVec.ofNat 4 p.2, r.inst.setWidth 16, false, []⟩ r.freeze) s2

/-- SWAP_INSTANT: of the input's die, in the frame in which its period ends, while EN is 1 (R141). The results of a frame are delivered before an
instant that comes after them (R71). -/
def execSwapInstant (s : State) : Outcome State Fault Refusal :=
  let d := s.input.die.toNat
  let r := s.arbiter d
  .next (if !r.en || s.boot.warming || decide (128 * s.plane.frame + 127 < r.next) then s
    else
      let s0 := if 128 * s.plane.frame + 106 ≤ r.next then s.reachLatch else s
      let s1 := { s0 with time := s0.time.pass (r.next - s0.time.cycle) s0.draws, draws := s0.draws + 1 }
      s1.instant d)

/-! ## Drain (R145, R150) -/

/-- A port has drained: it holds no fault, its writes are acknowledged, and its SWP has left; a .fe load that waits keeps its slot. What the fabric
cannot take while a node holds issue waits at the port, `stuck` (R85). -/
def State.portDrained (s : State) (k : Nat) (stuck : Bool) (p : Port) : Bool :=
  !p.fault.valid && (p.slots == [] || s.slotsDeferred p || (stuck && p.slots.all (fun x => x.pend == []))) && p.writes == [] &&
  (stuck ||
   (p.outq == [] && (p.reported || !p.owed) &&
    !p.items.any (fun i => match i with | .mark m _ _ => m.kind == kSwp | .stream _ => false) && !p.held.any (fun q => q.isCut k)))

/-- A .fe load has left for its home in another package, where it may wait for a fill (R184; assumption 123, DEDUCED). -/
def State.waitsFar (s : State) (x : Access) : Bool := x.fe && x.loc.far && !s.net.packets.any (fun p => p.access == x.id)

/-- Accesses of a core that hold its drain up: every one that has not been answered, but for a .fe load that waits at its home, of a port or of the
control core (R145, R334). -/
def State.drainAccesses (s : State) (k : Nat) : Bool :=
  s.net.accesses.any (fun x => agentOfCore k x.agent && !s.waitsFill x && !s.waitsFar x && !s.fetched x)

/-- A node holds issue in a CONTEND or RQST: it moves as it stands (R85, R367). -/
def NodeSt.holds (n : NodeSt) : Bool := n.firing && (n.armed || n.result.isSome) && n.cause == 0

/-- A site that may move: quiet, or, in a core with a node that holds issue, as it stands but for frames on their way and faults (R85). -/
def Site.movable (x : Site) (stuck : Bool) : Bool :=
  x.quiet ||
  (stuck && x.loading == [] && x.path == [] && x.rst == [] && x.ct.node0.cause == 0 && x.ct.node1.cause == 0 && x.ops.all (fun o => o.cause == 0) &&
   x.mt.cause == 0)

def CoreSt.holdsIssue (c : CoreSt) : Bool := c.sites.any (fun x => x.2.ct.node0.holds || x.2.ct.node1.holds)

/-- The occupant of a core has drained; an empty core has nothing to drain but what a discarded cell left on its way. Where a node holds issue,
its firing has not popped its inputs, and what stands at them and behind them in the fabric moves with the core as it stands (R85, R363, R382;
assumption 109, DEDUCED). An agent that a fault has stopped is serviced first (R209). -/
def State.coreDrained (s : State) (k : Nat) : Bool :=
  let c := s.core k
  let stuck := c.holdsIssue
  !s.drainAccesses k &&
  (s.coreEmpty k ||
   (c.chans.all (fun q => stuck || s.deadInput k q.1) && c.sites.all (fun x => x.2.movable stuck) &&
    c.ports.all (fun p => s.portDrained k stuck p.2) && !s.agentStopped k))

/-- The exchange that the input's core, the lower of its pair, names. -/
def State.exchange (s : State) : Option Exchange := s.swap.exchanges.find? (fun x => x.ka == s.input.core.ix)

/-- SWAP_DRAIN_DONE: both occupants have drained; dirty lines are written back and every line is dropped (R145). -/
def execSwapDrainDone (s : State) : Outcome State Fault Refusal :=
  .next (match s.exchange with
    | none => s
    | some x =>
      if x.drained || !s.coreDrained x.ka || !s.coreDrained x.kb then s
      else
        let s1 := (s.dropLines x.ka (fun _ => true)).dropLines x.kb (fun _ => true)
        { s1 with swap := { s1.swap with exchanges := s1.swap.exchanges.map (fun y => if y = x then { y with drained := true } else y) } })

/-! ## Transfer and installation (R85, R139, R145, R147) -/

/-- The core that a core's occupant moves to. -/
def swapIx (a b k : Nat) : Nat := if k = a then b else if k = b then a else k
def swapCore (a b : Nat) (c : CoreId) : CoreId := coreOfIx (swapIx a b c.ix)

/-- What moves with a cell: accesses of its agents, and places in its tiles (R38, R148). -/
def swapAgent (a b : Nat) (g : Agent) : Agent :=
  match g with
  | .ctl c => .ctl (swapCore a b c)
  | .port c n => .port (swapCore a b c) n
  | .multi c op => .multi (swapCore a b c) op
  | g => g

def swapLoc (a b : Nat) (l : Loc) : Loc :=
  match l with
  | .tile c i off => .tile (swapIx a b c) i off
  | l => l

/-- A key of one of two ranges of memory of the same size moves to the other. -/
def swapRange (p q n x : Nat) : Nat :=
  if p ≤ x ∧ x < p + n then x - p + q else if q ≤ x ∧ x < q + n then x - q + p else x

/-- Code, data and tile memories of two cores trade places. -/
def swapKey (a b x : Nat) : Nat :=
  swapRange (codeKey a 0) (codeKey b 0) 65536
    (swapRange (dmemKey a 0) (dmemKey b 0) 65536 (swapRange (Loc.key (.tile a 0 0)) (Loc.key (.tile b 0 0)) (2 ^ 25) x))

def State.swapMemory (s : State) (a b : Nat) : State :=
  let moves : Nat → Bool := fun x => swapKey a b x != x
  let kept := s.m.mem.filter (fun c => !moves c.1)
  let mem := (s.m.mem.filter (fun c => moves c.1)).foldl (fun m c => memPut m (swapKey a b c.1) c.2) kept
  let bad := (s.m.poison.filter moves).foldl (fun l x => setIns l (swapKey a b x)) (s.m.poison.filter (fun x => !moves x))
  { s with m := { s.m with
      mem := mem, poison := bad, deferred := s.m.deferred.map (fun d => { d with core := swapIx a b d.core })
      lost := s.m.lost.map (fun e => (swapIx a b e.1, e.2)) } }

/-- Accesses and answers to senders follow the cells; a request for tile space that an earlier exchange has forwarded goes by this one's rules
(R148). -/
def State.swapPackets (s : State) (a b : Nat) : State :=
  let access : Access → Access := fun x => { x with agent := swapAgent a b x.agent, loc := swapLoc a b x.loc }
  let packet : Packet → Packet := fun p =>
    if p.cls = 0 then (if p.forwarded ∧ (p.dst = coreNode a ∨ p.dst = coreNode b) then { p with dset := 0 } else p)
    else if p.cls = 1 ∧ (p.kind = 12 ∨ (p.kind = 7 ∧ (s.findAccess p.access).isNone)) then
      (match nodeCore p.dst with | some k => { p with dst := coreNode (swapIx a b k) } | none => p)
    else p
  { s with net := { s.net with accesses := s.net.accesses.map access, packets := s.net.packets.map packet } }

/-- Engine operations, adders, landing rings' takers and regions name the cells' new cores (R151). -/
def State.swapNames (s : State) (x : Exchange) : State :=
  let a := x.ka
  let b := x.kb
  let op : EngOp → EngOp := fun e => { e with core := e.core.map (swapCore a b) }
  let ops : Tab EngOp → Tab EngOp := fun t => t.map (fun (e : Nat × EngOp) => (e.1, op e.2))
  let adder : Adder → Adder := fun d => match nodeCore d.dst with | some k => { d with dst := coreNode (swapIx a b k) } | none => d
  let waiter : CoreId × Option NodeRef → CoreId × Option NodeRef := fun w =>
    (swapCore a b w.1, w.2.map (fun n => { n with c := swapCore a b n.c }))
  let region : RegionSt → RegionSt := fun r =>
    { r with
      cores := if r.die = x.die then r.cores.map (fun c => if c = x.a then x.b else if c = x.b then x.a else c) else r.cores
      waiters := (r.waiters.filter (fun w => w.2.isSome || (w.1.ix != a && w.1.ix != b))).map waiter }
  { s with
    x := { s.x with copies := ops s.x.copies, gathers := ops s.x.gathers, multis := ops s.x.multis }
    swap := { s.swap with far := s.swap.far.map (fun f => { f with core := swapIx a b f.core }) }
    net := { s.net with adders := s.net.adders.map (fun (e : Nat × Adder) => (e.1, adder e.2)) }
    links := { s.links with rings := s.links.rings.map (fun (e : Nat × LandRing) =>
      (e.1, { e.2 with served := 16 * swapIx a b (e.2.served / 16) + e.2.served % 16 })) }
    sched := { s.sched with tasks := s.sched.tasks.map (fun t => { t with regions := t.regions.map region }) } }

/-- The counters of two cores trade rows and columns; those of a core that is left empty are zero (R139). -/
def State.swapSillage (s : State) (x : Exchange) : State :=
  let d := x.die.toNat
  let left : Nat → Bool := fun k => s.coreEmpty k && (k == x.ka || k == x.kb)
  let sill := s.swap.sill.foldl
    (fun (t : Tab (BitVec 32)) (e : Nat × BitVec 32) =>
      if e.1 / 256 ≠ d then tabPut t e.1 e.2
      else
        let c := swapIx x.ka x.kb (e.1 / 16)
        let u := swapIx x.ka x.kb (16 * d + e.1 % 16)
        if left c || left u then t else tabPut t (16 * c + u % 16) e.2) []
  { s with swap := { s.swap with sill := sill } }

/-- An installed cell, which comes from core `a` to core `b`: SWAPCNT counts, a stalled CFGREQ is withdrawn and issues again, and sources issue from
behind SWP, but for those that a STOP has ended; a SWP that still waits at a fabric input goes in at the new site (R109, R145, R151). An empty
core has nothing to install. -/
def CoreSt.installed (c : CoreSt) (a b : Nat) (stopping : Bool) : CoreSt :=
  let ct := c.ctl
  let wait := match ct.wait with | .cfgreq .. => Waiting.none | w => w
  if c.occ.isNone then c
  else
    { c with
      ctl := { ct with wait := wait, r := { ct.r with swapCnt := ct.r.swapCnt + 1 } }
      ports := c.ports.map (fun p =>
        (p.1, { p.2 with
          stopped := p.2.stopped && stopping
          held := p.2.held.map (fun q => if q.isCut a then { q with src := coreNode b, dst := coreNode b } else q) })) }

/-- Arms whose frame has not started move with the cell and are armed again at the new site (R85). -/
def State.swapArms (s : State) (a b : Nat) : State :=
  let key : Nat → Nat := fun k => 16 * swapIx a b (k / 16) + k % 16
  let mine : Nat → Bool := fun k => k / 16 == a || k / 16 == b
  let arm : Arm → Arm := fun r => match r.who with | .node n => { r with who := .node { n with c := swapCore a b n.c } } | .ctl => r
  let ports := s.plane.ports.filter (fun p => mine p.1)
  let s1 : State := { s with
    plane := { s.plane with
      ports := s.plane.ports.filter (fun p => !mine p.1)
      queued := s.plane.queued.map (fun q => if mine q.1 then (key q.1, arm q.2) else q) } }
  ports.foldl
    (fun s p =>
      let now := max s.time.cycle p.2.since / 128
      State.rearm (key p.1) 17 (s.armPort (key p.1) now (now + 1) (arm p.2))) s1

/-- The channels of the cells that stand now, as entries whose routes do not change: those of class STR by their send bindings and those that come
from other packages, and those of class REQ from each cell of a region to the tiles of every other (R38, R147). -/
def State.channels (s : State) : List Flip :=
  let cells := s.cores.filterMap (fun c => c.2.occ.map (fun o => (c.1, o)))
  let str := cells.flatMap (fun c =>
    (s.loadedPorts c.1).flatMap (fun n =>
      (s.bindings c.1 n).filterMap (fun b =>
        let e := s.binding c.1 n b
        (s.regionCore c.1 (nbits e 18 16) (nbits e 8 5)).map (fun j =>
          (⟨2, BitVec.ofNat 4 (nbits e 4 1), BitVec.ofNat 3 (nbits e 18 16), BitVec.ofNat 4 (nbits e 8 5), c.1, c.1, j, j, false, false⟩ : Flip)))))
  let req := cells.flatMap (fun c =>
    (cells.filter (fun d => d.1 != c.1 && d.2.task == c.2.task && d.2.region == c.2.region)).map (fun d =>
      (⟨0, 0, d.2.region, d.2.cell, c.1, c.1, d.1, d.1, false, false⟩ : Flip)))
  let far := s.swap.far.filterMap (fun f =>
    ((s.core f.core).occ).map (fun o => (⟨2, f.rclass, o.region, o.cell, f.src, f.src, f.core, f.core, false, false⟩ : Flip)))
  (str ++ req ++ far).eraseDups

/-- A route update (R147): the SYS packet that tells a sender. The spec gives a control packet no content: the model marks it in ADDR (assumption
104, DESIGN CHOICE). -/
def routePacket (src dst : Nat) : Packet :=
  { id := 0, cls := 3, rclass := 0, kind := 13, src := src, sport := 15, dst := dst, dport := 0, tag := 0, addr := 1, dset := 0, lines := 0,
    op := 0, asn := 0, access := 0, payload := [], badHeader := false }

/-- Channels to and from the moved cells change their routes once their markers have left by the old ones: every sender of one receives a route
update (R147). -/
def State.startFlips (s : State) (a b : Nat) : State :=
  let flips := s.channels.filterMap (fun c =>
    let src := swapIx a b c.src
    let dst := swapIx a b c.newCore
    if src = c.src ∧ dst = c.newCore then none else some { c with oldSrc := src, oldCore := dst })
  let s1 : State := { s with swap := { s.swap with flips := s.swap.flips ++ flips } }
  ((flips.map Flip.src).eraseDups).foldl (fun s k => s.sendPacket (routePacket (coreNode (a / 16 * 16)) (coreNode k))) s1

/-- A frame that has started holds a core's port, or an earlier change of route still runs there. -/
def State.holdsInstall (s : State) (k : Nat) : Bool :=
  s.plane.ports.any (fun p => p.1 / 16 == k && p.2.entered) ||
  s.swap.flips.any (fun f => f.src == k || f.oldSrc == k || f.oldCore == k || f.newCore == k)

/-- Steps 4 to 6 of an exchange (R145). -/
def State.install (s : State) (x : Exchange) : State :=
  let a := x.ka
  let b := x.kb
  let stopping : Nat → Bool := fun k => match s.taskOf k with | some t => t.stopping | none => false
  let s1 := ((s.swapMemory a b).swapPackets a b).swapNames x
  let ca := (s.core a).installed a b (stopping a)
  let cb := (s.core b).installed b a (stopping b)
  let s2 := (s1.setCore a cb).setCore b ca
  let r := s2.arbiter x.die.toNat
  let s3 := s2.setArbiter x.die.toNat
    { r with claimed := r.claimed &&& ~~~(BitVec.ofNat 16 (2 ^ x.a.toNat + 2 ^ x.b.toNat)), doneCnt := r.doneCnt + 1 }
  let s4 : State := { s3 with swap := { s3.swap with exchanges := s3.swap.exchanges.filter (fun y => y != x) } }
  let s5 := ((s4.swapSillage x).swapArms a b).startFlips a b
  (s5.settle a).settle b

/-- SWAP_INSTALL (R145, R150). -/
def execSwapInstall (s : State) : Outcome State Fault Refusal :=
  .next (match s.exchange with
    | none => s
    | some x => if !x.drained || s.holdsInstall x.ka || s.holdsInstall x.kb then s else s.install x)

/-! ## Route updates (R147) -/

/-- The flip marker of a channel, a control packet of its class, which leaves by the old route and names the destination cell by region and CELL. -/
def Flip.marker (f : Flip) : Packet :=
  { strPacket (coreNode f.oldSrc) 0 (coreNode f.oldCore) 0 f.rclass.toNat ⟨0, 0⟩ with
    cls := f.cls, kind := 9, addr := BitVec.ofNat 64 (16 * f.region.toNat + f.cell.toNat), payload := [] }

/-- A core's senders, and those of the core that its cell has left, send the flip markers that are due by the old routes; from then on they use the
new routes only (R147). -/
def State.sendMarkers (s : State) (k : Nat) : State :=
  let ks := k :: ((s.swap.flips.filter (fun f => f.src == k)).map Flip.oldSrc)
  let due := s.swap.flips.filter (fun f => !f.sent && ks.contains f.src)
  due.foldl
    (fun s f =>
      let flips := s.swap.flips.map (fun g => if g = f then { g with sent := true } else g)
      ({ s with swap := { s.swap with flips := flips } }).sendPacket f.marker) s

/-- ROUTE_UPDATE: the route update that the input names reaches its core; one for a sender in another package leaves (R147). -/
def execRouteUpdate (s : State) : Outcome State Fault Refusal :=
  .next (match s.findPacket s.input.num with
    | none => s
    | some p =>
      if !p.isRoute ∨ !s.deliverable p then s
      else if p.leaves then s.leave p
      else
        match nodeCore p.dst with
        | some k => (s.takePacket p.id).sendMarkers k
        | none => s.takePacket p.id)

end Sys2Proof.Machine
end

