-- ==== Sys2Proof/Machine/Boot.lean ====
section
/-! DEFINITION. Cold reset and boot: the discovery table (R22 to R28), the steps of R88, the Draeth image and the owner store (R89 to R93),
measurement and SPDM (R95). -/

namespace Sys2Proof

open Sys2Proof.Machine

/-! ## The discovery table (R22 to R28) -/

/-- Live cores of a die, and what an instance of a scope holds: dies, cores, stacks. -/
def SelfTest.dieCores (t : SelfTest) (d : Nat) : Nat := ((List.range 16).filter (fun c => t.coreLive (16 * d + c))).length
def SelfTest.dieUnits (t : SelfTest) (d : Nat) : Nat × Nat × Nat := (1, t.dieCores d, 0)
def SelfTest.retUnits (t : SelfTest) (r : Nat) : Nat × Nat × Nat :=
  let ds := [2 * r, 2 * r + 1].filter t.dieLive
  (ds.length, (ds.map t.dieCores).sum, ((List.range 4).filter (fun i => t.stackLive (4 * r + i))).length)
def SelfTest.pkgUnits (t : SelfTest) : Nat × Nat × Nat := (((List.range 8).filter t.dieLive).length, t.cores.length, t.stacks.length)

/-- What each package of the pod holds, in the order of their indices: those that live pod links reach (R18, R20). -/
def SelfTest.packages (t : SelfTest) : List (Nat × Nat × Nat) :=
  ((List.range 64).filter (fun k => t.podMask.getLsbD k || k == t.pkgId.toNat)).filterMap (fun k =>
    if k = t.pkgId.toNat then some t.pkgUnits else (t.podUnits.find? (fun u => u.1 == k)).map (fun u => u.2))

/-- What all packages of the pod hold together. -/
def SelfTest.allUnits (t : SelfTest) : Nat × Nat × Nat :=
  t.packages.foldl (fun a u => (a.1 + u.1, a.2.1 + u.2.1, a.2.2 + u.2.2)) (0, 0, 0)

/-- The smallest instance: fewest cores, then fewest stacks, then the lowest number (R26). -/
def leastUnits : List (Nat × Nat × Nat) → Nat × Nat × Nat
  | [] => (0, 0, 0)
  | [u] => u
  | u :: rest =>
    let v := leastUnits rest
    if v.2.1 < u.2.1 ∨ (v.2.1 = u.2.1 ∧ v.2.2 < u.2.2) then v else u

/-- SC_DIES, SC_CORES, SC_STACKS and SC_PKGS of a scope (R26). A reticle is a live instance if one of its base dies is live, and the .pkg record
describes the package of the pod with the fewest live cores (assumption 90, DESIGN CHOICE). -/
def SelfTest.scopeUnits (t : SelfTest) (code : Nat) : Nat × Nat × Nat × Nat :=
  let pkgs := ((List.range 64).filter (fun k => t.podMask.getLsbD k)).length
  let one : Nat × Nat × Nat → Nat × Nat × Nat × Nat := fun u => (u.1, u.2.1, u.2.2, 1)
  if code ≤ 1 then (0, 1, 0, 1)
  else if code ≤ 3 then one (leastUnits (((List.range 8).filter t.dieLive).map t.dieUnits))
  else if code = 4 then
    one (leastUnits (((List.range 4).filter (fun r => (List.range 4).any (fun i => t.baseLive (4 * r + i)))).map t.retUnits))
  else if code = 5 then one (leastUnits t.packages)
  else let u := t.allUnits; (u.1, u.2.1, u.2.2, pkgs)

/-- A build in which every unit passes (R12, R15, R26). -/
def SelfTest.fullBuild (t : SelfTest) : Bool :=
  t.cores.length == 128 && t.stacks.length == 16 && (List.range 16).all t.chanLive && (List.range 16).all t.ethLive

/-- The fence costs of a full build in a pod of two packages, by scope code (R26). -/
def fullFences : List (Nat × Nat × Nat) :=
  [(1, 2, 4), (8, 12, 40), (40, 70, 200), (80, 120, 300), (200, 350, 900), (500, 800, 2400), (3000, 6000, 40000), (4000, 8000, 60000)]

/-- The fence costs that boot writes: R26's for a full build in a pod of two, else what self-test has measured. -/
def SelfTest.fences (t : SelfTest) (code : Nat) : Nat × Nat × Nat :=
  (if t.fullBuild && t.packages.length == 2 then fullFences else t.fenceCosts).getD code (0, 0, 0)

/-- A scope record (R26). SC_DIES is one byte, which a pod of more than 255 live dies wraps (assumption 90, DESIGN CHOICE). -/
def SelfTest.scopeRecord (t : SelfTest) (code : Nat) : List Byte :=
  let u := t.scopeUnits code
  let f := t.fences code
  leBytes 1 code ++ leBytes 1 u.1 ++ leBytes 2 u.2.1 ++ leBytes 2 u.2.2.1 ++ leBytes 2 u.2.2.2 ++
  leBytes 4 f.1 ++ leBytes 4 f.2.1 ++ leBytes 4 f.2.2 ++ List.replicate 12 0

/-- An attachment record (R27). -/
def attachRecord (stack : Nat) (live : Bool) : List Byte :=
  leBytes 1 (stack / 2) ++ leBytes 1 (entryCore stack % 16) ++ leBytes 1 stack ++ leBytes 1 (if live then 1 else 0)

def bit16 (n : Nat) (f : Nat → Bool) : Nat := maskOf ((List.range n).filter f)

/-- DT_SHAPE (R24, R25). -/
def SelfTest.shapeDigest (t : SelfTest) : BitVec 384 := sha384 t.shapeRecord

/-- The fields of the discovery table (R24 to R28), each at its offset. -/
def SelfTest.table (t : SelfTest) (gen : Word) (time : BitVec 96) : List (Nat × List Byte) :=
  [ (0x00, leBytes 4 0x4C445649), (0x04, leBytes 2 1), (0x06, leBytes 2 1), (0x08, leBytes 4 0x400), (0x0C, leBytes 1 t.pkgId.toNat),
    (0x0D, leBytes 1 t.podCount), (0x10, leBytes 8 gen.toNat), (0x18, leBytes 12 time.toNat), (0x28, leBytes 1 (bit16 8 t.dieLive)),
    (0x2A, leBytes 2 (maskOf t.stacks)), (0x2C, leBytes 2 (bit16 16 t.chanLive)), (0x2E, leBytes 2 (bit16 16 t.ethLive)),
    (0x30, leBytes 2 (bit16 12 t.podLive)), (0x34, leBytes 2 (t.cores.filter (fun k => !isHub k)).length), (0x36, leBytes 1 t.stacks.length),
    (0x38, leBytes 8 t.podMask.toNat),
    (0x40, ((List.range 8).map (fun d => leBytes 2 (bit16 16 (fun c => t.coreLive (16 * d + c))))).flatten),
    (0x50, (List.range 4).map (fun r => BitVec.ofNat 8 ((t.engineStack r).getD 0xFF))), (0x60, digestBytes t.shapeDigest) ] ++
  (List.range 8).map (fun c => (0x100 + 32 * c, t.scopeRecord c)) ++
  (List.range 16).map (fun n => (0x200 + 4 * n, attachRecord n (t.ethLive n))) ++
  (List.range 12).map (fun l => (0x240 + 4 * l, attachRecord (podStack l) (t.podLive l))) ++
  latencyBounds.mapIdx (fun i b => (0x280 + 8 * i, leBytes 2 b.1 ++ [0, 0] ++ leBytes 4 b.2))

/-- The halt code of R16, in the order of its list. -/
def SelfTest.halt (t : SelfTest) : Option (BitVec 8) :=
  if !t.dieLive 0 then some 0x10
  else if !t.baseLive 0 then some 0x11
  else if !t.baseLive 3 then some 0x13
  else if t.stacks = [] then some 0x12
  else none

/-- Live dies. -/
def SelfTest.dies (t : SelfTest) : List Nat := (List.range 8).filter t.dieLive

end Sys2Proof

namespace Sys2Proof.Machine

open Host (Outcome)

/-! ## Cold reset and the supply (R88, R92, R96) -/

/-- What outlives everything in the package: fuses, owner store and boot counter; host memory is not the package's, and the model's own
counters go on. -/
def State.coldReset (s : State) (supply : Bool) : State :=
  let r := State.reset
  { r with
    agenda := s.agenda
    cur := s.cur
    curNode := s.curNode
    input := s.input
    draws := s.draws
    m := { r.m with mem := s.m.mem.filter (fun c => decide (2 ^ 50 ≤ c.1) && decide (c.1 < 2 ^ 51)) }
    boot := { r.boot with supply := supply, bootCount := s.boot.bootCount, bankA := s.boot.bankA, bankB := s.boot.bankB, useB := s.boot.useB } }

/-- COLD_RESET: the supply comes on, or the host signals Hot Reset or Link Down (R43, R88). -/
def execColdReset (s : State) : Outcome State Fault Refusal := .next (s.coldReset true)

/-- SUPPLY_LOSS (R92). -/
def execSupplyLoss (s : State) : Outcome State Fault Refusal := .next (s.coldReset false)

/-! ## Measurement (R95) -/

/-- Extend measurement register `n`. -/
def State.extend (s : State) (n : Nat) (v : BitVec 384) : State :=
  let old := s.boot.mr.getD n 0
  { s with boot := { s.boot with mr := s.boot.mr.set n (sha384 (digestBytes old ++ digestBytes v)) } }

/-! ## Steps 1 to 4 (R16, R88) -/

/-- Steps 2 to 4: the boot counter, the discovery table and the interleave registers; boot ROM; the lowest live Ethernet port. -/
def State.writeTable (s : State) : State :=
  let s0 := s.elapse
  let t := s0.boot.test
  let gen := s0.boot.bootCount + 1
  let now := s0.timeOf 0
  let s1 := (t.table gen now).foldl (fun s f => s.store (Loc.key (.dt f.1)) f.2) s0
  let s2 : State := { s1 with
    boot := { s1.boot with bootCount := gen, dtValid := true, dtBootTime := now, since := s1.time.cycle }
    host := { s1.host with linkUp := true } }
  let s3 := ((s2.setStage 1).extend 0 Config.romDigest).extend 4 t.shapeDigest
  match (List.range 16).find? t.ethLive with
  | none => s3.bootHalt 0x20
  | some n => { s3 with boot := { s3.boot with netPort := n, netTry := 0, netAddr := none, netUrl := [], netAsk := 0, netBlock := 0 } }.setStage 2

/-- SELF_TEST_DONE: self-test has found what the input says (R15, R16). A host link that does not train holds boot here. -/
def execSelfTestDone (s : State) : Outcome State Fault Refusal :=
  .next (match s.input.test with
    | none => s
    | some t0 =>
      if s.boot.stage ≠ 0 ∨ s.boot.tested then s
      else
        let t := t0.settled
        let s1 : State := { s with boot := { s.boot with test := t, tested := true, since := s.time.cycle } }
        match t.halt with
        | some c => s1.bootHalt c
        | none => if t.hostLinkUp then s1.writeTable else s1)

/-- HOST_LINK_RETRAIN: once a second the link is trained again; the input's flag says whether it has trained (R88). -/
def execHostLinkRetrain (s : State) : Outcome State Fault Refusal :=
  .next (if s.boot.stage ≠ 0 ∨ !s.boot.tested ∨ s.time.cycle < s.boot.since + 2000000000 then s
    else if s.input.flag then s.writeTable
    else { s with boot := { s.boot with since := s.time.cycle } })

/-! ## Steps 5 and 6 (R88) -/

/-- The URL scheme that the image location must have. -/
def tftpScheme : List Byte := [0x74, 0x66, 0x74, 0x70, 0x3A, 0x2F, 0x2F]

/-- The 10 s of the attempt in progress have not passed. -/
def State.attempting (s : State) : Bool := s.boot.stage == 2 && decide (s.time.cycle < s.boot.since + 20000000000)

/-- DHCPV6_REPLY: boot ROM gets an address and the image's location, which must be a tftp URL, and asks for the image in blocks of 1,428
bytes. -/
def execDhcpv6Reply (s : State) : Outcome State Fault Refusal :=
  .next (if !s.attempting ∨ s.input.bytes.take 7 ≠ tftpScheme then s
    else { s with boot := { s.boot with netAddr := some s.input.addr, netUrl := s.input.bytes, netAsk := 1428 } })

/-- BOOT_ATTEMPT_TIMEOUT: three attempts of 10 s on each live port in ascending order, then boot halts, with the code of the way in which the last
attempt failed (R88; assumption 112, DESIGN CHOICE). -/
def execBootAttemptTimeout (s : State) : Outcome State Fault Refusal :=
  .next (if s.boot.stage ≠ 2 ∨ s.time.cycle < s.boot.since + 20000000000 then s
    else
      let b := { s.boot with netAddr := none, netUrl := [], netAsk := 0, since := s.time.cycle }
      if s.boot.netTry < 2 then { s with boot := { b with netTry := s.boot.netTry + 1 } }
      else
        match (List.range 16).find? (fun n => decide (s.boot.netPort < n) && s.boot.test.ethLive n) with
        | some n => { s with boot := { b with netTry := 0, netPort := n } }
        | none => { s with boot := b }.bootHalt (if s.boot.netAddr.isNone then 0x21 else 0x22))

/-! ## The image (R89, R90) -/

def allZero (bs : List Byte) : Bool := bs.all (· == 0)
def part (bs : List Byte) (i n : Nat) : List Byte := (bs.drop i).take n

/-- An entry of the section directory: code offset and length, data offset and length. -/
structure Section where
  codeOff : Nat
  codeLen : Nat
  dataOff : Nat
  dataLen : Nat
  deriving DecidableEq, Repr

def sectionOf (body : List Byte) (d : Nat) : Section :=
  let f := fun i n => fieldAt body (32 * d + i) n
  ⟨f 0 8, f 8 4, f 0x10 8, f 0x18 4⟩

/-- An entry obeys R90. -/
def sectionOk (body : List Byte) (len d : Nat) : Bool :=
  let x := sectionOf body d
  x.codeOff % 4096 == 0 && decide (0x1000 ≤ x.codeOff) && x.codeLen % 4 == 0 && decide (4 ≤ x.codeLen) && decide (x.codeLen ≤ 65536) &&
  x.dataOff % 4096 == 0 && decide (0x1000 ≤ x.dataOff) && decide (x.dataLen ≤ 0x2FF0000) && decide (x.codeOff + x.codeLen ≤ len) &&
  decide (x.dataOff + x.dataLen ≤ len) && fieldAt body (32 * d + 0xC) 4 == 0 && fieldAt body (32 * d + 0x1C) 4 == 0

/-- No code range meets a data range, and every byte outside the directory and the ranges is zero. -/
def sectionsOk (body : List Byte) (len : Nat) : Bool :=
  let xs := (List.range 8).map (sectionOf body)
  let apart := xs.all (fun x => xs.all (fun y =>
    y.dataLen == 0 || decide (x.codeOff + x.codeLen ≤ y.dataOff) || decide (y.dataOff + y.dataLen ≤ x.codeOff)))
  let covered : Nat → Bool := fun i =>
    xs.any (fun x =>
      (decide (x.codeOff ≤ i) && decide (i < x.codeOff + x.codeLen)) || (decide (x.dataOff ≤ i) && decide (i < x.dataOff + x.dataLen)))
  (List.range 8).all (sectionOk body len) && apart && allZero (part body 0x100 0xF00) &&
  (body.mapIdx (fun i b => decide (i < 0x1000) || b == 0 || covered i)).all id

def imageFlags (h : List Byte) : Nat := fieldAt h 6 2

/-- Check 1 of R91. -/
def imageFormatOk (h body : List Byte) : Bool :=
  let len := fieldAt h 0x10 8
  h.length == 1024 && fieldAt h 0 4 == 0x44524145 && fieldAt h 4 2 == 1 && decide (imageFlags h < 2) && fieldAt h 0xC 4 == 0 &&
  len % 4096 == 0 && decide (len ≤ 0x10000000) && body.length == len && allZero (part h 0x108 248) &&
  (if imageFlags h = 1 then allZero (part h 0x281 7) else allZero (part h 0x200 512)) && decide (0x1000 ≤ len) && sectionsOk body len

/-! ## The owner store (R91, R92) -/

def Boot.bank (b : Boot) : OwnerBank := if b.useB then b.bankB else b.bankA

/-- The owner key that holds: the provisioning key until a first transfer. -/
def OwnerBank.owner (k : OwnerBank) : BitVec 776 := k.key.getD Config.provisioningKey

/-- A key's 97 bytes as a number, first byte highest. -/
def keyOf (bs : List Byte) : BitVec 776 := BitVec.ofNat 776 (beNat bs)

/-- The digest that both signatures of a token cover. -/
def tokenDigest (tk : List Byte) : BitVec 384 := sha384 (part tk 0 0x88)

/-- A token's five fields check: the epoch, the device, the new key, a point of the curve, and the two signatures; any TK_SVNMIN will do (R92;
assumption 113, DEDUCED). -/
def tokenOk (k : OwnerBank) (tk : List Byte) : Bool :=
  let d := tokenDigest tk
  fieldAt tk 0 8 == k.epoch.toNat && fieldAt tk 8 16 == Config.deviceId.toNat && (keyPoint (keyOf (part tk 0x20 97))).isSome &&
  verifies Config.rootKey d (part tk 0x88 96) && verifies k.owner d (part tk 0xE8 96)

/-- Commit: the other bank is written and taken, and the old owner key is erased (R92). -/
def Boot.commit (b : Boot) (tk : List Byte) : Boot :=
  let k := b.bank
  let svn := max k.svnMin.toNat (fieldAt tk 0x18 8)
  let new : OwnerBank := { key := some (keyOf (part tk 0x20 97)), epoch := k.epoch + 1, svnMin := BitVec.ofNat 64 svn }
  let gone : OwnerBank := { key := none, epoch := 0, svnMin := 0 }
  if b.useB then { b with bankA := new, bankB := gone, useB := false } else { b with bankB := new, bankA := gone, useB := true }

/-! ## Checks and firmware start (R91, R93) -/

/-- The control core of a hub core as die firmware starts, its watchdog at 100,000 µs (R93, R359). -/
def State.hubCtl (s : State) : Ctl :=
  let r := CtlRegs.reset true
  { Ctl.reset true with run := .running, dogEnd := s.time.cycle + 200000000, r := { r with fwDog := 100000 } }

/-- Load the firmware of a die (R93). -/
def State.loadFirmware (s : State) (body : List Byte) (d : Nat) : State :=
  let x := sectionOf body d
  let k := 16 * d
  let code := part body x.codeOff x.codeLen
  let s1 := (s.fillRange (codeKey k 0) 65536 code).store (Loc.key (.vault k 0)) (part body x.dataOff x.dataLen)
  (s1.fillRange (Loc.key (.vault k 0x2FF0000)) 65536 code).setCtlAt k s.hubCtl

/-- Check 3 of R91: the token, if there is one, which MR2 measures by the digest that its signatures are made over; its acceptance, and the state it
leaves (R92, R95; assumption 114, DEDUCED). -/
def State.takeToken (s : State) (h : List Byte) : Bool × State :=
  if imageFlags h = 0 then (true, s)
  else
    let tk := part h 0x200 512
    let s1 := s.extend 2 (tokenDigest tk)
    if tokenOk s.boot.bank tk then (true, { s1 with boot := s1.boot.commit tk }) else (false, s1)

/-- Checks 4 to 6 of R91: the halt code of the first that fails. -/
def State.imageHalt (s : State) (h : List Byte) : Option (BitVec 8) :=
  let d := sha384 (h.take 0x48)
  let k := s.boot.bank
  if !verifies Config.rootKey d (part h 0x48 96) then some 0x31
  else if !verifies k.owner d (part h 0xA8 96) then some 0x32
  else if fieldAt h 8 4 < k.svnMin.toNat then some 0x33
  else none

/-- The block size that the server has granted, any it likes: the input's, or RFC 1350's 512 bytes where it grants none (R88). -/
def State.granted (s : State) : Nat := if s.input.size = 0 then 512 else s.input.size

/-- TFTP_IMAGE_RECEIVED: within the attempt's 10 s, the checks of R91 in order; then the firmware is loaded and the hub cores start (R93). -/
def execTftpImageReceived (s : State) : Outcome State Fault Refusal :=
  .next (if !s.attempting ∨ s.boot.netAddr.isNone then s
    else
      let h := s.input.bytes.take 1024
      let body := s.input.bytes.drop 1024
      let s1 := { s with boot := { s.boot with netBlock := s.granted } }.setStage 3
      if !imageFormatOk h body || sha384 body != BitVec.ofNat 384 (beNat (part h 0x18 48)) then s1.bootHalt 0x30
      else
        match s1.takeToken h with
        | (false, s2) => s2.bootHalt 0x34
        | (true, s2) =>
          let s3 := (s2.extend 1 (sha384 (beBytes 97 s2.boot.bank.owner.toNat))).extend 3 (sha384 (h.take 0x48))
          match s3.imageHalt h with
          | some c => s3.bootHalt c
          | none =>
            let s4 := (s3.boot.test.dies).foldl (fun s d => s.loadFirmware body d) s3
            { s4 with boot := { s4.boot with ready := 0, since := s4.time.cycle } }.setStage 4)

/-- HUB_CORE_READY: the hub core of the input's die reports; with the last, the package runs. A report that comes later than 100 ms finds boot
halted (R93). -/
def execHubCoreReady (s : State) : Outcome State Fault Refusal :=
  .next (if s.boot.stage ≠ 4 ∨ !s.boot.test.dieLive s.input.die.toNat then s
    else if s.boot.since + 200000000 ≤ s.time.cycle then s.bootHalt 0x40
    else
      let r := s.boot.ready ||| BitVec.ofNat 8 (2 ^ s.input.die.toNat)
      let s1 : State := { s with boot := { s.boot with ready := r } }
      if (s.boot.test.dies).all (fun d => r.getLsbD d) then s1.setStage 5 else s1)

/-- HUB_READY_TIMEOUT: 100 ms without every report (R93). -/
def execHubReadyTimeout (s : State) : Outcome State Fault Refusal :=
  .next (if s.boot.stage ≠ 4 ∨ s.time.cycle < s.boot.since + 200000000 then s else s.bootHalt 0x40)

/-! ## SPDM (R95; assumption 75, PRESUMED) -/

/-- Answer an SPDM request that needs a stage of the exchange: an error where a request comes before those it builds on. -/
def State.spdmAnswer (s : State) (needs next : Nat) (code : BitVec 8) (body : List Byte) : State :=
  if !s.host.linkUp then s
  else
    let m := s.mon
    if m.spdmStage.toNat < needs then { s with mon := { m with spdm := m.spdm ++ [⟨0x7F, [4]⟩] } }
    else { s with mon := { m with spdm := m.spdm ++ [⟨code, body⟩], spdmStage := if needs = next then m.spdmStage else BitVec.ofNat 2 next } }

/-- The measurement blocks MR0 to MR7. -/
def State.measurements (s : State) : List Byte := (s.boot.mr.map digestBytes).flatten

/-- A signature by the derived key over a nonce and what the answer says. -/
def State.signed (s : State) (bs : List Byte) : List Byte := Config.sign s.draws (sha384 (leBytes 32 s.input.nonce.toNat ++ bs))

/-- GET_VERSION: version 1.2. -/
def execGetVersion (s : State) : Outcome State Fault Refusal := .next (s.spdmAnswer 0 1 0x04 [0x12])

/-- GET_CAPABILITIES: certificates, challenges and signed measurements. -/
def execGetCapabilities (s : State) : Outcome State Fault Refusal := .next (s.spdmAnswer 1 2 0x61 [0x16])

/-- NEGOTIATE_ALGORITHMS: TPM_ALG_ECDSA_ECC_NIST_P384 and SHA-384. -/
def execNegotiateAlgorithms (s : State) : Outcome State Fault Refusal := .next (s.spdmAnswer 2 3 0x63 [0x80, 0x02])

/-- GET_DIGESTS: SHA-384 of the certificate. -/
def execGetDigests (s : State) : Outcome State Fault Refusal := .next (s.spdmAnswer 3 3 0x01 (digestBytes (sha384 Config.certChain)))

/-- GET_CERTIFICATE: the certificate of the derived key, signed by the maker. -/
def execGetCertificate (s : State) : Outcome State Fault Refusal := .next (s.spdmAnswer 3 3 0x02 Config.certChain)

/-- CHALLENGE: a signature by the derived key. -/
def execChallenge (s : State) : Outcome State Fault Refusal :=
  .next ((s.spdmAnswer 3 3 0x03 (s.signed (digestBytes (sha384 Config.certChain)))).drawn)

/-- GET_MEASUREMENTS: MR0 to MR7, signed. -/
def execGetMeasurements (s : State) : Outcome State Fault Refusal :=
  .next ((s.spdmAnswer 3 3 0x60 (s.measurements ++ s.signed s.measurements)).drawn)

end Sys2Proof.Machine
end

