-- ==== Sys2Proof/Machine/Branch.lean ====
section
/-! DEFINITION. Branches and jumps (R332, R333). -/

namespace Sys2Proof.Machine

open Host (Outcome)

/-- BEQ: taken when a = b (R332). -/
def execBeq (a b : Reg) (off : BitVec 16) (s : State) : Outcome State Fault Refusal := .next (s.branchIf a b off (fun x y => x == y))

/-- BNE: taken when a ≠ b (R332). -/
def execBne (a b : Reg) (off : BitVec 16) (s : State) : Outcome State Fault Refusal := .next (s.branchIf a b off (fun x y => x != y))

/-- BLT: taken when a < b, signed (R332). -/
def execBlt (a b : Reg) (off : BitVec 16) (s : State) : Outcome State Fault Refusal := .next (s.branchIf a b off sltCond)

/-- BGE: taken when a ≥ b, signed (R332). -/
def execBge (a b : Reg) (off : BitVec 16) (s : State) : Outcome State Fault Refusal := .next (s.branchIf a b off (fun x y => !sltCond x y))

/-- BLTU: taken when a < b, unsigned (R332). -/
def execBltu (a b : Reg) (off : BitVec 16) (s : State) : Outcome State Fault Refusal := .next (s.branchIf a b off ultCond)

/-- BGEU: taken when a ≥ b, unsigned (R332). -/
def execBgeu (a b : Reg) (off : BitVec 16) (s : State) : Outcome State Fault Refusal := .next (s.branchIf a b off (fun x y => !ultCond x y))

/-- JAL: the link is pc + 4, and execution continues at the target (R333). -/
def execJal (d : Reg) (off : BitVec 21) (s : State) : Outcome State Fault Refusal :=
  .next (s.whenReady [d] (fun s => (s.setReg d (s.pc + 4)).setPc (branchTarget s.pc off)))

/-- JALR: the old sA is read before the link is written (R333). -/
def execJalr (d a : Reg) (i : BitVec 16) (s : State) : Outcome State Fault Refusal :=
  .next (s.whenReady [d, a] (fun s => (s.setReg d (s.pc + 4)).setPc (jalrTarget (s.reg a) i)))

end Sys2Proof.Machine
end

