-- ==== Sys2Proof/Machine/Fpu.lean ====
section
/-! DEFINITION. The FPU group of the control core (R321 to R324). -/

namespace Sys2Proof.Machine

open Host (Outcome)

/-- The FP32 value in bits [31:0] of a register (R321). -/
def fpReg (v : Word) : FV := fpVal .f32 (v.toNat % 2 ^ 32)

/-- An FP32 code as a result: bits [63:32] are zero (R321). -/
def fpWord (x : Nat) : Word := BitVec.ofNat 64 (x % 2 ^ 32)

/-- Round an exact value to FP32 into a register (R282, R321). -/
def fpRound (m : Rm) (v : FV) : Word := fpWord (roundFV .f32 ovNone m v)

/-- FADD: Round(a + b) (R321). -/
def execFadd (d a b : Reg) (m : Rm) (s : State) : Outcome State Fault Refusal :=
  .next (s.compute3 d a b (fun a b => fpRound m (fvAdd m (fpReg a) (fpReg b))))

/-- FSUB: Round(a − b) (R321). -/
def execFsub (d a b : Reg) (m : Rm) (s : State) : Outcome State Fault Refusal :=
  .next (s.compute3 d a b (fun a b => fpRound m (fvAdd m (fpReg a) (fvNeg (fpReg b)))))

/-- FMUL: Round(a × b) (R321). -/
def execFmul (d a b : Reg) (m : Rm) (s : State) : Outcome State Fault Refusal :=
  .next (s.compute3 d a b (fun a b => fpRound m (fvMul (fpReg a) (fpReg b))))

/-- FDIV: Round(a ÷ b) (R285, R321). -/
def execFdiv (d a b : Reg) (m : Rm) (s : State) : Outcome State Fault Refusal :=
  .next (s.compute3 d a b (fun a b => fpWord (fpDiv .f32 m (fpReg a) (fpReg b))))

/-- FSQRT: Round(√a) (R286, R321). -/
def execFsqrt (d a : Reg) (m : Rm) (s : State) : Outcome State Fault Refusal :=
  .next (s.compute2 d a (fun a => fpWord (fpSqrt .f32 m (fpReg a))))

/-- FMIN (R285, R321); its mode has no effect. -/
def execFmin (d a b : Reg) (_m : Rm) (s : State) : Outcome State Fault Refusal :=
  .next (s.compute3 d a b (fun a b => fpWord (fpMinMax .f32 false (a.toNat % 2 ^ 32) (b.toNat % 2 ^ 32))))

/-- FMAX (R285, R321); its mode has no effect. -/
def execFmax (d a b : Reg) (_m : Rm) (s : State) : Outcome State Fault Refusal :=
  .next (s.compute3 d a b (fun a b => fpWord (fpMinMax .f32 true (a.toNat % 2 ^ 32) (b.toNat % 2 ^ 32))))

/-- FCMP: 1 if the condition holds (R322); its mode has no effect. -/
def execFcmp (d a b : Reg) (c : FCond) (_m : Rm) (s : State) : Outcome State Fault Refusal :=
  .next (s.compute3 d a b (fun a b => flagWord (fcmpCond c (a.toNat % 2 ^ 32) (b.toNat % 2 ^ 32))))

/-- An FCVT result: integers sign-extended or zero-extended to 64 bits, the others with zeros above (R323). -/
def fcvtValue (src dst : Fmt) (m : Rm) (a : Word) : Word := BitVec.ofNat 64 (convBits 64 src dst ovNone m a.toNat)

/-- FCVT (R323). -/
def execFcvt (d a : Reg) (src dst : Fmt) (m : Rm) (s : State) : Outcome State Fault Refusal := .next (s.compute2 d a (fcvtValue src dst m))

/-- FCLASS: one bit names the class (R322); its mode has no effect. -/
def execFclass (d a : Reg) (_m : Rm) (s : State) : Outcome State Fault Refusal :=
  .next (s.compute2 d a (fun a => BitVec.ofNat 64 (2 ^ fpClass (a.toNat % 2 ^ 32))))

/-- SCALEX: the E8M0 scale of a for a format (R289, R324); its mode has no effect. -/
def execScalex (d a : Reg) (f : Fmt) (_m : Rm) (s : State) : Outcome State Fault Refusal :=
  .next (s.compute2 d a (fun a => BitVec.ofNat 64 (scaleXCode (a.toNat % 2 ^ 32) f)))

end Sys2Proof.Machine
end

