-- ==== Sys2Proof/Machine/LoadStore.lean ====
section
/-! DEFINITION. Loads and stores (R325 to R327) and fences (R331). -/

namespace Sys2Proof.Machine

open Host (Outcome)

/-- A load of a size from a space (R325). -/
def State.loadFrom (s : State) (d base : Reg) (o : Ord) (z : Sz) (sp : Sp) (ea : Word) : State :=
  s.whenReady [d, base] (fun s =>
    s.memory { op := .read, sp := sp, ea := ea, named := ea, size := z.bytes, ord := o, data := [], expect := [], dest := .reg d z })

/-- A store of a size to a space (R325). -/
def State.storeTo (s : State) (v base : Reg) (o : Ord) (z : Sz) (sp : Sp) (ea : Word) : State :=
  s.whenReady [v, base] (fun s =>
    s.memory { op := .write, sp := sp, ea := ea, named := ea, size := z.bytes, ord := o, data := regBytes (s.reg v) z.bytes, expect := [],
               dest := .store })

/-- LD: a load from global space (R325, R326). -/
def execLd (d base : Reg) (o : Ord) (z : Sz) (off : BitVec 9) (s : State) : Outcome State Fault Refusal :=
  .next (s.loadFrom d base o z .g (effAddr (s.reg base) off z.bytes))

/-- ST: a store to global space (R325, R326). -/
def execSt (v base : Reg) (o : Ord) (z : Sz) (off : BitVec 9) (s : State) : Outcome State Fault Refusal :=
  .next (s.storeTo v base o z .g (effAddr (s.reg base) off z.bytes))

/-- LDX: a load from the space its SP field names (R325, R326). -/
def execLdx (d base : Reg) (o : Ord) (z : Sz) (sp : Sp) (off : BitVec 7) (s : State) : Outcome State Fault Refusal :=
  .next (s.loadFrom d base o z sp (effAddr (s.reg base) off z.bytes))

/-- STX: a store to the space its SP field names (R325, R326). -/
def execStx (v base : Reg) (o : Ord) (z : Sz) (sp : Sp) (off : BitVec 7) (s : State) : Outcome State Fault Refusal :=
  .next (s.storeTo v base o z sp (effAddr (s.reg base) off z.bytes))

/-- Accesses of the core that a fence waits for, loads and atomics alone or all of them (R331). -/
def State.fenceIds (s : State) (all : Bool) : List Nat :=
  if all then s.openIds (.ctl s.cur)
  else ((s.outstanding (.ctl s.cur)).filter (fun x => !x.isStoreCount)).map Access.id

/-- The scope of a bank action that is still due, joined with another's: the wider one. -/
def widerScope (a : Option Scope) (b : Scope) : Option Scope :=
  match a with
  | none => some b
  | some c => some (if b.toNat ≤ c.toNat then c else b)

/-- An acquire fence: later accesses wait for earlier loads and atomics, and then the bank action is taken (R170, R331). -/
def State.fenceAcq (s : State) (sc : Scope) : State :=
  s.setCtl { s.ctl with acqWait := s.ctl.acqWait ++ s.fenceIds false, acqScope := widerScope s.ctl.acqScope sc }

/-- A release fence: dirty bank lines are written back at .layer and wider, and later stores and atomics wait for every earlier access
(R170, R331). -/
def State.fenceRel (s : State) (sc : Scope) : State :=
  let s1 := s.releaseBanks s.me sc
  s1.setCtl { s1.ctl with relWait := s1.ctl.relWait ++ s1.fenceIds true }

/-- A full fence also holds later loads until every earlier store and atomic has performed (R331). -/
def State.fenceFull (s : State) (sc : Scope) : State :=
  let s1 := (s.fenceRel sc).fenceAcq sc
  s1.setCtl { s1.ctl with fullWait := s1.ctl.fullWait ++ s1.fenceIds true }

/-- FENCE.ACQ (R331). -/
def execFenceAcq (sc : Scope) (s : State) : Outcome State Fault Refusal := .next (s.fenceAcq sc).advancePc

/-- FENCE.REL (R331). -/
def execFenceRel (sc : Scope) (s : State) : Outcome State Fault Refusal := .next (s.fenceRel sc).advancePc

/-- FENCE.AR: both (R331). -/
def execFenceAr (sc : Scope) (s : State) : Outcome State Fault Refusal := .next ((s.fenceRel sc).fenceAcq sc).advancePc

/-- FENCE.FULL (R331). -/
def execFenceFull (sc : Scope) (s : State) : Outcome State Fault Refusal := .next (s.fenceFull sc).advancePc

end Sys2Proof.Machine
end

