-- ==== Sys2Proof/Machine/NodeConv.lean ====
section
/-! DEFINITION. C-tile micro-ops that convert, quantise and pack, VCVT to VSCALE (R375 to R377). -/

namespace Sys2Proof.Machine

open Host (Outcome)

/-- VCVT: each lane converted, narrow results zero-extended and INT8 sign-extended (R375). -/
def execVcvt (d : Dst) (a : Src) (src dst : Fmt) (p : Bool) (m : Mode) (s : State) : Outcome State Fault Refusal :=
  .next (s.lanes1 d a p (fmtCode dst) (fun x => convBits 32 src dst s.ovFlags (s.rounding m) x))

/-- VQNT: Round(a × 2^(127 − e)) into a narrow format; e of 0xFF gives the NaN row (R376). -/
def execVqnt (d : Dst) (a b : Src) (f : Fmt) (p : Bool) (m : Mode) (s : State) : Outcome State Fault Refusal :=
  .next (s.lanes2 d a b p (fmtCode f) (fun x y =>
    let e := y % 256
    let v := if e = 0xFF then .nan else fvScale (fpVal .f32 x) (127 - (e : Int))
    convTo 32 f s.ovFlags (s.rounding m) v))

/-- VDQ: Round(value × 2^(e − 127)) to FP32 (R376). -/
def execVdq (d : Dst) (a b : Src) (f : Fmt) (p : Bool) (m : Mode) (s : State) : Outcome State Fault Refusal :=
  .next (s.lanes2 d a b p 3 (fun x y =>
    let e := y % 256
    let v := if e = 0xFF then .nan else fvScale (elemVal f x) ((e : Int) - 127)
    roundFV .f32 ovNone (s.rounding m) v))

/-- VSCALE: Round(a × 2^SInt(b)); zeros and infinities unchanged (R376). An exponent is clamped to where every finite result has overflowed
or vanished, which changes no rounding. -/
def execVscale (d : Dst) (a b : Src) (p : Bool) (m : Mode) (s : State) : Outcome State Fault Refusal :=
  .next (s.lanes2 d a b p 3 (fun x y =>
    if x % 2 ^ 31 = 0 ∨ x % 2 ^ 31 = 0x7F800000 then x
    else roundFV .f32 ovNone (s.rounding m) (fvScale (fpVal .f32 x) (clampInt (-1000) 1000 (sInt 32 y)))))

/-- Bits of an element (R377). -/
def packBits : PackW → Nat
  | .w16 => 16
  | .w8 => 8
  | .w4 => 4

/-- VPACK: 64 elements of the lanes of a and b fill the low bits (R377). -/
def execVpack (d : Dst) (a b : Src) (w : PackW) (p : Bool) (s : State) : Outcome State Fault Refusal :=
  .next (s.micro d p (fun s =>
    let x := s.source a
    let y := s.source b
    let k := packBits w
    let per := 32 / k
    let elem : Nat → Nat := fun j => if j < 32 then x.lane j % 2 ^ k else if j < 64 then y.lane (j - 32) % 2 ^ k else 0
    let mask : BitVec 4 := match w with | .w16 => 15 | .w8 => 3 | .w4 => 1
    mkRes mask x.fmt.toNat (fun n => ((List.range per).map (fun i => elem (per * n + i) * 2 ^ (k * i))).sum)))

/-- VUNPK: lane n takes element b.lane[0] + n of a's payload (R377). -/
def execVunpk (d : Dst) (a b : Src) (signed : Bool) (w : PackW) (p : Bool) (s : State) : Outcome State Fault Refusal :=
  .next (s.micro d p (fun s =>
    let x := s.source a
    let y := s.source b
    let k := packBits w
    let line := (lineOfLanes x.lanes).toNat
    mkRes (maskOfOpnds [x, y]) x.fmt.toNat (fun n =>
      let j := y.lane 0 + n
      let e := if k * j < 1024 then line / 2 ^ (k * j) % 2 ^ k else 0
      if signed then ofInt 32 (sInt k e) else e)))

end Sys2Proof.Machine
end

