-- ==== Sys2Proof/Machine/NodeFp.lean ====
section
/-! DEFINITION. C-tile floating-point micro-ops, VADD to VRINT, as FP32 lanes or pairs of BF16 halves (R285, R286, R369, R370). -/

namespace Sys2Proof.Machine

open Host (Outcome)

/-- An operation on codes of a format as a lane operation: the whole lane, or each BF16 half (R370). -/
def perHalf (x2 : Bool) (f : Fmt → Nat → Nat → Nat → Nat) (a b c : Nat) : Nat :=
  if x2 then
    let h : Nat → Nat := fun i => f .bf16 (a / 2 ^ (16 * i) % 65536) (b / 2 ^ (16 * i) % 65536) (c / 2 ^ (16 * i) % 65536) % 65536
    h 0 + h 1 * 65536
  else f .f32 a b c

/-- The format of a floating-point result (R369, R370). -/
def fpFmt (x2 : Bool) : Nat := if x2 then 4 else 3

def State.fp1 (s : State) (d : Dst) (a : Src) (x2 p : Bool) (m : Mode) (f : Rm → Fmt → Nat → Nat) : State :=
  s.lanes1 d a p (fpFmt x2) (fun x => perHalf x2 (fun k x _ _ => f (s.rounding m) k x) x 0 0)

def State.fp2 (s : State) (d : Dst) (a b : Src) (x2 p : Bool) (m : Mode) (f : Rm → Fmt → Nat → Nat → Nat) : State :=
  s.lanes2 d a b p (fpFmt x2) (fun x y => perHalf x2 (fun k x y _ => f (s.rounding m) k x y) x y 0)

/-- The sign of a code cleared or inverted; a NaN gives the canonical NaN (R369). -/
def fpAbs (f : Fmt) (x : Nat) : Nat := if fpVal f x = .nan then canonNan f else x % 2 ^ ((fpShape f).width - 1)
def fpNeg (f : Fmt) (x : Nat) : Nat :=
  if fpVal f x = .nan then canonNan f else Nat.xor (x % 2 ^ (fpShape f).width) (2 ^ ((fpShape f).width - 1))

/-- VADD: a + b (R369). -/
def execVadd (d : Dst) (a b : Src) (x2 p : Bool) (m : Mode) (s : State) : Outcome State Fault Refusal :=
  .next (s.fp2 d a b x2 p m (fun r f x y => roundFV f ovNone r (fvAdd r (fpVal f x) (fpVal f y))))

/-- VSUB: a − b (R369). -/
def execVsub (d : Dst) (a b : Src) (x2 p : Bool) (m : Mode) (s : State) : Outcome State Fault Refusal :=
  .next (s.fp2 d a b x2 p m (fun r f x y => roundFV f ovNone r (fvAdd r (fpVal f x) (fvNeg (fpVal f y)))))

/-- VMUL: a × b (R369). -/
def execVmul (d : Dst) (a b : Src) (x2 p : Bool) (m : Mode) (s : State) : Outcome State Fault Refusal :=
  .next (s.fp2 d a b x2 p m (fun r f x y => roundFV f ovNone r (fvMul (fpVal f x) (fpVal f y))))

/-- VFMA: a × b + c, exact and rounded once (R369). -/
def execVfma (d : Dst) (a b c : Src) (x2 p : Bool) (m : Mode) (s : State) : Outcome State Fault Refusal :=
  let r := s.rounding m
  .next (s.lanes3 d a b c p (fpFmt x2)
    (perHalf x2 (fun f x y z => roundFV f ovNone r (fvAdd r (fvMul (fpVal f x) (fpVal f y)) (fpVal f z)))))

/-- VMIN: the lesser, −0 below +0 (R285, R369). -/
def execVmin (d : Dst) (a b : Src) (x2 p : Bool) (m : Mode) (s : State) : Outcome State Fault Refusal :=
  .next (s.fp2 d a b x2 p m (fun _ f x y => fpMinMax f false x y))

/-- VMAX: the greater (R285, R369). -/
def execVmax (d : Dst) (a b : Src) (x2 p : Bool) (m : Mode) (s : State) : Outcome State Fault Refusal :=
  .next (s.fp2 d a b x2 p m (fun _ f x y => fpMinMax f true x y))

/-- VABS: the sign cleared (R369). -/
def execVabs (d : Dst) (a : Src) (x2 p : Bool) (m : Mode) (s : State) : Outcome State Fault Refusal :=
  .next (s.fp1 d a x2 p m (fun _ f x => fpAbs f x))

/-- VNEG: the sign inverted (R369). -/
def execVneg (d : Dst) (a : Src) (x2 p : Bool) (m : Mode) (s : State) : Outcome State Fault Refusal :=
  .next (s.fp1 d a x2 p m (fun _ f x => fpNeg f x))

/-- VRCP: 1 / a (R286, R369). -/
def execVrcp (d : Dst) (a : Src) (x2 p : Bool) (m : Mode) (s : State) : Outcome State Fault Refusal :=
  .next (s.fp1 d a x2 p m (fun r f x => fpDiv f r (.fin false 1 0) (fpVal f x)))

/-- VRSQ: 1 / √a (R286, R369). -/
def execVrsq (d : Dst) (a : Src) (x2 p : Bool) (m : Mode) (s : State) : Outcome State Fault Refusal :=
  .next (s.fp1 d a x2 p m (fun r f x => fpRsqrt f r (fpVal f x)))

/-- VSQRT: √a (R286, R369). -/
def execVsqrt (d : Dst) (a : Src) (x2 p : Bool) (m : Mode) (s : State) : Outcome State Fault Refusal :=
  .next (s.fp1 d a x2 p m (fun r f x => fpSqrt f r (fpVal f x)))

/-- VEXP2: 2^a (R286, R369). -/
def execVexp2 (d : Dst) (a : Src) (x2 p : Bool) (m : Mode) (s : State) : Outcome State Fault Refusal :=
  .next (s.fp1 d a x2 p m (fun r f x => fpExp2 f r (fpVal f x)))

/-- VLOG2: log₂ a (R286, R369). -/
def execVlog2 (d : Dst) (a : Src) (x2 p : Bool) (m : Mode) (s : State) : Outcome State Fault Refusal :=
  .next (s.fp1 d a x2 p m (fun r f x => fpLog2 f r (fpVal f x)))

/-- VRINT: a rounded to an integral value in the mode (R369). -/
def execVrint (d : Dst) (a : Src) (x2 p : Bool) (m : Mode) (s : State) : Outcome State Fault Refusal :=
  .next (s.fp1 d a x2 p m (fun r f x => fpRint f r x))

end Sys2Proof.Machine
end

