-- ==== Sys2Proof/Machine/NodeInt.lean ====
section
/-! DEFINITION. C-tile integer micro-ops, VIADD to VPOPC: 32-bit lanes, wrapping or saturating (R290, R371). -/

namespace Sys2Proof.Machine

open Host (Outcome)

/-- The exact result of an operation on signed lanes, wrapped to 32 bits or saturated (R371). -/
def wrapLane (sat : Bool) (v : Int) : Nat := ofInt 32 (if sat then satInt32 v else v)

/-- VIADD: a + b (R371). -/
def execViadd (d : Dst) (a b : Src) (p sat : Bool) (s : State) : Outcome State Fault Refusal :=
  .next (s.lanes2 d a b p 2 (fun x y => wrapLane sat (sInt 32 x + sInt 32 y)))

/-- VISUB: a − b (R371). -/
def execVisub (d : Dst) (a b : Src) (p sat : Bool) (s : State) : Outcome State Fault Refusal :=
  .next (s.lanes2 d a b p 2 (fun x y => wrapLane sat (sInt 32 x - sInt 32 y)))

/-- VIMUL: the low half of a × b, or the signed product saturated (R371). -/
def execVimul (d : Dst) (a b : Src) (p sat : Bool) (s : State) : Outcome State Fault Refusal :=
  .next (s.lanes2 d a b p 2 (fun x y => wrapLane sat (sInt 32 x * sInt 32 y)))

/-- VIMULH: bits [63:32] of the exact signed product (R371). -/
def execVimulh (d : Dst) (a b : Src) (p : Bool) (s : State) : Outcome State Fault Refusal :=
  .next (s.lanes2 d a b p 2 (fun x y => ofInt 64 (sInt 32 x * sInt 32 y) / 2 ^ 32))

/-- VAND (R371). -/
def execVand (d : Dst) (a b : Src) (p : Bool) (s : State) : Outcome State Fault Refusal :=
  .next (s.lanes2 d a b p 2 Nat.land)

/-- VOR (R371). -/
def execVor (d : Dst) (a b : Src) (p : Bool) (s : State) : Outcome State Fault Refusal :=
  .next (s.lanes2 d a b p 2 Nat.lor)

/-- VXOR (R371). -/
def execVxor (d : Dst) (a b : Src) (p : Bool) (s : State) : Outcome State Fault Refusal :=
  .next (s.lanes2 d a b p 2 Nat.xor)

/-- VSHL: a shifted left by b [4:0] (R371). -/
def execVshl (d : Dst) (a b : Src) (p : Bool) (s : State) : Outcome State Fault Refusal :=
  .next (s.lanes2 d a b p 2 (fun x y => x * 2 ^ (y % 32)))

/-- VSHR: a shifted right by b [4:0] (R371). -/
def execVshr (d : Dst) (a b : Src) (p : Bool) (s : State) : Outcome State Fault Refusal :=
  .next (s.lanes2 d a b p 2 (fun x y => x / 2 ^ (y % 32)))

/-- VSRA: the same, filled with the sign (R371). -/
def execVsra (d : Dst) (a b : Src) (p : Bool) (s : State) : Outcome State Fault Refusal :=
  .next (s.lanes2 d a b p 2 (fun x y => ofInt 32 (sInt 32 x / (2 ^ (y % 32) : Nat))))

/-- VIMIN: the signed lesser (R371). -/
def execVimin (d : Dst) (a b : Src) (p : Bool) (s : State) : Outcome State Fault Refusal :=
  .next (s.lanes2 d a b p 2 (fun x y => ofInt 32 (min (sInt 32 x) (sInt 32 y))))

/-- VIMAX: the signed greater (R371). -/
def execVimax (d : Dst) (a b : Src) (p : Bool) (s : State) : Outcome State Fault Refusal :=
  .next (s.lanes2 d a b p 2 (fun x y => ofInt 32 (max (sInt 32 x) (sInt 32 y))))

/-- VCLZ: zero bits above the highest set bit (R371). -/
def execVclz (d : Dst) (a : Src) (p : Bool) (s : State) : Outcome State Fault Refusal :=
  .next (s.lanes1 d a p 2 (clzNat 32))

/-- VPOPC: set bits (R371). -/
def execVpopc (d : Dst) (a : Src) (p : Bool) (s : State) : Outcome State Fault Refusal :=
  .next (s.lanes1 d a p 2 (popcNat 32))

end Sys2Proof.Machine
end

