-- ==== Sys2Proof/Machine/NodeMove.lean ====
section
/-! DEFINITION. C-tile micro-ops that compare, select, permute and reduce, VCMP to VIDX (R372 to R374). -/

namespace Sys2Proof.Machine

open Host (Outcome)

/-- The condition of a VCMP (R372). -/
def vcmpCond (t : CmpType) (c : Nat) (x y : Nat) : Bool :=
  match t with
  | .f32 =>
    match c, fvCmp (fpVal .f32 x) (fpVal .f32 y) with
    | 0, some .eq => true
    | 1, some .lt => true
    | 2, some .lt => true
    | 2, some .eq => true
    | 3, none => true
    | _, _ => false
  | .i32 =>
    match c with
    | 0 => x == y
    | 1 => decide (sInt 32 x < sInt 32 y)
    | 2 => decide (sInt 32 x ≤ sInt 32 y)
    | _ => x != y
  | .u32 =>
    match c with
    | 0 => x == y
    | 1 => decide (x < y)
    | 2 => decide (x ≤ y)
    | _ => x != y

/-- VCMP: 1 where the condition holds (R372). -/
def execVcmp (d : Dst) (a b : Src) (t : CmpType) (c : BitVec 2) (p : Bool) (s : State) : Outcome State Fault Refusal :=
  .next (s.lanes2 d a b p 1 (fun x y => if vcmpCond t c.toNat x y then 1 else 0))

/-- VSEL: a where p is 1, else b (R373). -/
def execVsel (d : Dst) (a b : Src) (s : State) : Outcome State Fault Refusal :=
  .next (s.micro d false (fun s =>
    let x := s.source a
    let y := s.source b
    mkRes (maskOfOpnds [x, y]) x.fmt.toNat (fun n => if s.pred n then x.valid n else y.lane n)))

/-- VPERM: lane n takes the lane of a that b's lane n names (R373). -/
def execVperm (d : Dst) (a b : Src) (p : Bool) (s : State) : Outcome State Fault Refusal :=
  .next (s.micro d p (fun s =>
    let x := s.source a
    let y := s.source b
    mkRes (maskOfOpnds [x, y]) x.fmt.toNat (fun n => x.valid (y.lane n % 32))))

/-- VBCAST: every lane takes the lane of a that b's lane 0 names (R373). -/
def execVbcast (d : Dst) (a b : Src) (p : Bool) (s : State) : Outcome State Fault Refusal :=
  .next (s.micro d p (fun s =>
    let x := s.source a
    let y := s.source b
    mkRes (maskOfOpnds [x, y]) x.fmt.toNat (fun _ => x.valid (y.lane 0 % 32))))

/-- VMOV (R373). -/
def execVmov (d : Dst) (a : Src) (p : Bool) (s : State) : Outcome State Fault Refusal :=
  .next (s.micro d p (fun s =>
    let x := s.source a
    mkRes (maskOfOpnds [x]) x.fmt.toNat x.valid))

/-- VIDX: 32 × FCNT + n (R373). -/
def execVidx (d : Dst) (p : Bool) (s : State) : Outcome State Fault Refusal :=
  .next (s.micro d p (fun s => mkRes 15 1 (fun n => 32 * s.nnode.fcnt.toNat + n)))

/-- A lane participates: its group is in the operand's mask and, with PRED, its p is 1 (R374). -/
def State.takesPart (s : State) (x : Opnd) (p : Bool) (n : Nat) : Bool := hasGroup x.mask (n / 8) && (!p || s.pred n)

/-- Combine over the values of a set of participating lanes (R374). -/
def redCombine (f : RedOp) (m : Rm) (vs : List Nat) : Nat :=
  let signed : (Int → Int → Int) → Int → Nat := fun g i => ofInt 32 ((vs.map (sInt 32)).foldl g i)
  match f with
  | .fadd => roundFV .f32 ovNone m (fvSum m (vs.map (fpVal .f32)))
  | .fmax => vs.foldl (fpMinMax .f32 true) 0xFF800000
  | .fmin => vs.foldl (fpMinMax .f32 false) 0x7F800000
  | .iadd => vs.sum % 2 ^ 32
  | .imax => signed max (-2147483648)
  | .imin => signed min 2147483647
  | .and => vs.foldl Nat.land 0xFFFFFFFF
  | .or => vs.foldl Nat.lor 0
  | .xor => vs.foldl Nat.xor 0
  | .umax => vs.foldl max 0

/-- The result format of a combination (R374). -/
def redFmt : RedOp → Nat
  | .fadd => 3 | .fmax => 3 | .fmin => 3 | .iadd => 2 | .imax => 2 | .imin => 2 | .and => 1 | .or => 1 | .xor => 1 | .umax => 1

/-- VRED: every lane takes the combination of all participating lanes (R374). -/
def execVred (d : Dst) (a : Src) (f : RedOp) (p : Bool) (m : Mode) (s : State) : Outcome State Fault Refusal :=
  .next (s.micro d false (fun s =>
    let x := s.source a
    let r := redCombine f (s.rounding m) (((List.range 32).filter (s.takesPart x p)).map x.lane)
    mkRes 15 (redFmt f) (fun _ => r)))

/-- VSCAN: lane n takes the combination of the participating lanes up to n (R374). -/
def execVscan (d : Dst) (a : Src) (f : RedOp) (p : Bool) (m : Mode) (s : State) : Outcome State Fault Refusal :=
  .next (s.micro d false (fun s =>
    let x := s.source a
    mkRes x.mask (redFmt f) (fun n =>
      redCombine f (s.rounding m) (((List.range (n + 1)).filter (s.takesPart x p)).map x.lane))))

end Sys2Proof.Machine
end

