-- ==== Sys2Proof/Machine/NodeStream.lean ====
section
/-! DEFINITION. C-tile stream micro-ops but for CONTEND and RQST: SEQ, CNT, CRC64, VTRN, ZPK, ZUP and EMIT (R378 to R381). -/

namespace Sys2Proof.Machine

open Host (Outcome)

/-- Token `j` of a sequence (R378). -/
def seqRes (first : Bool) (j : Nat) (b c : Opnd) : Res :=
  mkRes 15 1 (fun n =>
    if first then (if j = 0 then b.lane n else Nat.lor (b.lane n) (c.lane n)) else b.lane n + j * c.lane n)

/-- SEQ: one token in each turn, until the count is reached; none where group 0 of the count is invalid (R367, R378). -/
def execSeq (d : BitVec 2) (a b c : Src) (first : Bool) (s : State) : Outcome State Fault Refusal :=
  .next ((s.issueMicro (some d) (fun s =>
    let count := (s.source a).valid 0
    let j := s.nnode.step
    if count ≤ j then s.nextSlot
    else
      let s1 := s.writeDst (.o d) false (seqRes first j (s.source b) (s.source c))
      if count ≤ j + 1 then s1.nextSlot else s1.setNnode { s1.nnode with step := j + 1 })).settle s.nk)

/-- Lanes of an operand that participate and are not zero (R379). -/
def State.nonZero (s : State) (x : Opnd) (p : Bool) : List Nat :=
  (List.range 32).filter (fun n => s.takesPart x p n && x.lane n != 0)

/-- CNT: a running count of participating non-zero lanes (R379). -/
def execCnt (d : Dst) (a : Src) (p : Bool) (s : State) : Outcome State Fault Refusal :=
  .next (s.micro d false (fun s =>
    let nz := s.nonZero (s.source a) p
    mkRes 15 1 (fun n => (nz.filter (fun m => decide (m ≤ n))).length)))

/-- The bytes of the groups of an operand's mask, in ascending order (R380). -/
def Opnd.groupBytes (x : Opnd) : List Byte :=
  (((List.range 4).filter (hasGroup x.mask)).map (fun g =>
    ((List.range 8).map (fun n => leBytes 4 (x.lane (8 * g + n)))).flatten)).flatten

/-- CRC64: a CRC-64/XZ extended by the bytes of a (R380). -/
def execCrc64 (d : Dst) (a b : Src) (s : State) : Outcome State Fault Refusal :=
  .next (s.micro d false (fun s =>
    let y := s.source b
    let c := crc64xz (BitVec.ofNat 64 (y.lane 0 + y.lane 1 * 2 ^ 32)) (s.source a).groupBytes
    mkRes 1 1 (fun n => if n = 0 then bits c 31 0 else if n = 1 then bits c 63 32 else 0)))

/-- VTRN: lanes across groups, or bytes within each group, rearranged (R380). -/
def execVtrn (d : Dst) (a : Src) (byBytes p : Bool) (s : State) : Outcome State Fault Refusal :=
  .next (s.micro d p (fun s =>
    let x := s.source a
    if byBytes then
      mkRes x.mask x.fmt.toNat (fun n =>
        let g := n / 8
        ((List.range 4).map (fun q =>
          let r := 4 * (n % 8) + q
          let i := r / 8
          let j := r % 8
          x.lane (8 * g + j) / 2 ^ (8 * i) % 256 * 2 ^ (8 * q))).sum)
    else mkRes 15 x.fmt.toNat (fun t => x.lane (t % 4 * 8 + t / 4))))

/-- ZPK.D: the participating non-zero lanes, packed (R379). -/
def execZpkD (d : Dst) (a : Src) (p : Bool) (s : State) : Outcome State Fault Refusal :=
  .next (s.micro d false (fun s =>
    let x := s.source a
    let vals := (s.nonZero x p).map x.lane
    mkRes (BitVec.ofNat 4 (2 ^ ((vals.length + 7) / 8) - 1)) x.fmt.toNat (fun n => vals.getD n 0)))

/-- ZPK.M: the map of the participating non-zero lanes (R379). -/
def execZpkM (d : Dst) (a : Src) (p : Bool) (s : State) : Outcome State Fault Refusal :=
  .next (s.micro d false (fun s =>
    let map := maskOf (s.nonZero (s.source a) p)
    mkRes 15 1 (fun _ => map)))

/-- ZUP: lanes spread by a map (R379). -/
def execZup (d : Dst) (a b : Src) (p : Bool) (s : State) : Outcome State Fault Refusal :=
  .next (s.micro d p (fun s =>
    let x := s.source a
    let map := (s.source b).lane 0
    mkRes 15 x.fmt.toNat (fun n => if map.testBit n then x.lane (popcNat 32 (map % 2 ^ n)) else 0)))

/-- EMIT: a with a chosen VALID and FMT (R381). -/
def execEmit (d : BitVec 2) (a b : Src) (f : Fmt) (p : Bool) (s : State) : Outcome State Fault Refusal :=
  .next (s.micro (.o d) p (fun s =>
    let x := s.source a
    mkRes (BitVec.ofNat 4 ((s.source b).lane 0 % 16)) (fmtCode f) x.lane))

end Sys2Proof.Machine
end

