-- ==== Sys2Proof/Machine/Resets.lean ====
section
/-! DEFINITION. Warm reset and die firmware restarts (R94, R96, R97, R110), monitors and throttling (R98, R99), register writes (R6), the time
unit (R64), ECC logs and scrubbing (R41, R42), and the tick of R360. -/

namespace Sys2Proof.Machine

open Host (Outcome)

/-! ## Warm reset (R94, R96, R97) -/

/-- WARM: a host write to VSEC WARM, whose bit 0 asks for a warm reset while the package runs (R94). -/
def execWarm (s : State) : Outcome State Fault Refusal :=
  .next (if s.boot.stage ≠ 5 ∨ !s.host.linkUp ∨ s.input.word.toNat % 2 = 0 then s else { s with boot := { s.boot with warmReq := true } })

/-- WARM_RESET: the one that WARM has asked for, or, where the input's flag says so, one that die firmware asks for (R96). -/
def execWarmReset (s : State) : Outcome State Fault Refusal :=
  .next (if s.boot.stage ≠ 5 ∨ s.boot.warming then s
    else if s.boot.warmReq || (s.input.flag && s.fwActs s.input.die.toNat) then s.warmReset
    else s)

/-- Start the hub cores of a list of dies in firmware mode at code address 0 (R93, R96, R359). -/
def State.startHubs (s : State) (ds : List Nat) : State := ds.foldl (fun s d => s.setCtlAt (16 * d) s.hubCtl) s

/-- WARM_RESET_DONE: COW is cleared on the pages of abandoned checkpoints, die firmware runs, and vector 1,025 is signalled (R110, R162). The
period of each arbiter counts from here (R141). -/
def execWarmResetDone (s : State) : Outcome State Fault Refusal :=
  .next (if !s.boot.warming then s
    else
      let s1 : State := { s with boot := { s.boot with warming := false } }
      let s2 := (s1.dropJobs Ckpt.abort).startHubs s1.boot.test.dies
      let arbs := (List.range 8).map (fun d => (d, { Arbiter.reset with next := s2.time.cycle + 200000 }))
      { s2 with swap := { s2.swap with arb := arbs } }.msi 1025)

/-! ## Die firmware restarts (R96, R97, R359) -/

/-- A die whose firmware runs. -/
def State.fwRuns (s : State) (d : Nat) : Bool :=
  decide (4 ≤ s.boot.stage.toNat) && s.boot.stage != 0xF && s.boot.test.dieLive d && !s.boot.warming && !s.boot.restarting.getLsbD d

/-- DIE_FIRMWARE_RESTART: die firmware of the input's die asks for it (R96). -/
def execDieFirmwareRestart (s : State) : Outcome State Fault Refusal :=
  .next (if s.fwRuns s.input.die.toNat then s.dieRestart s.input.die else s)

/-- FWDOG_EXPIRY: the watchdog of the input's die has run out (R359). -/
def execFwdogExpiry (s : State) : Outcome State Fault Refusal :=
  let k := 16 * s.input.die.toNat
  let c := s.ctlAt k
  .next (if !s.fwRuns s.input.die.toNat ∨ c.r.fwDog = 0 ∨ s.time.cycle < c.dogEnd then s else s.dieRestart s.input.die)

/-- The effect of a command has performed, and it waits for its record: the answer of a SIGNAL or WAIT has come, a COPY's operation is done. -/
def State.waitsRecord (s : State) (c : Cmd) : Bool :=
  (s.cmdAnswer c).isSome ||
  (match c.slot with
   | some i => (match s.engOp true 0 i.toNat with | some e => s.engDone true 0 i.toNat e | none => false)
   | none => false)

/-- FIRMWARE_RESTART_DONE: the hub core runs again; with the last restart dispatch goes on, and records that have waited, or that a command's
effect has waited for, carry HELD (R97, R110). -/
def execFirmwareRestartDone (s : State) : Outcome State Fault Refusal :=
  let d := s.input.die
  .next (if !s.boot.restarting.getLsbD d.toNat then s
    else
      let left := s.boot.restarting &&& ~~~(BitVec.ofNat 8 (2 ^ d.toNat))
      let s1 := { s with boot := { s.boot with restarting := left } }.startHubs [d.toNat]
      { s1 with
        sched := { s1.sched with paused := left != 0 }
        host := { s1.host with
          records := s1.host.records.map (fun r => { r with flags := r.flags ||| 16 })
          queues := s1.host.queues.map (fun q =>
            (q.1, { q.2 with cmds := q.2.cmds.map (fun c => if s.waitsRecord c then { c with held := true } else c) })) } })

/-! ## Monitors and throttling (R98, R99) -/

/-- The signed value of a TEMP field, in 1/16 °C. -/
def tempOf (t : BitVec 16) : Int := t.toInt

/-- A live sensor reads a temperature; MAXTEMP is the highest of them (R94, R98). -/
def State.setTemp (s : State) (k : Nat) (t : BitVec 16) : State :=
  let temps := tabPut s.mon.temp k t
  let top := temps.foldl (fun (a : BitVec 16) (e : Nat × BitVec 16) => if tempOf a < tempOf e.2 then e.2 else a) t
  { s with
    mon := { s.mon with temp := temps, tvalid := s.mon.tvalid ||| BitVec.ofNat 128 (2 ^ k) }
    boot := { s.boot with maxTemp := top } }

/-- THERMAL_THROTTLE: the input's core reaches 110 °C, below 125 °C: hardware forces THR to 4 on its die (R99). -/
def execThermalThrottle (s : State) : Outcome State Fault Refusal :=
  let k := s.input.core.ix
  let t := s.input.temp
  .next (if tempOf t < 1760 ∨ 2000 ≤ tempOf t ∨ !s.boot.test.coreLive k then s
    else
      let s1 := s.setTemp k t
      { s1 with mon := { s1.mon with forced := s1.mon.forced ||| BitVec.ofNat 8 (2 ^ (k / 16)) } }.markThrottled)

/-- THERMAL_UNTHROTTLE: the input's core reads below 100 °C; once every sensor of the die that has been read does, the forced THR is lifted (R99;
assumption 111, DESIGN CHOICE). -/
def execThermalUnthrottle (s : State) : Outcome State Fault Refusal :=
  let k := s.input.core.ix
  let t := s.input.temp
  .next (if 1600 ≤ tempOf t ∨ !s.boot.test.coreLive k then s
    else
      let s1 := s.setTemp k t
      if s1.mon.temp.any (fun (e : Nat × BitVec 16) => e.1 / 16 == k / 16 && decide (1600 ≤ tempOf e.2)) then s1
      else { s1 with mon := { s1.mon with forced := s1.mon.forced &&& ~~~(BitVec.ofNat 8 (2 ^ (k / 16))) } })

/-- The monitors' readings that a tick brings: where the input's flag says so, a temperature from 100 °C up to 110 °C, which neither forces THR
nor lifts it, and the supplies and the ring-oscillator count of a die and a stack (R98; assumption 95, DESIGN CHOICE). -/
def State.sample (s : State) : State :=
  if !s.input.flag then s
  else
    let k := s.input.core.ix
    let w := s.input.word
    let s1 := if s.boot.test.coreLive k ∧ 1600 ≤ tempOf s.input.temp ∧ tempOf s.input.temp < 1760 then s.setTemp k s.input.temp else s
    { s1 with mon := { s1.mon with
        vdie := tabPut s1.mon.vdie s.input.die.toNat (BitVec.ofNat 16 (bits w 15 0))
        vstk := tabPut s1.mon.vstk (s.input.slot.toNat % 16) (BitVec.ofNat 16 (bits w 31 16))
        pmon := tabPut s1.mon.pmon s.input.die.toNat (BitVec.ofNat 32 (bits w 63 32)) } }

/-- THERMAL_TRIP: a core at 125 °C or more performs a cold reset (R99). -/
def execThermalTrip (s : State) : Outcome State Fault Refusal :=
  .next (if 2000 ≤ tempOf s.input.temp ∧ s.boot.test.coreLive s.input.core.ix then s.coldReset true else s)

/-! ## The time unit (R64) -/

/-- The rate within ±500 ppm of its reset value. -/
def clampRate (w : Word) : Word :=
  BitVec.ofNat 64 (max (0x800000000000 - 70368744177) (min (0x800000000000 + 70368744177) w.toNat))

/-- What die firmware's servo says of itself with a write: LOCK and SRCPORT. -/
def State.servo (s : State) : State :=
  { s with time := { s.time with lock := s.input.flag, srcPort := BitVec.ofNat 8 (min 255 s.input.size) } }

/-- TMRATE takes a written value. -/
def State.setRate (s : State) (w : Word) : State := { s with time := { s.time with rate := clampRate w } }

/-- TMRATE: die firmware of die 0 sets the increment; the cycles so far passed at the old one. -/
def execTmrate (s : State) : Outcome State Fault Refusal :=
  .next (if !s.fwActs 0 then s else s.elapse.servo.setRate s.input.word)

/-- A forward step in 2^-16 ns, which the next cycle adds. -/
def State.stepTime (s : State) (w : Word) : State := { s with time := { s.time with step := s.time.step + w.toNat * 2 ^ 32 } }

/-- TMSTEP: a forward step in 2^-16 ns, added at the next cycle. -/
def execTmstep (s : State) : Outcome State Fault Refusal :=
  .next (if !s.fwActs 0 then s else s.elapse.servo.stepTime s.input.word)

/-- TMNOWLO: a read of the time, which returns its low part and latches its high one. -/
def execTmnowlo (s : State) : Outcome State Fault Refusal :=
  let s1 := s.elapse
  .next { s1 with
    time := { s1.time with nowHi := BitVec.ofNat 32 (bits (s1.timeOf 0) 95 64) }
    host := { s1.host with rdata := BitVec.ofNat 64 (bits (s1.timeOf 0) 63 0) } }

/-- TICK: the nanoseconds of the input's reticle have passed a multiple of 1,000 since the last tick (R360). The monitors are read with it. -/
def execTick (s : State) : Outcome State Fault Refusal :=
  let r := s.input.reticle.toNat
  let s1 := s.elapse.sample
  let now := s1.time.now.getD r 0 / (1000 * nsUnit)
  .next (if now ≤ s1.time.ticks.getD r 0 then s1
    else
      let s2 : State := { s1 with time := { s1.time with ticks := s1.time.ticks.set r now } }
      ((s2.boot.test.cores).filter (fun k => reticleOf k == r)).foldl (fun s k => s.event k 5) s2)

/-! ## ECC (R41, R42) -/

/-- An ECC log: of a slice by its stack, of a vault controller by 16 + 16 × die + core. -/
def State.eccLog (s : State) (n : Nat) : EccLog := tabGet EccLog.clear s.m.ecc n
def State.setEccLog (s : State) (n : Nat) (l : EccLog) : State := { s with m := { s.m with ecc := tabPut s.m.ecc n l } }

/-- ECCSTAT as a read returns it (R42). -/
def EccLog.word (l : EccLog) : Word :=
  BitVec.ofNat 64 ((if l.valid then 2 ^ 63 else 0) + (if l.ovf then 2 ^ 62 else 0) + l.kind.toNat * 2 ^ 60 + l.ce.toNat * 2 ^ 32 +
    l.ue.toNat * 2 ^ 16 + l.syn.toNat)

/-- ECCSTAT: a read returns every field and clears CECNT and UECNT. -/
def execEccstat (s : State) : Outcome State Fault Refusal :=
  let n := s.input.num
  .next (if 144 ≤ n then s
    else
      let s1 := s.setEccLog n { s.eccLog n with ce := 0, ue := 0 }
      { s1 with host := { s1.host with rdata := (s.eccLog n).word } })

/-- A unit of a live vault or of a live stack. -/
def State.scrubs (s : State) (key : Nat) : Bool :=
  decide (key < s.hbmTop) ||
  (decide (2 ^ 51 ≤ key) && decide (key < 2 ^ 51 + 128 * 2 ^ 26) && decide (key % 2 ^ 26 < 0x3000000) &&
   s.boot.test.coreLive ((key - 2 ^ 51) / 2 ^ 26))

/-- Count a corrected error at the node of a place (R42). -/
def State.countCe (s : State) (key : Nat) : State :=
  let l := s.eccLog (s.eccNode key)
  s.setEccLog (s.eccNode key) { l with ce := satInc l.ce }

/-- Units that an error which cannot be corrected leaves poisoned. -/
def State.strike (s : State) (us : List Nat) : State := { s with m := { s.m with poison := us.foldl setIns s.m.poison } }

/-- A soft error strikes a line that an LLC slice holds: a unit of its data, or, as a size of 128 says, its tag, with which the whole line is
lost (R39; assumption 88, DESIGN CHOICE). -/
def State.strikeLlc (s : State) (p : Nat) : State :=
  let (stk, so) := s.boot.test.stackOf p
  let st := tabGet ⟨List.replicate 16 none, 0⟩ s.m.llc (stk * 65536 + llcIndex so)
  if s.hbmTop ≤ p ∨ !st.ways.contains (some (so / 128)) then s
  else if s.input.flag then
    s.strike (if s.input.size = 128 then (List.range 16).map (fun j => llcKey (p / 128 * 128 + 8 * j)) else [llcKey (p / 8 * 8)])
  else s.countCe (llcKey p)

/-- A soft error strikes a line of the input core's banks that holds a VA (R39). -/
def State.strikeBank (s : State) (k va : Nat) : State :=
  if !s.m.banks.any (fun b => b.core == k && b.va == va / 128) then s
  else if s.input.flag then
    { s with m := { s.m with banks := s.m.banks.map (fun b =>
        if b.core = k ∧ b.va = va / 128 then { b with bad := b.bad ||| BitVec.ofNat 16 (2 ^ (va / 8 % 16)) } else b) } }
  else s.countCe (Loc.key (.tile k 0 0))

/-- A soft error strikes an LLC slice, a cache bank, an M tile or a register bank of a C tile of a live core: at a place of tile space, at an
HBM offset above 2^56, or at a VA above 2^57. What cannot be corrected poisons its unit, which the next access meets and its node logs then; one
in a register bank of a C tile is logged and stops the node that has the register, and its cell (R39, R40, R42, R243, R385; assumption 88,
DESIGN CHOICE). -/
def State.softError (s : State) (key : Nat) : State :=
  let c := (key - 2 ^ 52) / 2 ^ 17
  let k := c / 256
  let i := c % 256
  if 2 ^ 57 ≤ key then s.strikeBank s.input.core.ix (key - 2 ^ 57)
  else if 2 ^ 56 ≤ key then s.strikeLlc (key - 2 ^ 56)
  else if key < 2 ^ 52 ∨ 128 ≤ k ∨ !s.boot.test.coreLive k then s
  else if isMSite i then
    if s.input.flag then s.strike [poisonUnit key] else s.countCe key
  else if isCSite i && s.input.flag then
    (s.logUe key (s.input.word.setWidth 16)).stopPart k i (if ((s.site k i).share 0).contains ((key - 2 ^ 52) / 128 % 8) then 0 else 1) cEcc
  else s

/-- ECC_SCRUB: a patrol scrub reads the unit at the place that the input's number gives: a single-bit error is corrected and counted, one that
cannot be, as the flag says, poisons the unit and is logged (R41). At any other place, a soft error strikes. -/
def execEccScrub (s : State) : Outcome State Fault Refusal :=
  let key := s.input.num
  .next (if !s.scrubs key then s.softError key
    else if s.input.flag then (s.logUe key (s.input.word.setWidth 16)).strike [poisonUnit key]
    else s.countCe key)

/-! ## Register writes (R6) -/

/-- A write covers the bytes of a field that stands at bits [hi:lo] of the register at an offset: the field's written value. -/
def regField (w : RegWrite) (off hi lo : Nat) : Option Nat :=
  let a := w.off.toNat
  if a ≤ off + lo / 8 ∧ off + hi / 8 < a + w.size then
    some (nbits (w.value.toNat % 2 ^ (8 * w.size)) (8 * off + hi - 8 * a) (8 * off + lo - 8 * a))
  else none

/-- Bytes of a register that a write covers replace the old ones (assumption 77, DESIGN CHOICE). -/
def regMerge (w : RegWrite) (off : Nat) (old : Word) : Word :=
  BitVec.ofNat 64 (leNat ((List.range 8).map (fun i =>
    match regField w off (8 * i + 7) (8 * i) with
    | some b => BitVec.ofNat 8 b
    | none => BitVec.ofNat 8 (old.toNat / 2 ^ (8 * i)))))

/-- A field takes a written value that a condition allows, and keeps its own otherwise. -/
def fieldOr {n : Nat} (v : Option Nat) (old : BitVec n) (ok : Nat → Bool) : BitVec n :=
  match v with
  | some x => if ok x then BitVec.ofNat n x else old
  | none => old

def anyValue (_ : Nat) : Bool := true

/-- Instants occur again: the next one falls on the period's next multiple (R140, R141). -/
def Arbiter.wake (r : Arbiter) (now : Nat) : Arbiter :=
  let p := 2000 * r.period.toNat
  if r.next < now then { r with next := r.next + (now - r.next + p - 1) / (max p 1) * p } else r

/-- A write to an arbiter (R140). -/
def State.writeArbiter (s : State) (w : RegWrite) (d base : Nat) : State :=
  let r := s.arbiter d
  let en := match regField w base 0 0 with | some v => v == 1 | none => r.en
  let r1 := { r with
    en := en
    period := fieldOr (regField w (base + 8) 31 0) r.period (fun v => decide (50 ≤ v) && decide (v ≤ 100000))
    hyst := fieldOr (regField w (base + 0x10) 31 0) r.hyst anyValue
    freeze := fieldOr (regField w (base + 0x18) 3 0) r.freeze anyValue
    elig := fieldOr (regField w (base + 0x18) 11 8) r.elig (fun v => v != 0)
    maxP := fieldOr (regField w (base + 0x18) 18 16) r.maxP (fun v => decide (1 ≤ v) && decide (v ≤ 4)) }
  s.setArbiter d (if en && !r.en then r1.wake s.time.cycle else r1)

/-- A write to the pool's parameters (R119). -/
def State.writePool (s : State) (w : RegWrite) (base : Nat) : State :=
  { s with
    sched := { s.sched with
               resvAge := fieldOr (regField w base 31 0) s.sched.resvAge anyValue
               ageStep := fieldOr (regField w (base + 8) 31 0) s.sched.ageStep (fun v => v != 0)
               preemptAge := fieldOr (regField w (base + 0x10) 31 0) s.sched.preemptAge anyValue } }

/-- A write to THR of a die (R98, R99). -/
def State.writeThr (s : State) (w : RegWrite) (d base : Nat) : State :=
  let thr := fieldOr (regField w base 4 0) (tabGet 16 s.mon.thr d) (fun v => decide (1 ≤ v) && decide (v ≤ 16))
  { s with mon := { s.mon with thr := tabPut s.mon.thr d thr } }.markThrottled

/-- A write to an ECC log: VALID and OVF are cleared by ones (R42). -/
def State.writeEcc (s : State) (w : RegWrite) (n base : Nat) : State :=
  let l := s.eccLog n
  s.setEccLog n { l with valid := l.valid && regField w base 63 63 != some 1, ovf := l.ovf && regField w base 62 62 != some 1 }

/-- A write to a flow table entry: its configuration fields, with what is reserved kept zero (R55). -/
def State.writeFlow (s : State) (w : RegWrite) (n e base : Nat) : State :=
  let p := s.eth n
  let new : Nat → Option Byte := fun i => (regField w (base + i / 8 * 8) (8 * (i % 8) + 7) (8 * (i % 8))).map (BitVec.ofNat 8)
  s.setEth n { p with flows := tabPut p.flows e (flowConfig (tabGet [] p.flows e) new) }

/-- A write to a fault record: ABANDON, RESUME, or a 1 to VALID, which clears it, so that the agent, stopped no longer, goes on (R202). -/
def State.writeRecord (s : State) (w : RegWrite) (f : FaultRef) (base : Nat) : State :=
  if regField w (base + 0x18) 1 1 = some 1 then s.abandonRecord f
  else if regField w (base + 0x18) 0 0 = some 1 ∨ regField w base 0 0 = some 1 then s.resumeRecord f
  else s

/-- A write to the registers of a core's trap: PC, at any time; ABANDON or RESUME, where the core is stopped (R354). -/
def State.writeCore (s : State) (w : RegWrite) (k base : Nat) : State :=
  let c := s.ctlAt k
  if regField w (base + 0x18) 1 1 = some 1 then (if s.serves k then s.coreFatal k c.r.trapCause.toNat c.r.trapVal else s)
  else if regField w (base + 0x18) 0 0 = some 1 then
    (if s.serves k then s.setCtlAt k { c with run := .running, r := { c.r with pc := c.r.trapPc } } else s)
  else s.setCtlAt k { c with r := { c.r with trapPc := regMerge w (base + 8) c.r.trapPc } }

/-- A write to the time unit: TMRATE, and TMSTEP, a 0 to which steps by nothing (R64). -/
def State.writeTime (s : State) (w : RegWrite) : State :=
  let s1 := if (regField w 0x200010 63 0).isSome then s.elapse.setRate (regMerge w 0x200010 0) else s
  if (regField w 0x200018 63 0).isSome then s1.elapse.stepTime (regMerge w 0x200018 0) else s1

/-- What die firmware may do that the spec gives no register for: set the scrub period, in hours (R41), and extend MR5 to MR7 by the digest in
the input's bytes (R95). The places are not known (assumption 96, DESIGN CHOICE). -/
def State.writeOpen (s : State) (w : RegWrite) : State :=
  let n := 5 + w.value.toNat % 3
  if w.off = Config.scrubPlace then { s with m := { s.m with scrubPeriod := w.value.toNat } }
  else if w.off = Config.extendPlace then s.extend n (BitVec.ofNat 384 (beNat (s.input.bytes.take 48)))
  else s

/-- A write to the merge window of a slice (R226). -/
def State.writeMerge (s : State) (w : RegWrite) (n base : Nat) : State :=
  let u := tabGet MergeUnit.reset s.net.merges n
  { s with net := { s.net with merges := tabPut s.net.merges n { u with win := fieldOr (regField w base 15 0) u.win anyValue } } }

/-- A write of die firmware to its configuration window. -/
def State.writeFirmware (s : State) (w : RegWrite) : State :=
  let a := w.off.toNat
  let at_ : Nat → Nat → Bool := fun lo n => decide (lo ≤ a) && decide (a < lo + n)
  if at_ 0x200000 0x40 then s.writeTime w
  else if at_ 0x100000 0x900 then s.writeEcc w ((a - 0x100000) / 16) (a / 16 * 16)
  else if at_ 0x800000 0x800000 then s.writeFlow w ((a - 0x800000) / 0x80000) (a % 0x80000 / 0x80) (a / 0x80 * 0x80)
  else if at_ 0x2000500 0x40 then s.writeThr w ((a - 0x2000500) / 8) (a / 8 * 8)
  else if at_ 0x2100000 0x20 then s.writePool w 0x2100000
  else if at_ 0x2200000 0x8000 then s.writeArbiter w ((a - 0x2200000) / 0x1000) (a / 0x1000 * 0x1000)
  else if at_ 0x2300000 0x40000 && decide (a % 0x800 < 0x400) then
    s.writeRecord w (.port (coreOfIx ((a - 0x2300000) / 0x800)) (BitVec.ofNat 4 (a % 0x800 / 0x40))) (a / 0x40 * 0x40)
  else if at_ 0x2400000 0x4000 then
    let r := BitVec.ofNat 2 ((a - 0x2400000) / 0x1000)
    let slot := BitVec.ofNat 6 (a % 0x1000 / 0x40)
    let copy := match s.engOp true r.toNat slot.toNat with | some e => e.fault.valid | none => false
    s.writeRecord w (if copy then .copyEng r slot else .gatherEng r slot) (a / 0x40 * 0x40)
  else if at_ 0x2500000 0x1000 then s.writeMerge w ((a - 0x2500000) / 0x100) (a / 0x100 * 0x100)
  else if at_ 0x2600000 0x8000 then s.writeCore w ((a - 0x2600000) / 0x100) (a / 0x100 * 0x100)
  else s.writeOpen w

/-- REGISTER_WRITE: of the host through its VSEC, where QTBASE alone is written here, or through BAR 2, where a write has no effect; or of die
firmware of the input's die through its window (R6, R45, R100). -/
def execRegisterWrite (s : State) : Outcome State Fault Refusal :=
  let w := s.input.reg
  .next (match w.window with
    | .bar2 => s
    | .vsec =>
      if s.host.linkUp then
        { s with host := { s.host with qtBase := BitVec.ofNat 64 ((regMerge w 0x18 s.host.qtBase).toNat / 4096 * 4096) } }
      else s
    | .firmware => if s.fwRuns s.input.die.toNat && s.fwActs s.input.die.toNat then s.writeFirmware w else s)

end Sys2Proof.Machine
end

