-- ==== Sys2Proof/Machine/Dispatch.lean ====
section
/-! DEFINITION. One arm per instruction: each calls its meaning. -/

namespace Sys2Proof.Machine

/-- What an instruction, step or event does to the state. -/
def exec (i : Instr) (s : State) : Host.Outcome State Fault Refusal :=
  match i with
  | .add d a b => Sys2Proof.Machine.execAdd d a b s
  | .sub d a b => Sys2Proof.Machine.execSub d a b s
  | .and d a b => Sys2Proof.Machine.execAnd d a b s
  | .or d a b => Sys2Proof.Machine.execOr d a b s
  | .xor d a b => Sys2Proof.Machine.execXor d a b s
  | .shl d a b => Sys2Proof.Machine.execShl d a b s
  | .shr d a b => Sys2Proof.Machine.execShr d a b s
  | .sra d a b => Sys2Proof.Machine.execSra d a b s
  | .slt d a b => Sys2Proof.Machine.execSlt d a b s
  | .sltu d a b => Sys2Proof.Machine.execSltu d a b s
  | .min d a b => Sys2Proof.Machine.execMin d a b s
  | .max d a b => Sys2Proof.Machine.execMax d a b s
  | .minu d a b => Sys2Proof.Machine.execMinu d a b s
  | .maxu d a b => Sys2Proof.Machine.execMaxu d a b s
  | .mul d a b => Sys2Proof.Machine.execMul d a b s
  | .mulh d a b => Sys2Proof.Machine.execMulh d a b s
  | .mulhu d a b => Sys2Proof.Machine.execMulhu d a b s
  | .div d a b => Sys2Proof.Machine.execDiv d a b s
  | .divu d a b => Sys2Proof.Machine.execDivu d a b s
  | .rem d a b => Sys2Proof.Machine.execRem d a b s
  | .remu d a b => Sys2Proof.Machine.execRemu d a b s
  | .clz d a => Sys2Proof.Machine.execClz d a s
  | .ctz d a => Sys2Proof.Machine.execCtz d a s
  | .popc d a => Sys2Proof.Machine.execPopc d a s
  | .bswap d a => Sys2Proof.Machine.execBswap d a s
  | .lea d a b k => Sys2Proof.Machine.execLea d a b k s
  | .addi d a ii => Sys2Proof.Machine.execAddi d a ii s
  | .andi d a ii => Sys2Proof.Machine.execAndi d a ii s
  | .ori d a ii => Sys2Proof.Machine.execOri d a ii s
  | .xori d a ii => Sys2Proof.Machine.execXori d a ii s
  | .slti d a ii => Sys2Proof.Machine.execSlti d a ii s
  | .sltiu d a ii => Sys2Proof.Machine.execSltiu d a ii s
  | .shli d a n => Sys2Proof.Machine.execShli d a n s
  | .shri d a n => Sys2Proof.Machine.execShri d a n s
  | .srai d a n => Sys2Proof.Machine.execSrai d a n s
  | .liz d p ii => Sys2Proof.Machine.execLiz d p ii s
  | .lik d p ii => Sys2Proof.Machine.execLik d p ii s
  | .fadd d a b m => Sys2Proof.Machine.execFadd d a b m s
  | .fsub d a b m => Sys2Proof.Machine.execFsub d a b m s
  | .fmul d a b m => Sys2Proof.Machine.execFmul d a b m s
  | .fdiv d a b m => Sys2Proof.Machine.execFdiv d a b m s
  | .fsqrt d a m => Sys2Proof.Machine.execFsqrt d a m s
  | .fmin d a b m => Sys2Proof.Machine.execFmin d a b m s
  | .fmax d a b m => Sys2Proof.Machine.execFmax d a b m s
  | .fcmp d a b c m => Sys2Proof.Machine.execFcmp d a b c m s
  | .fcvt d a src dst m => Sys2Proof.Machine.execFcvt d a src dst m s
  | .fclass d a m => Sys2Proof.Machine.execFclass d a m s
  | .scalex d a f m => Sys2Proof.Machine.execScalex d a f m s
  | .ld d base o z off => Sys2Proof.Machine.execLd d base o z off s
  | .st ss base o z off => Sys2Proof.Machine.execSt ss base o z off s
  | .ldx d base o z sp off => Sys2Proof.Machine.execLdx d base o z sp off s
  | .stx ss base o z sp off => Sys2Proof.Machine.execStx ss base o z sp off s
  | .amoAdd d base o dword off => Sys2Proof.Machine.execAmoAdd d base o dword off s
  | .amoAnd d base o dword off => Sys2Proof.Machine.execAmoAnd d base o dword off s
  | .amoOr d base o dword off => Sys2Proof.Machine.execAmoOr d base o dword off s
  | .amoXor d base o dword off => Sys2Proof.Machine.execAmoXor d base o dword off s
  | .amoMin d base o dword off => Sys2Proof.Machine.execAmoMin d base o dword off s
  | .amoMax d base o dword off => Sys2Proof.Machine.execAmoMax d base o dword off s
  | .amoMinu d base o dword off => Sys2Proof.Machine.execAmoMinu d base o dword off s
  | .amoMaxu d base o dword off => Sys2Proof.Machine.execAmoMaxu d base o dword off s
  | .amoXchg d base o dword off => Sys2Proof.Machine.execAmoXchg d base o dword off s
  | .amoFadd d base o off => Sys2Proof.Machine.execAmoFadd d base o off s
  | .amoFabsmax d base o off => Sys2Proof.Machine.execAmoFabsmax d base o off s
  | .cas d base o n dword off => Sys2Proof.Machine.execCas d base o n dword off s
  | .cas16 d base o n off => Sys2Proof.Machine.execCas16 d base o n off s
  | .fenceAcq ss => Sys2Proof.Machine.execFenceAcq ss s
  | .fenceRel ss => Sys2Proof.Machine.execFenceRel ss s
  | .fenceAr ss => Sys2Proof.Machine.execFenceAr ss s
  | .fenceFull ss => Sys2Proof.Machine.execFenceFull ss s
  | .beq a b off => Sys2Proof.Machine.execBeq a b off s
  | .bne a b off => Sys2Proof.Machine.execBne a b off s
  | .blt a b off => Sys2Proof.Machine.execBlt a b off s
  | .bge a b off => Sys2Proof.Machine.execBge a b off s
  | .bltu a b off => Sys2Proof.Machine.execBltu a b off s
  | .bgeu a b off => Sys2Proof.Machine.execBgeu a b off s
  | .jal d off => Sys2Proof.Machine.execJal d off s
  | .jalr d a ii => Sys2Proof.Machine.execJalr d a ii s
  | .stream a n => Sys2Proof.Machine.execStream a n s
  | .gather a => Sys2Proof.Machine.execGather a s
  | .copyMem a => Sys2Proof.Machine.execCopyMem a s
  | .copyMc a => Sys2Proof.Machine.execCopyMc a s
  | .wait l ss c t => Sys2Proof.Machine.execWait l ss c t s
  | .mark ss a k ii => Sys2Proof.Machine.execMark ss a k ii s
  | .markEor ss a l => Sys2Proof.Machine.execMarkEor ss a l s
  | .bar c a n m l => Sys2Proof.Machine.execBar c a n m l s
  | .cfgreq d r => Sys2Proof.Machine.execCfgreq d r s
  | .sprint d a c retry x id => Sys2Proof.Machine.execSprint d a c retry x id s
  | .sprintLsn d c id => Sys2Proof.Machine.execSprintLsn d c id s
  | .send ss a n c => Sys2Proof.Machine.execSend ss a n c s
  | .cmask n on c => Sys2Proof.Machine.execCmask n on c s
  | .tstamp d => Sys2Proof.Machine.execTstamp d s
  | .ckpt a k => Sys2Proof.Machine.execCkpt a k s
  | .tinv ss a => Sys2Proof.Machine.execTinv ss a s
  | .tinvAll ss a => Sys2Proof.Machine.execTinvAll ss a s
  | .sysc ii => Sys2Proof.Machine.execSysc ii s
  | .trap a ii => Sys2Proof.Machine.execTrap a ii s
  | .rte => Sys2Proof.Machine.execRte s
  | .mfs d r => Sys2Proof.Machine.execMfs d r s
  | .mts ss r => Sys2Proof.Machine.execMts ss r s
  | .wfe d m => Sys2Proof.Machine.execWfe d m s
  | .halt => Sys2Proof.Machine.execHalt s
  | .bkpt ii => Sys2Proof.Machine.execBkpt ii s
  | .vadd d a b x2 p m => Sys2Proof.Machine.execVadd d a b x2 p m s
  | .vsub d a b x2 p m => Sys2Proof.Machine.execVsub d a b x2 p m s
  | .vmul d a b x2 p m => Sys2Proof.Machine.execVmul d a b x2 p m s
  | .vfma d a b c x2 p m => Sys2Proof.Machine.execVfma d a b c x2 p m s
  | .vmin d a b x2 p m => Sys2Proof.Machine.execVmin d a b x2 p m s
  | .vmax d a b x2 p m => Sys2Proof.Machine.execVmax d a b x2 p m s
  | .vabs d a x2 p m => Sys2Proof.Machine.execVabs d a x2 p m s
  | .vneg d a x2 p m => Sys2Proof.Machine.execVneg d a x2 p m s
  | .vrcp d a x2 p m => Sys2Proof.Machine.execVrcp d a x2 p m s
  | .vrsq d a x2 p m => Sys2Proof.Machine.execVrsq d a x2 p m s
  | .vsqrt d a x2 p m => Sys2Proof.Machine.execVsqrt d a x2 p m s
  | .vexp2 d a x2 p m => Sys2Proof.Machine.execVexp2 d a x2 p m s
  | .vlog2 d a x2 p m => Sys2Proof.Machine.execVlog2 d a x2 p m s
  | .vrint d a x2 p m => Sys2Proof.Machine.execVrint d a x2 p m s
  | .viadd d a b p sat => Sys2Proof.Machine.execViadd d a b p sat s
  | .visub d a b p sat => Sys2Proof.Machine.execVisub d a b p sat s
  | .vimul d a b p sat => Sys2Proof.Machine.execVimul d a b p sat s
  | .vimulh d a b p => Sys2Proof.Machine.execVimulh d a b p s
  | .vand d a b p => Sys2Proof.Machine.execVand d a b p s
  | .vor d a b p => Sys2Proof.Machine.execVor d a b p s
  | .vxor d a b p => Sys2Proof.Machine.execVxor d a b p s
  | .vshl d a b p => Sys2Proof.Machine.execVshl d a b p s
  | .vshr d a b p => Sys2Proof.Machine.execVshr d a b p s
  | .vsra d a b p => Sys2Proof.Machine.execVsra d a b p s
  | .vimin d a b p => Sys2Proof.Machine.execVimin d a b p s
  | .vimax d a b p => Sys2Proof.Machine.execVimax d a b p s
  | .vclz d a p => Sys2Proof.Machine.execVclz d a p s
  | .vpopc d a p => Sys2Proof.Machine.execVpopc d a p s
  | .vcmp d a b t c p => Sys2Proof.Machine.execVcmp d a b t c p s
  | .vsel d a b => Sys2Proof.Machine.execVsel d a b s
  | .vperm d a b p => Sys2Proof.Machine.execVperm d a b p s
  | .vbcast d a b p => Sys2Proof.Machine.execVbcast d a b p s
  | .vred d a f p m => Sys2Proof.Machine.execVred d a f p m s
  | .vscan d a f p m => Sys2Proof.Machine.execVscan d a f p m s
  | .vmov d a p => Sys2Proof.Machine.execVmov d a p s
  | .vidx d p => Sys2Proof.Machine.execVidx d p s
  | .vcvt d a src dst p m => Sys2Proof.Machine.execVcvt d a src dst p m s
  | .vqnt d a b f p m => Sys2Proof.Machine.execVqnt d a b f p m s
  | .vdq d a b f p m => Sys2Proof.Machine.execVdq d a b f p m s
  | .vpack d a b w p => Sys2Proof.Machine.execVpack d a b w p s
  | .vunpk d a b signed w p => Sys2Proof.Machine.execVunpk d a b signed w p s
  | .vscale d a b p m => Sys2Proof.Machine.execVscale d a b p m s
  | .mma a b bf af bsc asc => Sys2Proof.Machine.execMma a b bf af bsc asc s
  | .mout d rows base f m => Sys2Proof.Machine.execMout d rows base f m s
  | .mldb a b f => Sys2Proof.Machine.execMldb a b f s
  | .seq d a b c first => Sys2Proof.Machine.execSeq d a b c first s
  | .cnt d a p => Sys2Proof.Machine.execCnt d a p s
  | .contend d a b c retry x => Sys2Proof.Machine.execContend d a b c retry x s
  | .crc64 d a b => Sys2Proof.Machine.execCrc64 d a b s
  | .vtrn d a bytes p => Sys2Proof.Machine.execVtrn d a bytes p s
  | .zpkD d a p => Sys2Proof.Machine.execZpkD d a p s
  | .zpkM d a p => Sys2Proof.Machine.execZpkM d a p s
  | .zup d a b p => Sys2Proof.Machine.execZup d a b p s
  | .emit d a b f p => Sys2Proof.Machine.execEmit d a b f p s
  | .rqst d a => Sys2Proof.Machine.execRqst d a s
  | .coldReset => Sys2Proof.Machine.execColdReset s
  | .selfTestDone => Sys2Proof.Machine.execSelfTestDone s
  | .hostLinkRetrain => Sys2Proof.Machine.execHostLinkRetrain s
  | .dhcpv6Reply => Sys2Proof.Machine.execDhcpv6Reply s
  | .tftpImageReceived => Sys2Proof.Machine.execTftpImageReceived s
  | .bootAttemptTimeout => Sys2Proof.Machine.execBootAttemptTimeout s
  | .hubCoreReady => Sys2Proof.Machine.execHubCoreReady s
  | .hubReadyTimeout => Sys2Proof.Machine.execHubReadyTimeout s
  | .getVersion => Sys2Proof.Machine.execGetVersion s
  | .getCapabilities => Sys2Proof.Machine.execGetCapabilities s
  | .negotiateAlgorithms => Sys2Proof.Machine.execNegotiateAlgorithms s
  | .getDigests => Sys2Proof.Machine.execGetDigests s
  | .getCertificate => Sys2Proof.Machine.execGetCertificate s
  | .challenge => Sys2Proof.Machine.execChallenge s
  | .getMeasurements => Sys2Proof.Machine.execGetMeasurements s
  | .warm => Sys2Proof.Machine.execWarm s
  | .warmReset => Sys2Proof.Machine.execWarmReset s
  | .warmResetDone => Sys2Proof.Machine.execWarmResetDone s
  | .dieFirmwareRestart => Sys2Proof.Machine.execDieFirmwareRestart s
  | .firmwareRestartDone => Sys2Proof.Machine.execFirmwareRestartDone s
  | .fwdogExpiry => Sys2Proof.Machine.execFwdogExpiry s
  | .thermalThrottle => Sys2Proof.Machine.execThermalThrottle s
  | .thermalUnthrottle => Sys2Proof.Machine.execThermalUnthrottle s
  | .thermalTrip => Sys2Proof.Machine.execThermalTrip s
  | .registerWrite => Sys2Proof.Machine.execRegisterWrite s
  | .submissionWrite => Sys2Proof.Machine.execSubmissionWrite s
  | .queueLoad => Sys2Proof.Machine.execQueueLoad s
  | .commandConsume => Sys2Proof.Machine.execCommandConsume s
  | .commandStart => Sys2Proof.Machine.execCommandStart s
  | .launch => Sys2Proof.Machine.execLaunch s
  | .signal => Sys2Proof.Machine.execSignal s
  | .waitCommand => Sys2Proof.Machine.execWaitCommand s
  | .waitTimeout => Sys2Proof.Machine.execWaitTimeout s
  | .copyCommand => Sys2Proof.Machine.execCopyCommand s
  | .ckptCommand => Sys2Proof.Machine.execCkptCommand s
  | .restore => Sys2Proof.Machine.execRestore s
  | .stop => Sys2Proof.Machine.execStop s
  | .qreset => Sys2Proof.Machine.execQreset s
  | .qresetReport => Sys2Proof.Machine.execQresetReport s
  | .completionRecord => Sys2Proof.Machine.execCompletionRecord s
  | .poolEvaluation => Sys2Proof.Machine.execPoolEvaluation s
  | .preemptTrap => Sys2Proof.Machine.execPreemptTrap s
  | .preemptQuiesced => Sys2Proof.Machine.execPreemptQuiesced s
  | .startRelease => Sys2Proof.Machine.execStartRelease s
  | .configRequestDone => Sys2Proof.Machine.execConfigRequestDone s
  | .regionComplete => Sys2Proof.Machine.execRegionComplete s
  | .controlCoreReport => Sys2Proof.Machine.execControlCoreReport s
  | .frameStart => Sys2Proof.Machine.execFrameStart s
  | .sprintResultLatch => Sys2Proof.Machine.execSprintResultLatch s
  | .swapInstant => Sys2Proof.Machine.execSwapInstant s
  | .swapDrainDone => Sys2Proof.Machine.execSwapDrainDone s
  | .swapInstall => Sys2Proof.Machine.execSwapInstall s
  | .routeUpdate => Sys2Proof.Machine.execRouteUpdate s
  | .checkpointCut => Sys2Proof.Machine.execCheckpointCut s
  | .checkpointPageCopy => Sys2Proof.Machine.execCheckpointPageCopy s
  | .checkpointCommit => Sys2Proof.Machine.execCheckpointCommit s
  | .atuTranslate => Sys2Proof.Machine.execAtuTranslate s
  | .deferredLeafService => Sys2Proof.Machine.execDeferredLeafService s
  | .faultResume => Sys2Proof.Machine.execFaultResume s
  | .faultAbandon => Sys2Proof.Machine.execFaultAbandon s
  | .invalidationComplete => Sys2Proof.Machine.execInvalidationComplete s
  | .netRead => Sys2Proof.Machine.execNetRead s
  | .netWrite => Sys2Proof.Machine.execNetWrite s
  | .netAmo => Sys2Proof.Machine.execNetAmo s
  | .netCas => Sys2Proof.Machine.execNetCas s
  | .netCas16 => Sys2Proof.Machine.execNetCas16 s
  | .readData => Sys2Proof.Machine.execReadData s
  | .writeAck => Sys2Proof.Machine.execWriteAck s
  | .errorResponse => Sys2Proof.Machine.execErrorResponse s
  | .streamToken => Sys2Proof.Machine.execStreamToken s
  | .flipMarker => Sys2Proof.Machine.execFlipMarker s
  | .multicastRead => Sys2Proof.Machine.execMulticastRead s
  | .mergeWindowClose => Sys2Proof.Machine.execMergeWindowClose s
  | .multicastData => Sys2Proof.Machine.execMulticastData s
  | .creditReturn => Sys2Proof.Machine.execCreditReturn s
  | .sysControl => Sys2Proof.Machine.execSysControl s
  | .pubDelivery => Sys2Proof.Machine.execPubDelivery s
  | .scTokenVisit => Sys2Proof.Machine.execScTokenVisit s
  | .adderFire => Sys2Proof.Machine.execAdderFire s
  | .podDataFlit => Sys2Proof.Machine.execPodDataFlit s
  | .podControlFlit => Sys2Proof.Machine.execPodControlFlit s
  | .podAckTimer => Sys2Proof.Machine.execPodAckTimer s
  | .podLinkTimeout => Sys2Proof.Machine.execPodLinkTimeout s
  | .pcieCompletion => Sys2Proof.Machine.execPcieCompletion s
  | .pcieCompletionTimeout => Sys2Proof.Machine.execPcieCompletionTimeout s
  | .ethFrameRx => Sys2Proof.Machine.execEthFrameRx s
  | .directLandingSend => Sys2Proof.Machine.execDirectLandingSend s
  | .ethFrameTx => Sys2Proof.Machine.execEthFrameTx s
  | .tmstep => Sys2Proof.Machine.execTmstep s
  | .tmrate => Sys2Proof.Machine.execTmrate s
  | .tmnowlo => Sys2Proof.Machine.execTmnowlo s
  | .eccstat => Sys2Proof.Machine.execEccstat s
  | .eccScrub => Sys2Proof.Machine.execEccScrub s
  | .nodeFire => Sys2Proof.Machine.execNodeFire s
  | .passFire => Sys2Proof.Machine.execPassFire s
  | .forkFire => Sys2Proof.Machine.execForkFire s
  | .steerTokenFire => Sys2Proof.Machine.execSteerTokenFire s
  | .steerLaneFire => Sys2Proof.Machine.execSteerLaneFire s
  | .mergeControlledFire => Sys2Proof.Machine.execMergeControlledFire s
  | .mergeFairFire => Sys2Proof.Machine.execMergeFairFire s
  | .carryTrigger => Sys2Proof.Machine.execCarryTrigger s
  | .carryBackEdge => Sys2Proof.Machine.execCarryBackEdge s
  | .invFire => Sys2Proof.Machine.execInvFire s
  | .mrd => Sys2Proof.Machine.execMrd s
  | .mwr => Sys2Proof.Machine.execMwr s
  | .macc => Sys2Proof.Machine.execMacc s
  | .ringPush => Sys2Proof.Machine.execRingPush s
  | .ringPop => Sys2Proof.Machine.execRingPop s
  | .repeatRound => Sys2Proof.Machine.execRepeatRound s
  | .cacheBankAccess => Sys2Proof.Machine.execCacheBankAccess s
  | .eorMark => Sys2Proof.Machine.execEorMark s
  | .cfgMark => Sys2Proof.Machine.execCfgMark s
  | .wswMark => Sys2Proof.Machine.execWswMark s
  | .modMark => Sys2Proof.Machine.execModMark s
  | .flsMark => Sys2Proof.Machine.execFlsMark s
  | .savMark => Sys2Proof.Machine.execSavMark s
  | .rstMark => Sys2Proof.Machine.execRstMark s
  | .swpMark => Sys2Proof.Machine.execSwpMark s
  | .tscMark => Sys2Proof.Machine.execTscMark s
  | .fenMark => Sys2Proof.Machine.execFenMark s
  | .qscMark => Sys2Proof.Machine.execQscMark s
  | .brkMark => Sys2Proof.Machine.execBrkMark s
  | .alignTimeout => Sys2Proof.Machine.execAlignTimeout s
  | .streamStart => Sys2Proof.Machine.execStreamStart s
  | .loadUnit => Sys2Proof.Machine.execLoadUnit s
  | .storeUnit => Sys2Proof.Machine.execStoreUnit s
  | .idxUnit => Sys2Proof.Machine.execIdxUnit s
  | .scatUnit => Sys2Proof.Machine.execScatUnit s
  | .landingPop => Sys2Proof.Machine.execLandingPop s
  | .streamRetire => Sys2Proof.Machine.execStreamRetire s
  | .copyUnit => Sys2Proof.Machine.execCopyUnit s
  | .gatherUnit => Sys2Proof.Machine.execGatherUnit s
  | .coreResume => Sys2Proof.Machine.execCoreResume s
  | .coreAbandon => Sys2Proof.Machine.execCoreAbandon s
  | .supplyLoss => Sys2Proof.Machine.execSupplyLoss s
  | .tick => Sys2Proof.Machine.execTick s

end Sys2Proof.Machine
end

