-- ==== Sys2Proof/Machine/Step.lean ====
section
/-! DEFINITION. One step: the next turn of the agenda, or where the agenda is empty the turn that the free schedule gives. -/

namespace Sys2Proof.Machine

/-- The next turn and the state that has taken it from the agenda (assumption 3). -/
def State.nextTurn (s : State) : Turn × State :=
  match s.agenda with
  | t :: rest => (t, { s with agenda := rest })
  | [] => (Config.schedule s.draws, { s with draws := s.draws + 1 })

/-- A control core's turn: a late fault's trap, which a SPRINT in a started frame holds back (R84, R317); the error response of a lost write-back,
which becomes such a fault (R40; assumption 91, DESIGN CHOICE); nothing where the core does not issue; the withdrawn .fe loads of a resumed core
(R133); else fetch (R238), decode (R302) and execute. -/
def stepCore (s : State) : Host.Outcome State Fault Refusal :=
  match s.ctl.late, s.lostAt s.me with
  | some (cause, va), _ =>
    if s.ctl.run ≠ .running then .next s
    else
      (match (s.setCtl { s.ctl with late := none }).interrupt s.me cause.toNat va s.ctl.lateOp with
       | some s1 => .next s1
       | none => .next s)
  | none, some va => .next (s.takeLost s.me va)
  | none, none =>
    if !s.issues then .next s
    else if s.ctl.withdrawn ≠ [] then .next (s.reissue s.me)
    else
      if 0x10000 ≤ s.pc.toNat then .next (s.trap cBounds s.pc s.pc)
      else
        match decode s.fetchWord with
        | some i => exec i s
        | none => .next (s.faultTrap cIllegal 0)

/-- A fabric node's turn: its next micro-op, where it is in a firing (R363). -/
def stepNode (s : State) : Host.Outcome State Fault Refusal :=
  match s.microAt s.curNode with
  | none => .next s
  | some w =>
    match decodeMicro w with
    | some i => exec i s
    | none => .fault .noMicroOp

/-- What a turn does. Without a supply nothing moves but the cold reset that its return makes (R88). -/
def runTurn (t : Turn) (s : State) : Host.Outcome State Fault Refusal :=
  if !s.boot.supply && !(match t with | .event .coldReset _ => true | _ => false) then .next s
  else
    match t with
    | .core c => stepCore { s with cur := c }
    | .node n => stepNode { s with curNode := n }
    | .event i x => if encode i = none then exec i { s with input := x } else .next s

/-- One step of the machine: a turn, and the align timers count the cycles that it has let pass (R251). -/
def step (s : State) : Host.Outcome State Fault Refusal :=
  let (t, s') := s.nextTurn
  s'.counted (runTurn t s')

/-- The header frame of a C tile whose node 0 has one slot, every input and output and register, and the matrix unit (R309). -/
def fetchHeader : Frame := BitVec.ofNat 256 (1 * 2 ^ 4 + 8 * 2 ^ 18 + 2 ^ 23 + 15 * 2 ^ 32 + 15 * 2 ^ 36)

/-- `s` with an instruction where the next step fetches it: a control core's word in code memory at the pc of the core `s.cur`, which runs
and has the next turn; a micro-op in slot 0 of the C tile `s.curNode` names, whose node 0 is in a firing and has the next turn. -/
def State.withFetchWord (s : State) (nbits w : Nat) : State :=
  let x := leNat (wordBytes (w % 2 ^ nbits))
  if (decode x).isNone && (decodeMicro x).isSome then
    let n : NodeRef := { s.curNode with slot := 0 }
    let st := s.site n.c.ix n.site.toNat
    let frames := fetchHeader :: BitVec.ofNat 256 x :: List.replicate 21 0
    let ct := st.ct.setNode 0 { st.ct.node 0 with firing := true, slot := 0 }
    { (s.setSite n.c.ix n.site.toNat { st with frames := frames, ct := ct }) with agenda := .node n :: s.agenda }
  else
    let s0 : State := { s with m := { s.m with lost := [] } }
    let s1 := s0.setCtl { s.ctl with run := .running, wait := .none, late := none, withdrawn := [], preempt := false }
    { (s1.store (codeKey s.me (s.pc.toNat / 4 * 4)) (wordBytes x)) with agenda := .core s.cur :: s.agenda }

end Sys2Proof.Machine
end

