-- ==== Sys2Proof/Laws/Encoding.lean ====
section
/-! SUPPORT. The fields of encoded words: what each extraction of the decoder reads from a word of the encoder (R291, R305). -/

set_option Elab.async false

namespace Sys2Proof

open Sys2Proof.Machine

theorem fieldBv_eq {n w lo : Nat} (x : BitVec n) (h : w / 2 ^ lo % 2 ^ n = x.toNat) : fieldBv n w lo = x := by
  apply BitVec.eq_of_toNat_eq
  simp [fieldBv, h]

theorem bitOf_eq {w n : Nat} (b : Bool) (h : w / 2 ^ n % 2 = encBool b) : bitOf w n = b := by
  unfold bitOf
  rw [h]
  cases b <;> rfl

theorem filter_wf {i : Instr} (h : i.wf = true) : (some i).filter Instr.wf = some i := by simp [Option.filter, h]

theorem encBool_lt (b : Bool) : encBool b < 2 := by cases b <;> decide
theorem encRm_lt (m : Rm) : encRm m < 5 := by cases m <;> decide
theorem decRm_enc (m : Rm) : decRm (encRm m) = some m := by cases m <;> rfl
theorem encMode_lt (m : Mode) : encMode m < 6 := by
  cases m with
  | rm r => cases r <;> decide
  | tile => decide
theorem decMode_enc (m : Mode) : decMode (encMode m) = some m := by
  cases m with
  | rm r => cases r <;> rfl
  | tile => rfl
theorem encSz_lt (z : Sz) : encSz z < 4 := by cases z <;> decide
theorem decSz_enc (z : Sz) : decSz (encSz z) = z := by cases z <;> rfl
theorem encSp_lt (p : Sp) : encSp p < 3 := by cases p <;> decide
theorem decSp_enc (p : Sp) : decSp (encSp p) = some p := by cases p <;> rfl
theorem fmtCode_lt (f : Fmt) : fmtCode f < 12 := by cases f <;> decide
theorem fmtOf_code (f : Fmt) : fmtOf (fmtCode f) = some f := by cases f <;> rfl
theorem encSrc_lt (a : Src) : encSrc a < 16 := by cases a <;> simp only [encSrc] <;> omega
theorem encDst_lt (d : Dst) : encDst d < 13 := by cases d <;> simp only [encDst] <;> omega
theorem encFCond_lt (c : FCond) : encFCond c < 4 := by cases c <;> decide
theorem decFCond_enc (c : FCond) : decFCond (encFCond c) = some c := by cases c <;> rfl
theorem encCmpType_lt (c : CmpType) : encCmpType c < 3 := by cases c <;> decide
theorem decCmpType_enc (c : CmpType) : decCmpType (encCmpType c) = some c := by cases c <;> rfl
theorem encRedOp_lt (c : RedOp) : encRedOp c < 10 := by cases c <;> decide
theorem decRedOp_enc (c : RedOp) : decRedOp (encRedOp c) = some c := by cases c <;> rfl
theorem encPackW_lt (c : PackW) : encPackW c < 3 := by cases c <;> decide
theorem decPackW_enc (c : PackW) : decPackW (encPackW c) = some c := by cases c <;> rfl
theorem encLdb_lt (c : LdbMode) : encLdb c < 9 := by cases c <;> decide
theorem decLdb_enc (c : LdbMode) : decLdb (encLdb c) = some c := by cases c <;> rfl

theorem decSrc_enc (a : Src) : decSrc (encSrc a) = a := by
  cases a with
  | v n => simp [decSrc, encSrc, show n.toNat < 8 by omega]
  | i n => simp [decSrc, encSrc, show 8 + n.toNat < 12 by omega]
  | k n => simp [decSrc, encSrc, show ¬ 12 + n.toNat < 8 by omega, show ¬ 12 + n.toNat < 12 by omega]

theorem decDst_enc (d : Dst) : decDst (encDst d) = some d := by
  cases d with
  | v n => simp [decDst, encDst, show n.toNat < 8 by omega]
  | o n => simp [decDst, encDst, show 8 + n.toNat < 12 by omega]
  | p => rfl

theorem decIn_enc (n : BitVec 2) : decIn (8 + n.toNat) = some n := by
  simp [decIn, show 8 + n.toNat < 12 by omega]

theorem encOrd_lt (o : Ord) : encOrd o < 65536 ∧ encOrd o % 2048 = 0 := by
  cases o with
  | plain => decide
  | sync s => simp only [encOrd]; omega
  | sc => decide
  | fe => decide

theorem decOrd_of {w : Nat} (o : Ord) (h : w / 2 ^ 11 % 32 = encOrd o / 2 ^ 11) : decOrd w = some o := by
  have e1 : w / 2 ^ 14 % 4 = encOrd o / 2 ^ 14 := by have := (encOrd_lt o).1; omega
  have e2 : w / 2 ^ 11 % 8 = encOrd o / 2 ^ 11 % 8 := by omega
  unfold decOrd
  rw [e1, e2]
  cases o with
  | plain => rfl
  | sync s =>
    have h1 : encOrd (.sync s) / 16384 = 1 := by simp only [encOrd]; omega
    have h2 : fieldBv 3 w 11 = s := fieldBv_eq s (by simp only [encOrd] at e2; omega)
    simp [h1, h2]
  | sc => rfl
  | fe => rfl

/-! ## Control-core words -/

theorem encI_fields (op : Nat) (d a : Reg) (low : Nat) (ho : op < 64) (h : low < 65536) {w : Nat} (hw : encI op d a low = w) :
    w < 2 ^ 32 ∧ w / 2 ^ 26 % 64 = op ∧ rD (w) = d ∧ rA (w) = a ∧
    w / 2 ^ 16 % 32 = a.toNat ∧ w % 65536 = low := by
  subst hw
  exact ⟨by unfold encI; omega, by unfold encI; omega, fieldBv_eq d (by unfold encI; omega), fieldBv_eq a (by unfold encI; omega),
   by unfold encI; omega, by unfold encI; omega⟩

theorem encR_fields (op : Nat) (d a b : Reg) (fn : Nat) (ho : op < 64) (h : fn < 2048) {w : Nat} (hw : encR op d a b fn = w) :
    w < 2 ^ 32 ∧ w / 2 ^ 26 % 64 = op ∧ rD (w) = d ∧ rA (w) = a ∧
    rB (w) = b ∧ w / 2 ^ 11 % 32 = b.toNat ∧ w % 2048 = fn := by
  subst hw
  exact ⟨by unfold encR; omega, by unfold encR; omega, fieldBv_eq d (by unfold encR; omega), fieldBv_eq a (by unfold encR; omega),
   fieldBv_eq b (by unfold encR; omega), by unfold encR; omega, by unfold encR; omega⟩

/-- The fields of an ALU word (R294). -/
theorem encAlu_fields (d a b : Reg) (fn : Nat) (h : fn < 32) {w : Nat} (hw : encR 1 d a b fn = w) :
    w < 2 ^ 32 ∧ w / 2 ^ 26 % 64 = 1 ∧ rD (w) = d ∧ rA (w) = a ∧
    rB (w) = b ∧ w / 2 ^ 7 % 16 = 0 ∧ w % 32 = fn ∧ w / 2 ^ 5 % 4 = 0 := by
  subst hw
  obtain ⟨h1, h2, h3, h4, h5, -, h7⟩ := encR_fields 1 d a b fn (by omega) (by omega) rfl
  exact ⟨h1, h2, h3, h4, h5, by omega, by omega, by omega⟩

/-- The fields of an FPU word (R296). -/
theorem encF_fields (fn : Nat) (d a b : Reg) (f1 : Nat) (m : Rm) (h : fn < 16) (h1 : f1 < 16) {w : Nat} (hw : encF fn d a b f1 m = w) :
    w < 2 ^ 32 ∧ w / 2 ^ 26 % 64 = 11 ∧ rD (w) = d ∧ rA (w) = a ∧
    rB (w) = b ∧ w / 2 ^ 7 % 16 = f1 ∧ w % 16 = fn ∧
    decRm (w / 2 ^ 4 % 8) = some m ∧ w / 2 ^ 11 % 32 = b.toNat := by
  subst hw
  have hm := encRm_lt m
  obtain ⟨h1, h2, h3, h4, h5, h6, h7⟩ := encR_fields 11 d a b (f1 * 2 ^ 7 + encRm m * 2 ^ 4 + fn) (by omega) (by omega) rfl
  unfold encF
  refine ⟨h1, h2, h3, h4, h5, by omega, by omega, ?_, h6⟩
  rw [show encR 11 d a b (f1 * 2 ^ 7 + encRm m * 2 ^ 4 + fn) / 2 ^ 4 % 8 = encRm m by omega]
  exact decRm_enc m

/-! ## Micro-op words -/

theorem encU_fields (op dst a b c f m : Nat) (ho : op < 256) (hd : dst < 16) (ha : a < 16) (hb : b < 16) (hc : c < 16) (hf : f < 16)
    (hm : m < 16) {w : Nat} (hw : encU op dst a b c f m = w) :
    w < 2 ^ 32 ∧ w / 2 ^ 28 % 16 = op / 16 ∧ w / 2 ^ 24 % 256 = op ∧
    mDst (w) = dst ∧ mA (w) = a ∧ mB (w) = b ∧
    mC (w) = c ∧ mFmt (w) = f ∧ w % 16 = m ∧
    w % 8 = m % 8 ∧ w % 256 = f * 16 + m := by
  subst hw
  unfold mDst mA mB mC mFmt encU
  omega

/-- The fields of a floating-point micro-op (R369). -/
theorem encVf_fields (op : Nat) (d : Dst) (a b c : Nat) (x p : Bool) (m : Mode) (ho : op < 16) (ha : a < 16) (hb : b < 16)
    (hc : c < 16) {w : Nat} (hw : encVf op d a b c x p m = w) :
    w < 2 ^ 32 ∧ w / 2 ^ 28 % 16 = 0 ∧ w / 2 ^ 24 % 256 = op ∧
    decDst (mDst (w)) = some d ∧ mA (w) = a ∧ mB (w) = b ∧
    mC (w) = c ∧ mFmt (w) = encBool x ∧ bitOf (w) 3 = p ∧
    decMode (w % 8) = some m := by
  subst hw
  have hd := encDst_lt d
  have hx := encBool_lt x
  have hp := encBool_lt p
  have hm := encMode_lt m
  obtain ⟨h1, h2, h3, h4, h5, h6, h7, h8, h9, h10, -⟩ :=
    encU_fields op (encDst d) a b c (encBool x) (encBool p * 8 + encMode m) (by omega) (by omega) ha hb hc (by omega) (by omega) rfl
  unfold encVf
  refine ⟨h1, by omega, h3, ?_, h5, h6, h7, h8, bitOf_eq p (by omega), ?_⟩
  · rw [h4]; exact decDst_enc d
  · rw [h10, show (encBool p * 8 + encMode m) % 8 = encMode m by omega]; exact decMode_enc m

/-- The fields of an integer micro-op (R371). -/
theorem encVi_fields (op : Nat) (d : Dst) (a b : Nat) (p sat : Bool) (ho : op < 256) (ha : a < 16) (hb : b < 16) {w : Nat} (hw : encVi op d a b p sat = w) :
    w < 2 ^ 32 ∧ w / 2 ^ 28 % 16 = op / 16 ∧ w / 2 ^ 24 % 256 = op ∧
    decDst (mDst (w)) = some d ∧ mA (w) = a ∧ mB (w) = b ∧
    mC (w) = 0 ∧ mFmt (w) = 0 ∧ bitOf (w) 3 = p ∧
    bitOf (w) 0 = sat ∧ w / 2 ^ 1 % 4 = 0 := by
  subst hw
  have hd := encDst_lt d
  have hp := encBool_lt p
  have hs := encBool_lt sat
  obtain ⟨h1, h2, h3, h4, h5, h6, h7, h8, h9, h10, -⟩ :=
    encU_fields op (encDst d) a b 0 0 (encBool p * 8 + encBool sat) ho (by omega) ha hb (by omega) (by omega) (by omega) rfl
  unfold encVi
  refine ⟨h1, h2, h3, ?_, h5, h6, h7, h8, bitOf_eq p (by omega), bitOf_eq sat (by omega), by omega⟩
  rw [h4]; exact decDst_enc d

end Sys2Proof
end

