-- ==== Sys2Proof/Laws/PerInstr.lean ====
section
/-! SUPPORT. The encoding of every instruction: decoding the word of a well-formed instruction gives the instruction back, one lemma per
constructor. A step or event of the package has no word. -/

set_option Elab.async false

namespace Sys2Proof.Laws.EncodingRoundTrip

open Sys2Proof Sys2Proof.Machine

/-- The word of a well-formed instruction has 32 bits and the decoder of its kind reads the instruction back from it. -/
def Statement (i : Instr) : Prop :=
  i.wf = true → ∀ w, encode i = some w → w < 2 ^ 32 ∧ (if i.isMicro then decodeMicro w else decode w) = some i

theorem core {i : Instr} {v : Nat} (he : encode i = some v) (hm : i.isMicro = false)
    (hd : ∀ w, v = w → w < 2 ^ 32 ∧ (i.wf = true → decodeRaw w = some i)) : Statement i := by
  intro hw u hu
  cases he.symm.trans hu
  obtain ⟨hl, hr⟩ := hd v rfl
  refine ⟨hl, ?_⟩
  simp only [hm, decode, hr hw]
  exact filter_wf hw

theorem micro {i : Instr} {v : Nat} (he : encode i = some v) (hm : i.isMicro = true)
    (hd : ∀ w, v = w → w < 2 ^ 32 ∧ (i.wf = true → decodeMicroRaw w = some i)) : Statement i := by
  intro hw u hu
  cases he.symm.trans hu
  obtain ⟨hl, hr⟩ := hd v rfl
  refine ⟨hl, ?_⟩
  simp only [hm, decodeMicro, hr hw]
  exact filter_wf hw

theorem event {i : Instr} (he : encode i = none) : Statement i := by
  intro _ v hv
  cases he.symm.trans hv

theorem add (d : Reg) (a : Reg) (b : Reg) : Statement (.add d a b) := by
  refine core rfl rfl (fun w hw => ?_)
  obtain ⟨h1, h2, h3, h4, h5, h6, h7, h8⟩ := encAlu_fields d a b 0 (by omega) hw
  exact ⟨h1, fun hwf => by simp only [decodeRaw, decAlu, h2, h3, h4, h5, h6, h7, h8]; rfl⟩

theorem sub (d : Reg) (a : Reg) (b : Reg) : Statement (.sub d a b) := by
  refine core rfl rfl (fun w hw => ?_)
  obtain ⟨h1, h2, h3, h4, h5, h6, h7, h8⟩ := encAlu_fields d a b 1 (by omega) hw
  exact ⟨h1, fun hwf => by simp only [decodeRaw, decAlu, h2, h3, h4, h5, h6, h7, h8]; rfl⟩

theorem and (d : Reg) (a : Reg) (b : Reg) : Statement (.and d a b) := by
  refine core rfl rfl (fun w hw => ?_)
  obtain ⟨h1, h2, h3, h4, h5, h6, h7, h8⟩ := encAlu_fields d a b 2 (by omega) hw
  exact ⟨h1, fun hwf => by simp only [decodeRaw, decAlu, h2, h3, h4, h5, h6, h7, h8]; rfl⟩

theorem or (d : Reg) (a : Reg) (b : Reg) : Statement (.or d a b) := by
  refine core rfl rfl (fun w hw => ?_)
  obtain ⟨h1, h2, h3, h4, h5, h6, h7, h8⟩ := encAlu_fields d a b 3 (by omega) hw
  exact ⟨h1, fun hwf => by simp only [decodeRaw, decAlu, h2, h3, h4, h5, h6, h7, h8]; rfl⟩

theorem xor (d : Reg) (a : Reg) (b : Reg) : Statement (.xor d a b) := by
  refine core rfl rfl (fun w hw => ?_)
  obtain ⟨h1, h2, h3, h4, h5, h6, h7, h8⟩ := encAlu_fields d a b 4 (by omega) hw
  exact ⟨h1, fun hwf => by simp only [decodeRaw, decAlu, h2, h3, h4, h5, h6, h7, h8]; rfl⟩

theorem shl (d : Reg) (a : Reg) (b : Reg) : Statement (.shl d a b) := by
  refine core rfl rfl (fun w hw => ?_)
  obtain ⟨h1, h2, h3, h4, h5, h6, h7, h8⟩ := encAlu_fields d a b 5 (by omega) hw
  exact ⟨h1, fun hwf => by simp only [decodeRaw, decAlu, h2, h3, h4, h5, h6, h7, h8]; rfl⟩

theorem shr (d : Reg) (a : Reg) (b : Reg) : Statement (.shr d a b) := by
  refine core rfl rfl (fun w hw => ?_)
  obtain ⟨h1, h2, h3, h4, h5, h6, h7, h8⟩ := encAlu_fields d a b 6 (by omega) hw
  exact ⟨h1, fun hwf => by simp only [decodeRaw, decAlu, h2, h3, h4, h5, h6, h7, h8]; rfl⟩

theorem sra (d : Reg) (a : Reg) (b : Reg) : Statement (.sra d a b) := by
  refine core rfl rfl (fun w hw => ?_)
  obtain ⟨h1, h2, h3, h4, h5, h6, h7, h8⟩ := encAlu_fields d a b 7 (by omega) hw
  exact ⟨h1, fun hwf => by simp only [decodeRaw, decAlu, h2, h3, h4, h5, h6, h7, h8]; rfl⟩

theorem slt (d : Reg) (a : Reg) (b : Reg) : Statement (.slt d a b) := by
  refine core rfl rfl (fun w hw => ?_)
  obtain ⟨h1, h2, h3, h4, h5, h6, h7, h8⟩ := encAlu_fields d a b 8 (by omega) hw
  exact ⟨h1, fun hwf => by simp only [decodeRaw, decAlu, h2, h3, h4, h5, h6, h7, h8]; rfl⟩

theorem sltu (d : Reg) (a : Reg) (b : Reg) : Statement (.sltu d a b) := by
  refine core rfl rfl (fun w hw => ?_)
  obtain ⟨h1, h2, h3, h4, h5, h6, h7, h8⟩ := encAlu_fields d a b 9 (by omega) hw
  exact ⟨h1, fun hwf => by simp only [decodeRaw, decAlu, h2, h3, h4, h5, h6, h7, h8]; rfl⟩

theorem min (d : Reg) (a : Reg) (b : Reg) : Statement (.min d a b) := by
  refine core rfl rfl (fun w hw => ?_)
  obtain ⟨h1, h2, h3, h4, h5, h6, h7, h8⟩ := encAlu_fields d a b 10 (by omega) hw
  exact ⟨h1, fun hwf => by simp only [decodeRaw, decAlu, h2, h3, h4, h5, h6, h7, h8]; rfl⟩

theorem max (d : Reg) (a : Reg) (b : Reg) : Statement (.max d a b) := by
  refine core rfl rfl (fun w hw => ?_)
  obtain ⟨h1, h2, h3, h4, h5, h6, h7, h8⟩ := encAlu_fields d a b 11 (by omega) hw
  exact ⟨h1, fun hwf => by simp only [decodeRaw, decAlu, h2, h3, h4, h5, h6, h7, h8]; rfl⟩

theorem minu (d : Reg) (a : Reg) (b : Reg) : Statement (.minu d a b) := by
  refine core rfl rfl (fun w hw => ?_)
  obtain ⟨h1, h2, h3, h4, h5, h6, h7, h8⟩ := encAlu_fields d a b 12 (by omega) hw
  exact ⟨h1, fun hwf => by simp only [decodeRaw, decAlu, h2, h3, h4, h5, h6, h7, h8]; rfl⟩

theorem maxu (d : Reg) (a : Reg) (b : Reg) : Statement (.maxu d a b) := by
  refine core rfl rfl (fun w hw => ?_)
  obtain ⟨h1, h2, h3, h4, h5, h6, h7, h8⟩ := encAlu_fields d a b 13 (by omega) hw
  exact ⟨h1, fun hwf => by simp only [decodeRaw, decAlu, h2, h3, h4, h5, h6, h7, h8]; rfl⟩

theorem mul (d : Reg) (a : Reg) (b : Reg) : Statement (.mul d a b) := by
  refine core rfl rfl (fun w hw => ?_)
  obtain ⟨h1, h2, h3, h4, h5, h6, h7, h8⟩ := encAlu_fields d a b 14 (by omega) hw
  exact ⟨h1, fun hwf => by simp only [decodeRaw, decAlu, h2, h3, h4, h5, h6, h7, h8]; rfl⟩

theorem mulh (d : Reg) (a : Reg) (b : Reg) : Statement (.mulh d a b) := by
  refine core rfl rfl (fun w hw => ?_)
  obtain ⟨h1, h2, h3, h4, h5, h6, h7, h8⟩ := encAlu_fields d a b 15 (by omega) hw
  exact ⟨h1, fun hwf => by simp only [decodeRaw, decAlu, h2, h3, h4, h5, h6, h7, h8]; rfl⟩

theorem mulhu (d : Reg) (a : Reg) (b : Reg) : Statement (.mulhu d a b) := by
  refine core rfl rfl (fun w hw => ?_)
  obtain ⟨h1, h2, h3, h4, h5, h6, h7, h8⟩ := encAlu_fields d a b 16 (by omega) hw
  exact ⟨h1, fun hwf => by simp only [decodeRaw, decAlu, h2, h3, h4, h5, h6, h7, h8]; rfl⟩

theorem div (d : Reg) (a : Reg) (b : Reg) : Statement (.div d a b) := by
  refine core rfl rfl (fun w hw => ?_)
  obtain ⟨h1, h2, h3, h4, h5, h6, h7, h8⟩ := encAlu_fields d a b 17 (by omega) hw
  exact ⟨h1, fun hwf => by simp only [decodeRaw, decAlu, h2, h3, h4, h5, h6, h7, h8]; rfl⟩

theorem divu (d : Reg) (a : Reg) (b : Reg) : Statement (.divu d a b) := by
  refine core rfl rfl (fun w hw => ?_)
  obtain ⟨h1, h2, h3, h4, h5, h6, h7, h8⟩ := encAlu_fields d a b 18 (by omega) hw
  exact ⟨h1, fun hwf => by simp only [decodeRaw, decAlu, h2, h3, h4, h5, h6, h7, h8]; rfl⟩

theorem rem (d : Reg) (a : Reg) (b : Reg) : Statement (.rem d a b) := by
  refine core rfl rfl (fun w hw => ?_)
  obtain ⟨h1, h2, h3, h4, h5, h6, h7, h8⟩ := encAlu_fields d a b 19 (by omega) hw
  exact ⟨h1, fun hwf => by simp only [decodeRaw, decAlu, h2, h3, h4, h5, h6, h7, h8]; rfl⟩

theorem remu (d : Reg) (a : Reg) (b : Reg) : Statement (.remu d a b) := by
  refine core rfl rfl (fun w hw => ?_)
  obtain ⟨h1, h2, h3, h4, h5, h6, h7, h8⟩ := encAlu_fields d a b 20 (by omega) hw
  exact ⟨h1, fun hwf => by simp only [decodeRaw, decAlu, h2, h3, h4, h5, h6, h7, h8]; rfl⟩

theorem clz (d : Reg) (a : Reg) : Statement (.clz d a) := by
  refine core rfl rfl (fun w hw => ?_)
  obtain ⟨h1, h2, h3, h4, h5, h6, h7, h8⟩ := encAlu_fields d a 0 21 (by omega) hw
  exact ⟨h1, fun hwf => by simp only [decodeRaw, decAlu, h2, h3, h4, h5, h6, h7, h8]; rfl⟩

theorem ctz (d : Reg) (a : Reg) : Statement (.ctz d a) := by
  refine core rfl rfl (fun w hw => ?_)
  obtain ⟨h1, h2, h3, h4, h5, h6, h7, h8⟩ := encAlu_fields d a 0 22 (by omega) hw
  exact ⟨h1, fun hwf => by simp only [decodeRaw, decAlu, h2, h3, h4, h5, h6, h7, h8]; rfl⟩

theorem popc (d : Reg) (a : Reg) : Statement (.popc d a) := by
  refine core rfl rfl (fun w hw => ?_)
  obtain ⟨h1, h2, h3, h4, h5, h6, h7, h8⟩ := encAlu_fields d a 0 23 (by omega) hw
  exact ⟨h1, fun hwf => by simp only [decodeRaw, decAlu, h2, h3, h4, h5, h6, h7, h8]; rfl⟩

theorem bswap (d : Reg) (a : Reg) : Statement (.bswap d a) := by
  refine core rfl rfl (fun w hw => ?_)
  obtain ⟨h1, h2, h3, h4, h5, h6, h7, h8⟩ := encAlu_fields d a 0 24 (by omega) hw
  exact ⟨h1, fun hwf => by simp only [decodeRaw, decAlu, h2, h3, h4, h5, h6, h7, h8]; rfl⟩

theorem lea (d : Reg) (a : Reg) (b : Reg) (k : BitVec 2) : Statement (.lea d a b k) := by
  refine core rfl rfl (fun w hw => ?_)
  obtain ⟨h1, h2, h3, h4, h5, -, h7⟩ := encR_fields 1 d a b (k.toNat * 2 ^ 5 + 25) (by omega) (by omega) hw
  have h6 : w / 2 ^ 7 % 16 = 0 := by omega
  have h8 : w % 32 = 25 := by omega
  have h9 : fieldBv 2 w 5 = k := fieldBv_eq k (by omega)
  exact ⟨h1, fun hwf => by simp only [decodeRaw, decAlu, h2, h3, h4, h5, h6, h8, h9]; rfl⟩

theorem addi (d : Reg) (a : Reg) (i : BitVec 16) : Statement (.addi d a i) := by
  refine core rfl rfl (fun w hw => ?_)
  obtain ⟨h1, h2, h3, h4, -, h6⟩ := encI_fields 0x2 d a i.toNat (by omega) (by omega) hw
  have h9 : fieldBv 16 w 0 = i := fieldBv_eq i (by omega)
  exact ⟨h1, fun hwf => by simp only [decodeRaw, h2, h3, h4, h9]⟩

theorem andi (d : Reg) (a : Reg) (i : BitVec 16) : Statement (.andi d a i) := by
  refine core rfl rfl (fun w hw => ?_)
  obtain ⟨h1, h2, h3, h4, -, h6⟩ := encI_fields 0x3 d a i.toNat (by omega) (by omega) hw
  have h9 : fieldBv 16 w 0 = i := fieldBv_eq i (by omega)
  exact ⟨h1, fun hwf => by simp only [decodeRaw, h2, h3, h4, h9]⟩

theorem ori (d : Reg) (a : Reg) (i : BitVec 16) : Statement (.ori d a i) := by
  refine core rfl rfl (fun w hw => ?_)
  obtain ⟨h1, h2, h3, h4, -, h6⟩ := encI_fields 0x4 d a i.toNat (by omega) (by omega) hw
  have h9 : fieldBv 16 w 0 = i := fieldBv_eq i (by omega)
  exact ⟨h1, fun hwf => by simp only [decodeRaw, h2, h3, h4, h9]⟩

theorem xori (d : Reg) (a : Reg) (i : BitVec 16) : Statement (.xori d a i) := by
  refine core rfl rfl (fun w hw => ?_)
  obtain ⟨h1, h2, h3, h4, -, h6⟩ := encI_fields 0x5 d a i.toNat (by omega) (by omega) hw
  have h9 : fieldBv 16 w 0 = i := fieldBv_eq i (by omega)
  exact ⟨h1, fun hwf => by simp only [decodeRaw, h2, h3, h4, h9]⟩

theorem slti (d : Reg) (a : Reg) (i : BitVec 16) : Statement (.slti d a i) := by
  refine core rfl rfl (fun w hw => ?_)
  obtain ⟨h1, h2, h3, h4, -, h6⟩ := encI_fields 0x6 d a i.toNat (by omega) (by omega) hw
  have h9 : fieldBv 16 w 0 = i := fieldBv_eq i (by omega)
  exact ⟨h1, fun hwf => by simp only [decodeRaw, h2, h3, h4, h9]⟩

theorem sltiu (d : Reg) (a : Reg) (i : BitVec 16) : Statement (.sltiu d a i) := by
  refine core rfl rfl (fun w hw => ?_)
  obtain ⟨h1, h2, h3, h4, -, h6⟩ := encI_fields 0x7 d a i.toNat (by omega) (by omega) hw
  have h9 : fieldBv 16 w 0 = i := fieldBv_eq i (by omega)
  exact ⟨h1, fun hwf => by simp only [decodeRaw, h2, h3, h4, h9]⟩

theorem shli (d : Reg) (a : Reg) (n : BitVec 6) : Statement (.shli d a n) := by
  refine core rfl rfl (fun w hw => ?_)
  obtain ⟨h1, h2, h3, h4, -, h6⟩ := encI_fields 0x08 d a (0 * 2 ^ 6 + n.toNat) (by omega) (by omega) hw
  have h9 : fieldBv 6 w 0 = n := fieldBv_eq n (by omega)
  have h10 : w / 2 ^ 6 % 1024 = 0 := by omega
  exact ⟨h1, fun hwf => by simp only [decodeRaw, decShift, h2, h3, h4, h9, h10]⟩

theorem shri (d : Reg) (a : Reg) (n : BitVec 6) : Statement (.shri d a n) := by
  refine core rfl rfl (fun w hw => ?_)
  obtain ⟨h1, h2, h3, h4, -, h6⟩ := encI_fields 0x08 d a (1 * 2 ^ 6 + n.toNat) (by omega) (by omega) hw
  have h9 : fieldBv 6 w 0 = n := fieldBv_eq n (by omega)
  have h10 : w / 2 ^ 6 % 1024 = 1 := by omega
  exact ⟨h1, fun hwf => by simp only [decodeRaw, decShift, h2, h3, h4, h9, h10]⟩

theorem srai (d : Reg) (a : Reg) (n : BitVec 6) : Statement (.srai d a n) := by
  refine core rfl rfl (fun w hw => ?_)
  obtain ⟨h1, h2, h3, h4, -, h6⟩ := encI_fields 0x08 d a (2 * 2 ^ 6 + n.toNat) (by omega) (by omega) hw
  have h9 : fieldBv 6 w 0 = n := fieldBv_eq n (by omega)
  have h10 : w / 2 ^ 6 % 1024 = 2 := by omega
  exact ⟨h1, fun hwf => by simp only [decodeRaw, decShift, h2, h3, h4, h9, h10]⟩

theorem liz (d : Reg) (p : BitVec 2) (i : BitVec 16) : Statement (.liz d p i) := by
  refine core rfl rfl (fun w hw => ?_)
  have hv := hw
  unfold encX at hv
  have h1 : w < 2 ^ 32 := by omega
  have h2 : w / 2 ^ 26 % 64 = 0x09 := by omega
  have h3 : rD w = d := fieldBv_eq d (by omega)
  have h4 : fieldBv 2 w 16 = p := fieldBv_eq p (by omega)
  have h5 : fieldBv 16 w 0 = i := fieldBv_eq i (by omega)
  have h6 : w / 2 ^ 18 % 8 = 0 := by omega
  exact ⟨h1, fun hwf => by simp only [decodeRaw, decLi, h2, h3, h4, h5, h6]; rfl⟩

theorem lik (d : Reg) (p : BitVec 2) (i : BitVec 16) : Statement (.lik d p i) := by
  refine core rfl rfl (fun w hw => ?_)
  have hv := hw
  unfold encX at hv
  have h1 : w < 2 ^ 32 := by omega
  have h2 : w / 2 ^ 26 % 64 = 0x0A := by omega
  have h3 : rD w = d := fieldBv_eq d (by omega)
  have h4 : fieldBv 2 w 16 = p := fieldBv_eq p (by omega)
  have h5 : fieldBv 16 w 0 = i := fieldBv_eq i (by omega)
  have h6 : w / 2 ^ 18 % 8 = 0 := by omega
  exact ⟨h1, fun hwf => by simp only [decodeRaw, decLi, h2, h3, h4, h5, h6]; rfl⟩

theorem fadd (d : Reg) (a : Reg) (b : Reg) (m : Rm) : Statement (.fadd d a b m) := by
  refine core rfl rfl (fun w hw => ?_)
  have := encRm_lt m
  obtain ⟨h1, h2, h3, h4, h5, h6, h7, h8, h9⟩ := encF_fields 0 d a b 0 m (by omega) (by omega) hw
  exact ⟨h1, fun hwf => by
    unfold decodeRaw; rw [h2]; show decFpu w = _; unfold decFpu; rw [h8]; dsimp only; rw [h7]; simp only [h3, h4, h5, h6]; rfl⟩

theorem fsub (d : Reg) (a : Reg) (b : Reg) (m : Rm) : Statement (.fsub d a b m) := by
  refine core rfl rfl (fun w hw => ?_)
  have := encRm_lt m
  obtain ⟨h1, h2, h3, h4, h5, h6, h7, h8, h9⟩ := encF_fields 1 d a b 0 m (by omega) (by omega) hw
  exact ⟨h1, fun hwf => by
    unfold decodeRaw; rw [h2]; show decFpu w = _; unfold decFpu; rw [h8]; dsimp only; rw [h7]; simp only [h3, h4, h5, h6]; rfl⟩

theorem fmul (d : Reg) (a : Reg) (b : Reg) (m : Rm) : Statement (.fmul d a b m) := by
  refine core rfl rfl (fun w hw => ?_)
  have := encRm_lt m
  obtain ⟨h1, h2, h3, h4, h5, h6, h7, h8, h9⟩ := encF_fields 2 d a b 0 m (by omega) (by omega) hw
  exact ⟨h1, fun hwf => by
    unfold decodeRaw; rw [h2]; show decFpu w = _; unfold decFpu; rw [h8]; dsimp only; rw [h7]; simp only [h3, h4, h5, h6]; rfl⟩

theorem fdiv (d : Reg) (a : Reg) (b : Reg) (m : Rm) : Statement (.fdiv d a b m) := by
  refine core rfl rfl (fun w hw => ?_)
  have := encRm_lt m
  obtain ⟨h1, h2, h3, h4, h5, h6, h7, h8, h9⟩ := encF_fields 3 d a b 0 m (by omega) (by omega) hw
  exact ⟨h1, fun hwf => by
    unfold decodeRaw; rw [h2]; show decFpu w = _; unfold decFpu; rw [h8]; dsimp only; rw [h7]; simp only [h3, h4, h5, h6]; rfl⟩

theorem fsqrt (d : Reg) (a : Reg) (m : Rm) : Statement (.fsqrt d a m) := by
  refine core rfl rfl (fun w hw => ?_)
  have := encRm_lt m
  obtain ⟨h1, h2, h3, h4, h5, h6, h7, h8, h9⟩ := encF_fields 4 d a 0 0 m (by omega) (by omega) hw
  exact ⟨h1, fun hwf => by
    unfold decodeRaw; rw [h2]; show decFpu w = _; unfold decFpu; rw [h8]; dsimp only; rw [h7]; simp only [h3, h4, h5, h6]; rfl⟩

theorem fmin (d : Reg) (a : Reg) (b : Reg) (m : Rm) : Statement (.fmin d a b m) := by
  refine core rfl rfl (fun w hw => ?_)
  have := encRm_lt m
  obtain ⟨h1, h2, h3, h4, h5, h6, h7, h8, h9⟩ := encF_fields 5 d a b 0 m (by omega) (by omega) hw
  exact ⟨h1, fun hwf => by
    unfold decodeRaw; rw [h2]; show decFpu w = _; unfold decFpu; rw [h8]; dsimp only; rw [h7]; simp only [h3, h4, h5, h6]; rfl⟩

theorem fmax (d : Reg) (a : Reg) (b : Reg) (m : Rm) : Statement (.fmax d a b m) := by
  refine core rfl rfl (fun w hw => ?_)
  have := encRm_lt m
  obtain ⟨h1, h2, h3, h4, h5, h6, h7, h8, h9⟩ := encF_fields 6 d a b 0 m (by omega) (by omega) hw
  exact ⟨h1, fun hwf => by
    unfold decodeRaw; rw [h2]; show decFpu w = _; unfold decFpu; rw [h8]; dsimp only; rw [h7]; simp only [h3, h4, h5, h6]; rfl⟩

theorem fcmp (d : Reg) (a : Reg) (b : Reg) (c : FCond) (m : Rm) : Statement (.fcmp d a b c m) := by
  refine core rfl rfl (fun w hw => ?_)
  have := encFCond_lt c
  have := encRm_lt m
  obtain ⟨h1, h2, h3, h4, h5, h6, h7, h8, h9⟩ := encF_fields 7 d a b (encFCond c) m (by omega) (by omega) hw
  exact ⟨h1, fun hwf => by
    unfold decodeRaw; rw [h2]; show decFpu w = _; unfold decFpu; rw [h8]; dsimp only; rw [h7]; simp only [h3, h4, h5, h6, decFCond_enc]; rfl⟩

theorem fcvt (d : Reg) (a : Reg) (src : Fmt) (dst : Fmt) (m : Rm) : Statement (.fcvt d a src dst m) := by
  refine core rfl rfl (fun w hw => ?_)
  have := fmtCode_lt src
  have := fmtCode_lt dst
  have := encRm_lt m
  obtain ⟨h1, h2, h3, h4, h5, h6, h7, h8, h9⟩ := encF_fields 8 d a (BitVec.ofNat 5 (fmtCode src)) (fmtCode dst) m (by omega) (by omega) hw
  have h10 : w / 2 ^ 11 % 16 = fmtCode src := by
    rw [BitVec.toNat_ofNat] at h9; omega
  have h11 : w / 2 ^ 15 % 2 = 0 := by
    rw [BitVec.toNat_ofNat] at h9; omega
  exact ⟨h1, fun hwf => by
    unfold decodeRaw; rw [h2]; show decFpu w = _; unfold decFpu; rw [h8]; dsimp only; rw [h7]; simp only [h3, h4, h6, h10, h11, fmtOf_code, ne_eq, not_true, if_false]⟩

theorem fclass (d : Reg) (a : Reg) (m : Rm) : Statement (.fclass d a m) := by
  refine core rfl rfl (fun w hw => ?_)
  have := encRm_lt m
  obtain ⟨h1, h2, h3, h4, h5, h6, h7, h8, h9⟩ := encF_fields 9 d a 0 0 m (by omega) (by omega) hw
  exact ⟨h1, fun hwf => by
    unfold decodeRaw; rw [h2]; show decFpu w = _; unfold decFpu; rw [h8]; dsimp only; rw [h7]; simp only [h3, h4, h5, h6]; rfl⟩

theorem scalex (d : Reg) (a : Reg) (f : Fmt) (m : Rm) : Statement (.scalex d a f m) := by
  refine core rfl rfl (fun w hw => ?_)
  have := fmtCode_lt f
  have := encRm_lt m
  obtain ⟨h1, h2, h3, h4, h5, h6, h7, h8, h9⟩ := encF_fields 10 d a 0 (fmtCode f) m (by omega) (by omega) hw
  exact ⟨h1, fun hwf => by
    unfold decodeRaw; rw [h2]; show decFpu w = _; unfold decFpu; rw [h8]; dsimp only; rw [h7]; simp only [h3, h4, h5, h6, fmtOf_code]; rfl⟩

theorem ld (d : Reg) (base : Reg) (o : Ord) (z : Sz) (off : BitVec 9) : Statement (.ld d base o z off) := by
  refine core rfl rfl (fun w hw => ?_)
  have := encOrd_lt o
  have := encSz_lt z
  obtain ⟨h1, h2, h3, h4, -, h6⟩ := encI_fields 0x10 d base (encOrd o + encSz z * 2 ^ 9 + off.toNat) (by omega) (by omega) hw
  have h7 : decOrd w = some o := decOrd_of o (by omega)
  have h8 : decSz (w / 2 ^ 9 % 4) = z := by rw [show w / 2 ^ 9 % 4 = encSz z by omega]; exact decSz_enc z
  have h9 : fieldBv 9 w 0 = off := fieldBv_eq off (by omega)
  exact ⟨h1, fun hwf => by simp only [decodeRaw, decLd, h2, h3, h4, h7, h8, h9]; rfl⟩

theorem st (s : Reg) (base : Reg) (o : Ord) (z : Sz) (off : BitVec 9) : Statement (.st s base o z off) := by
  refine core rfl rfl (fun w hw => ?_)
  have := encOrd_lt o
  have := encSz_lt z
  obtain ⟨h1, h2, h3, h4, -, h6⟩ := encI_fields 0x11 s base (encOrd o + encSz z * 2 ^ 9 + off.toNat) (by omega) (by omega) hw
  have h7 : decOrd w = some o := decOrd_of o (by omega)
  have h8 : decSz (w / 2 ^ 9 % 4) = z := by rw [show w / 2 ^ 9 % 4 = encSz z by omega]; exact decSz_enc z
  have h9 : fieldBv 9 w 0 = off := fieldBv_eq off (by omega)
  exact ⟨h1, fun hwf => by simp only [decodeRaw, decLd, h2, h3, h4, h7, h8, h9]; rfl⟩

theorem ldx (d : Reg) (base : Reg) (o : Ord) (z : Sz) (sp : Sp) (off : BitVec 7) : Statement (.ldx d base o z sp off) := by
  refine core rfl rfl (fun w hw => ?_)
  have := encOrd_lt o
  have := encSz_lt z
  have := encSp_lt sp
  obtain ⟨h1, h2, h3, h4, -, h6⟩ := encI_fields 0x12 d base (encOrd o + encSz z * 2 ^ 9 + encSp sp * 2 ^ 7 + off.toNat) (by omega) (by omega) hw
  have h7 : decOrd w = some o := decOrd_of o (by omega)
  have h8 : decSz (w / 2 ^ 9 % 4) = z := by rw [show w / 2 ^ 9 % 4 = encSz z by omega]; exact decSz_enc z
  have h9 : fieldBv 7 w 0 = off := fieldBv_eq off (by omega)
  have h10 : decSp (w / 2 ^ 7 % 4) = some sp := by rw [show w / 2 ^ 7 % 4 = encSp sp by omega]; exact decSp_enc sp
  exact ⟨h1, fun hwf => by simp only [decodeRaw, decLdx, h2, h3, h4, h7, h8, h9, h10]; rfl⟩

theorem stx (s : Reg) (base : Reg) (o : Ord) (z : Sz) (sp : Sp) (off : BitVec 7) : Statement (.stx s base o z sp off) := by
  refine core rfl rfl (fun w hw => ?_)
  have := encOrd_lt o
  have := encSz_lt z
  have := encSp_lt sp
  obtain ⟨h1, h2, h3, h4, -, h6⟩ := encI_fields 0x13 s base (encOrd o + encSz z * 2 ^ 9 + encSp sp * 2 ^ 7 + off.toNat) (by omega) (by omega) hw
  have h7 : decOrd w = some o := decOrd_of o (by omega)
  have h8 : decSz (w / 2 ^ 9 % 4) = z := by rw [show w / 2 ^ 9 % 4 = encSz z by omega]; exact decSz_enc z
  have h9 : fieldBv 7 w 0 = off := fieldBv_eq off (by omega)
  have h10 : decSp (w / 2 ^ 7 % 4) = some sp := by rw [show w / 2 ^ 7 % 4 = encSp sp by omega]; exact decSp_enc sp
  exact ⟨h1, fun hwf => by simp only [decodeRaw, decLdx, h2, h3, h4, h7, h8, h9, h10]; rfl⟩

theorem amoAdd (d : Reg) (base : Reg) (o : Ord) (dword : Bool) (off : BitVec 6) : Statement (.amoAdd d base o dword off) := by
  refine core rfl rfl (fun w hw => ?_)
  have := encOrd_lt o
  have := encBool_lt dword
  obtain ⟨h1, h2, h3, h4, -, h6⟩ := encI_fields 0x14 d base (encOrd o + 0 * 2 ^ 7 + encBool dword * 2 ^ 6 + off.toNat) (by omega) (by omega) hw
  have h7 : decOrd w = some o := decOrd_of o (by omega)
  have h8 : w / 2 ^ 7 % 16 = 0 := by omega
  have h9 : bitOf w 6 = dword := bitOf_eq dword (by omega)
  have h10 : fieldBv 6 w 0 = off := fieldBv_eq off (by omega)
  exact ⟨h1, fun hwf => by
    unfold decodeRaw; rw [h2]; show decAmo w = _; unfold decAmo; rw [h7]; dsimp only; rw [h8]; simp only [h3, h4, h9, h10]⟩

theorem amoAnd (d : Reg) (base : Reg) (o : Ord) (dword : Bool) (off : BitVec 6) : Statement (.amoAnd d base o dword off) := by
  refine core rfl rfl (fun w hw => ?_)
  have := encOrd_lt o
  have := encBool_lt dword
  obtain ⟨h1, h2, h3, h4, -, h6⟩ := encI_fields 0x14 d base (encOrd o + 1 * 2 ^ 7 + encBool dword * 2 ^ 6 + off.toNat) (by omega) (by omega) hw
  have h7 : decOrd w = some o := decOrd_of o (by omega)
  have h8 : w / 2 ^ 7 % 16 = 1 := by omega
  have h9 : bitOf w 6 = dword := bitOf_eq dword (by omega)
  have h10 : fieldBv 6 w 0 = off := fieldBv_eq off (by omega)
  exact ⟨h1, fun hwf => by
    unfold decodeRaw; rw [h2]; show decAmo w = _; unfold decAmo; rw [h7]; dsimp only; rw [h8]; simp only [h3, h4, h9, h10]⟩

theorem amoOr (d : Reg) (base : Reg) (o : Ord) (dword : Bool) (off : BitVec 6) : Statement (.amoOr d base o dword off) := by
  refine core rfl rfl (fun w hw => ?_)
  have := encOrd_lt o
  have := encBool_lt dword
  obtain ⟨h1, h2, h3, h4, -, h6⟩ := encI_fields 0x14 d base (encOrd o + 2 * 2 ^ 7 + encBool dword * 2 ^ 6 + off.toNat) (by omega) (by omega) hw
  have h7 : decOrd w = some o := decOrd_of o (by omega)
  have h8 : w / 2 ^ 7 % 16 = 2 := by omega
  have h9 : bitOf w 6 = dword := bitOf_eq dword (by omega)
  have h10 : fieldBv 6 w 0 = off := fieldBv_eq off (by omega)
  exact ⟨h1, fun hwf => by
    unfold decodeRaw; rw [h2]; show decAmo w = _; unfold decAmo; rw [h7]; dsimp only; rw [h8]; simp only [h3, h4, h9, h10]⟩

theorem amoXor (d : Reg) (base : Reg) (o : Ord) (dword : Bool) (off : BitVec 6) : Statement (.amoXor d base o dword off) := by
  refine core rfl rfl (fun w hw => ?_)
  have := encOrd_lt o
  have := encBool_lt dword
  obtain ⟨h1, h2, h3, h4, -, h6⟩ := encI_fields 0x14 d base (encOrd o + 3 * 2 ^ 7 + encBool dword * 2 ^ 6 + off.toNat) (by omega) (by omega) hw
  have h7 : decOrd w = some o := decOrd_of o (by omega)
  have h8 : w / 2 ^ 7 % 16 = 3 := by omega
  have h9 : bitOf w 6 = dword := bitOf_eq dword (by omega)
  have h10 : fieldBv 6 w 0 = off := fieldBv_eq off (by omega)
  exact ⟨h1, fun hwf => by
    unfold decodeRaw; rw [h2]; show decAmo w = _; unfold decAmo; rw [h7]; dsimp only; rw [h8]; simp only [h3, h4, h9, h10]⟩

theorem amoMin (d : Reg) (base : Reg) (o : Ord) (dword : Bool) (off : BitVec 6) : Statement (.amoMin d base o dword off) := by
  refine core rfl rfl (fun w hw => ?_)
  have := encOrd_lt o
  have := encBool_lt dword
  obtain ⟨h1, h2, h3, h4, -, h6⟩ := encI_fields 0x14 d base (encOrd o + 4 * 2 ^ 7 + encBool dword * 2 ^ 6 + off.toNat) (by omega) (by omega) hw
  have h7 : decOrd w = some o := decOrd_of o (by omega)
  have h8 : w / 2 ^ 7 % 16 = 4 := by omega
  have h9 : bitOf w 6 = dword := bitOf_eq dword (by omega)
  have h10 : fieldBv 6 w 0 = off := fieldBv_eq off (by omega)
  exact ⟨h1, fun hwf => by
    unfold decodeRaw; rw [h2]; show decAmo w = _; unfold decAmo; rw [h7]; dsimp only; rw [h8]; simp only [h3, h4, h9, h10]⟩

theorem amoMax (d : Reg) (base : Reg) (o : Ord) (dword : Bool) (off : BitVec 6) : Statement (.amoMax d base o dword off) := by
  refine core rfl rfl (fun w hw => ?_)
  have := encOrd_lt o
  have := encBool_lt dword
  obtain ⟨h1, h2, h3, h4, -, h6⟩ := encI_fields 0x14 d base (encOrd o + 5 * 2 ^ 7 + encBool dword * 2 ^ 6 + off.toNat) (by omega) (by omega) hw
  have h7 : decOrd w = some o := decOrd_of o (by omega)
  have h8 : w / 2 ^ 7 % 16 = 5 := by omega
  have h9 : bitOf w 6 = dword := bitOf_eq dword (by omega)
  have h10 : fieldBv 6 w 0 = off := fieldBv_eq off (by omega)
  exact ⟨h1, fun hwf => by
    unfold decodeRaw; rw [h2]; show decAmo w = _; unfold decAmo; rw [h7]; dsimp only; rw [h8]; simp only [h3, h4, h9, h10]⟩

theorem amoMinu (d : Reg) (base : Reg) (o : Ord) (dword : Bool) (off : BitVec 6) : Statement (.amoMinu d base o dword off) := by
  refine core rfl rfl (fun w hw => ?_)
  have := encOrd_lt o
  have := encBool_lt dword
  obtain ⟨h1, h2, h3, h4, -, h6⟩ := encI_fields 0x14 d base (encOrd o + 6 * 2 ^ 7 + encBool dword * 2 ^ 6 + off.toNat) (by omega) (by omega) hw
  have h7 : decOrd w = some o := decOrd_of o (by omega)
  have h8 : w / 2 ^ 7 % 16 = 6 := by omega
  have h9 : bitOf w 6 = dword := bitOf_eq dword (by omega)
  have h10 : fieldBv 6 w 0 = off := fieldBv_eq off (by omega)
  exact ⟨h1, fun hwf => by
    unfold decodeRaw; rw [h2]; show decAmo w = _; unfold decAmo; rw [h7]; dsimp only; rw [h8]; simp only [h3, h4, h9, h10]⟩

theorem amoMaxu (d : Reg) (base : Reg) (o : Ord) (dword : Bool) (off : BitVec 6) : Statement (.amoMaxu d base o dword off) := by
  refine core rfl rfl (fun w hw => ?_)
  have := encOrd_lt o
  have := encBool_lt dword
  obtain ⟨h1, h2, h3, h4, -, h6⟩ := encI_fields 0x14 d base (encOrd o + 7 * 2 ^ 7 + encBool dword * 2 ^ 6 + off.toNat) (by omega) (by omega) hw
  have h7 : decOrd w = some o := decOrd_of o (by omega)
  have h8 : w / 2 ^ 7 % 16 = 7 := by omega
  have h9 : bitOf w 6 = dword := bitOf_eq dword (by omega)
  have h10 : fieldBv 6 w 0 = off := fieldBv_eq off (by omega)
  exact ⟨h1, fun hwf => by
    unfold decodeRaw; rw [h2]; show decAmo w = _; unfold decAmo; rw [h7]; dsimp only; rw [h8]; simp only [h3, h4, h9, h10]⟩

theorem amoXchg (d : Reg) (base : Reg) (o : Ord) (dword : Bool) (off : BitVec 6) : Statement (.amoXchg d base o dword off) := by
  refine core rfl rfl (fun w hw => ?_)
  have := encOrd_lt o
  have := encBool_lt dword
  obtain ⟨h1, h2, h3, h4, -, h6⟩ := encI_fields 0x14 d base (encOrd o + 8 * 2 ^ 7 + encBool dword * 2 ^ 6 + off.toNat) (by omega) (by omega) hw
  have h7 : decOrd w = some o := decOrd_of o (by omega)
  have h8 : w / 2 ^ 7 % 16 = 8 := by omega
  have h9 : bitOf w 6 = dword := bitOf_eq dword (by omega)
  have h10 : fieldBv 6 w 0 = off := fieldBv_eq off (by omega)
  exact ⟨h1, fun hwf => by
    unfold decodeRaw; rw [h2]; show decAmo w = _; unfold decAmo; rw [h7]; dsimp only; rw [h8]; simp only [h3, h4, h9, h10]⟩

theorem amoFadd (d : Reg) (base : Reg) (o : Ord) (off : BitVec 6) : Statement (.amoFadd d base o off) := by
  refine core rfl rfl (fun w hw => ?_)
  have z0 : encBool false = 0 := rfl
  have := encOrd_lt o
  have := encBool_lt false
  obtain ⟨h1, h2, h3, h4, -, h6⟩ := encI_fields 0x14 d base (encOrd o + 9 * 2 ^ 7 + encBool false * 2 ^ 6 + off.toNat) (by omega) (by omega) hw
  have h7 : decOrd w = some o := decOrd_of o (by omega)
  have h8 : w / 2 ^ 7 % 16 = 9 := by omega
  have h9 : bitOf w 6 = false := bitOf_eq false (by have z : encBool false = 0 := rfl; omega)
  have h10 : fieldBv 6 w 0 = off := fieldBv_eq off (by omega)
  exact ⟨h1, fun hwf => by
    unfold decodeRaw; rw [h2]; show decAmo w = _; unfold decAmo; rw [h7]; dsimp only; rw [h8]; simp only [h3, h4, h9, h10]; rfl⟩

theorem amoFabsmax (d : Reg) (base : Reg) (o : Ord) (off : BitVec 6) : Statement (.amoFabsmax d base o off) := by
  refine core rfl rfl (fun w hw => ?_)
  have z0 : encBool false = 0 := rfl
  have := encOrd_lt o
  have := encBool_lt false
  obtain ⟨h1, h2, h3, h4, -, h6⟩ := encI_fields 0x14 d base (encOrd o + 10 * 2 ^ 7 + encBool false * 2 ^ 6 + off.toNat) (by omega) (by omega) hw
  have h7 : decOrd w = some o := decOrd_of o (by omega)
  have h8 : w / 2 ^ 7 % 16 = 10 := by omega
  have h9 : bitOf w 6 = false := bitOf_eq false (by have z : encBool false = 0 := rfl; omega)
  have h10 : fieldBv 6 w 0 = off := fieldBv_eq off (by omega)
  exact ⟨h1, fun hwf => by
    unfold decodeRaw; rw [h2]; show decAmo w = _; unfold decAmo; rw [h7]; dsimp only; rw [h8]; simp only [h3, h4, h9, h10]; rfl⟩

theorem cas (d : Reg) (base : Reg) (o : Ord) (n : Reg) (dword : Bool) (off : BitVec 5) : Statement (.cas d base o n dword off) := by
  refine core rfl rfl (fun w hw => ?_)
  have := encOrd_lt o
  have := encBool_lt dword
  obtain ⟨h1, h2, h3, h4, -, h6⟩ := encI_fields 0x15 d base (encOrd o + n.toNat * 2 ^ 6 + encBool dword * 2 ^ 5 + off.toNat) (by omega) (by omega) hw
  have h7 : decOrd w = some o := decOrd_of o (by omega)
  have h8 : fieldBv 5 w 6 = n := fieldBv_eq n (by omega)
  have h9 : bitOf w 5 = dword := bitOf_eq dword (by omega)
  have h10 : fieldBv 5 w 0 = off := fieldBv_eq off (by omega)
  exact ⟨h1, fun hwf => by
    unfold decodeRaw; rw [h2]; show decCas w false = _; unfold decCas; rw [h7]; simp only [h3, h4, h8, h9, h10]; rfl⟩

theorem cas16 (d : Reg) (base : Reg) (o : Ord) (n : Reg) (off : BitVec 5) : Statement (.cas16 d base o n off) := by
  refine core rfl rfl (fun w hw => ?_)
  have := encOrd_lt o
  obtain ⟨h1, h2, h3, h4, -, h6⟩ := encI_fields 0x16 d base (encOrd o + n.toNat * 2 ^ 6 + off.toNat) (by omega) (by omega) hw
  have h7 : decOrd w = some o := decOrd_of o (by omega)
  have h8 : fieldBv 5 w 6 = n := fieldBv_eq n (by omega)
  have h9 : bitOf w 5 = false := bitOf_eq false (by have z : encBool false = 0 := rfl; omega)
  have h10 : fieldBv 5 w 0 = off := fieldBv_eq off (by omega)
  exact ⟨h1, fun hwf => by
    unfold decodeRaw; rw [h2]; show decCas w true = _; unfold decCas; rw [h7]; simp only [h3, h4, h8, h9, h10]; rfl⟩

theorem fenceAcq (s : Scope) : Statement (.fenceAcq s) := by
  refine core rfl rfl (fun w hw => ?_)
  have hv := hw
  have h1 : w < 2 ^ 32 := by omega
  have h2 : w / 2 ^ 26 % 64 = 0x17 := by omega
  have h3 : fieldBv 3 w 11 = s := fieldBv_eq s (by omega)
  have h4 : w / 2 ^ 14 % 4 = 0 := by omega
  have h5 : w % 2 ^ 11 = 0 := by omega
  have h6 : w / 2 ^ 16 % 1024 = 0 := by omega
  exact ⟨h1, fun hwf => by simp only [decodeRaw, decFence, h2, h3, h4, h5, h6]; rfl⟩

theorem fenceRel (s : Scope) : Statement (.fenceRel s) := by
  refine core rfl rfl (fun w hw => ?_)
  have hv := hw
  have h1 : w < 2 ^ 32 := by omega
  have h2 : w / 2 ^ 26 % 64 = 0x17 := by omega
  have h3 : fieldBv 3 w 11 = s := fieldBv_eq s (by omega)
  have h4 : w / 2 ^ 14 % 4 = 1 := by omega
  have h5 : w % 2 ^ 11 = 0 := by omega
  have h6 : w / 2 ^ 16 % 1024 = 0 := by omega
  exact ⟨h1, fun hwf => by simp only [decodeRaw, decFence, h2, h3, h4, h5, h6]; rfl⟩

theorem fenceAr (s : Scope) : Statement (.fenceAr s) := by
  refine core rfl rfl (fun w hw => ?_)
  have hv := hw
  have h1 : w < 2 ^ 32 := by omega
  have h2 : w / 2 ^ 26 % 64 = 0x17 := by omega
  have h3 : fieldBv 3 w 11 = s := fieldBv_eq s (by omega)
  have h4 : w / 2 ^ 14 % 4 = 2 := by omega
  have h5 : w % 2 ^ 11 = 0 := by omega
  have h6 : w / 2 ^ 16 % 1024 = 0 := by omega
  exact ⟨h1, fun hwf => by simp only [decodeRaw, decFence, h2, h3, h4, h5, h6]; rfl⟩

theorem fenceFull (s : Scope) : Statement (.fenceFull s) := by
  refine core rfl rfl (fun w hw => ?_)
  have hv := hw
  have h1 : w < 2 ^ 32 := by omega
  have h2 : w / 2 ^ 26 % 64 = 0x17 := by omega
  have h3 : fieldBv 3 w 11 = s := fieldBv_eq s (by omega)
  have h4 : w / 2 ^ 14 % 4 = 3 := by omega
  have h5 : w % 2 ^ 11 = 0 := by omega
  have h6 : w / 2 ^ 16 % 1024 = 0 := by omega
  exact ⟨h1, fun hwf => by simp only [decodeRaw, decFence, h2, h3, h4, h5, h6]; rfl⟩

theorem beq (a : Reg) (b : Reg) (off : BitVec 16) : Statement (.beq a b off) := by
  refine core rfl rfl (fun w hw => ?_)
  obtain ⟨h1, h2, h3, h4, -, h6⟩ := encI_fields 0x18 a b off.toNat (by omega) (by omega) hw
  have h9 : fieldBv 16 w 0 = off := fieldBv_eq off (by omega)
  exact ⟨h1, fun hwf => by simp only [decodeRaw, h2, h3, h4, h9]⟩

theorem bne (a : Reg) (b : Reg) (off : BitVec 16) : Statement (.bne a b off) := by
  refine core rfl rfl (fun w hw => ?_)
  obtain ⟨h1, h2, h3, h4, -, h6⟩ := encI_fields 0x19 a b off.toNat (by omega) (by omega) hw
  have h9 : fieldBv 16 w 0 = off := fieldBv_eq off (by omega)
  exact ⟨h1, fun hwf => by simp only [decodeRaw, h2, h3, h4, h9]⟩

theorem blt (a : Reg) (b : Reg) (off : BitVec 16) : Statement (.blt a b off) := by
  refine core rfl rfl (fun w hw => ?_)
  obtain ⟨h1, h2, h3, h4, -, h6⟩ := encI_fields 0x1a a b off.toNat (by omega) (by omega) hw
  have h9 : fieldBv 16 w 0 = off := fieldBv_eq off (by omega)
  exact ⟨h1, fun hwf => by simp only [decodeRaw, h2, h3, h4, h9]⟩

theorem bge (a : Reg) (b : Reg) (off : BitVec 16) : Statement (.bge a b off) := by
  refine core rfl rfl (fun w hw => ?_)
  obtain ⟨h1, h2, h3, h4, -, h6⟩ := encI_fields 0x1b a b off.toNat (by omega) (by omega) hw
  have h9 : fieldBv 16 w 0 = off := fieldBv_eq off (by omega)
  exact ⟨h1, fun hwf => by simp only [decodeRaw, h2, h3, h4, h9]⟩

theorem bltu (a : Reg) (b : Reg) (off : BitVec 16) : Statement (.bltu a b off) := by
  refine core rfl rfl (fun w hw => ?_)
  obtain ⟨h1, h2, h3, h4, -, h6⟩ := encI_fields 0x1c a b off.toNat (by omega) (by omega) hw
  have h9 : fieldBv 16 w 0 = off := fieldBv_eq off (by omega)
  exact ⟨h1, fun hwf => by simp only [decodeRaw, h2, h3, h4, h9]⟩

theorem bgeu (a : Reg) (b : Reg) (off : BitVec 16) : Statement (.bgeu a b off) := by
  refine core rfl rfl (fun w hw => ?_)
  obtain ⟨h1, h2, h3, h4, -, h6⟩ := encI_fields 0x1d a b off.toNat (by omega) (by omega) hw
  have h9 : fieldBv 16 w 0 = off := fieldBv_eq off (by omega)
  exact ⟨h1, fun hwf => by simp only [decodeRaw, h2, h3, h4, h9]⟩

theorem jal (d : Reg) (off : BitVec 21) : Statement (.jal d off) := by
  refine core rfl rfl (fun w hw => ?_)
  have hv := hw
  have h1 : w < 2 ^ 32 := by omega
  have h2 : w / 2 ^ 26 % 64 = 0x1E := by omega
  have h3 : rD w = d := fieldBv_eq d (by omega)
  have h4 : fieldBv 21 w 0 = off := fieldBv_eq off (by omega)
  exact ⟨h1, fun hwf => by simp only [decodeRaw, h2, h3, h4]⟩

theorem jalr (d : Reg) (a : Reg) (i : BitVec 16) : Statement (.jalr d a i) := by
  refine core rfl rfl (fun w hw => ?_)
  obtain ⟨h1, h2, h3, h4, -, h6⟩ := encI_fields 0x1f d a i.toNat (by omega) (by omega) hw
  have h9 : fieldBv 16 w 0 = i := fieldBv_eq i (by omega)
  exact ⟨h1, fun hwf => by simp only [decodeRaw, h2, h3, h4, h9]⟩

theorem stream (a : Reg) (n : BitVec 4) : Statement (.stream a n) := by
  refine core rfl rfl (fun w hw => ?_)
  have hv := hw
  unfold encC at hv
  simp only [BitVec.toNat_ofNat, BitVec.ofNat_eq_ofNat] at hv
  have h1 : w < 2 ^ 32 := by omega
  have h2 : w / 2 ^ 26 % 64 = 0x20 := by omega
  have h3 : rD w = 0 := fieldBv_eq (n := 5) 0 (by simp; omega)
  have h4 : rA w = a := fieldBv_eq a (by omega)
  have h5 : fieldBv 4 w 12 = n := fieldBv_eq n (by omega)
  have h6 : w % 2 ^ 12 = 0 := by omega
  exact ⟨h1, fun hwf => by simp only [decodeRaw, decEngine, h2, h3, h4, h5, h6]; rfl⟩

theorem gather (a : Reg) : Statement (.gather a) := by
  refine core rfl rfl (fun w hw => ?_)
  have hv := hw
  unfold encC at hv
  simp only [BitVec.toNat_ofNat, BitVec.ofNat_eq_ofNat] at hv
  have h1 : w < 2 ^ 32 := by omega
  have h2 : w / 2 ^ 26 % 64 = 0x21 := by omega
  have h3 : rD w = 0 := fieldBv_eq (n := 5) 0 (by simp; omega)
  have h4 : rA w = a := fieldBv_eq a (by omega)
  have h5 : fieldBv 4 w 12 = 0 := fieldBv_eq (n := 4) 0 (by simp; omega)
  have h6 : w % 2 ^ 12 = 0 := by omega
  exact ⟨h1, fun hwf => by simp only [decodeRaw, decEngine, h2, h3, h4, h5, h6]; rfl⟩

theorem copyMem (a : Reg) : Statement (.copyMem a) := by
  refine core rfl rfl (fun w hw => ?_)
  have hv := hw
  unfold encC at hv
  simp only [BitVec.toNat_ofNat, BitVec.ofNat_eq_ofNat] at hv
  have h1 : w < 2 ^ 32 := by omega
  have h2 : w / 2 ^ 26 % 64 = 0x22 := by omega
  have h3 : rD w = 0 := fieldBv_eq (n := 5) 0 (by simp; omega)
  have h4 : rA w = a := fieldBv_eq a (by omega)
  have h5 : fieldBv 4 w 12 = 0 := fieldBv_eq (n := 4) 0 (by simp; omega)
  have h6 : w % 2 ^ 12 = 0 := by omega
  exact ⟨h1, fun hwf => by simp only [decodeRaw, decEngine, h2, h3, h4, h5, h6]; rfl⟩

theorem copyMc (a : Reg) : Statement (.copyMc a) := by
  refine core rfl rfl (fun w hw => ?_)
  have hv := hw
  unfold encC at hv
  simp only [BitVec.toNat_ofNat, BitVec.ofNat_eq_ofNat] at hv
  have h1 : w < 2 ^ 32 := by omega
  have h2 : w / 2 ^ 26 % 64 = 0x22 := by omega
  have h3 : rD w = 0 := fieldBv_eq (n := 5) 0 (by simp; omega)
  have h4 : rA w = a := fieldBv_eq a (by omega)
  have h5 : fieldBv 4 w 12 = 1 := fieldBv_eq (n := 4) 1 (by simp; omega)
  have h6 : w % 2 ^ 12 = 0 := by omega
  exact ⟨h1, fun hwf => by simp only [decodeRaw, decEngine, h2, h3, h4, h5, h6]; rfl⟩

theorem wait (l : BitVec 6) (s : BitVec 6) (c : BitVec 6) (t : BitVec 6) : Statement (.wait l s c t) := by
  refine core rfl rfl (fun w hw => ?_)
  have hv := hw
  have h1 : w < 2 ^ 32 := by omega
  have h2 : w / 2 ^ 26 % 64 = 0x23 := by omega
  have h3 : fieldBv 6 w 18 = l := fieldBv_eq l (by omega)
  have h4 : fieldBv 6 w 12 = s := fieldBv_eq s (by omega)
  have h5 : fieldBv 6 w 6 = c := fieldBv_eq c (by omega)
  have h6 : fieldBv 6 w 0 = t := fieldBv_eq t (by omega)
  have h7 : w / 2 ^ 24 % 4 = 0 := by omega
  exact ⟨h1, fun hwf => by simp only [decodeRaw, decEngine, h2, h3, h4, h5, h6, h7]; rfl⟩

theorem mark (s : Reg) (a : Reg) (k : BitVec 4) (i : BitVec 12) : Statement (.mark s a k i) := by
  refine core rfl rfl (fun w hw => ?_)
  have hv := hw
  unfold encC at hv
  have h1 : w < 2 ^ 32 := by omega
  have h2 : w / 2 ^ 26 % 64 = 0x24 := by omega
  have h3 : rD w = s := fieldBv_eq s (by omega)
  have h4 : rA w = a := fieldBv_eq a (by omega)
  have h5 : fieldBv 4 w 12 = k := fieldBv_eq k (by omega)
  have h6 : fieldBv 12 w 0 = i := fieldBv_eq i (by omega)
  refine ⟨h1, fun hwf => ?_⟩
  have hk : k ≠ 0 := by intro e; subst e; simp [Instr.wf, markKindOk] at hwf
  have h7 : ¬ w / 2 ^ 12 % 16 = 0 := by
    intro e; apply hk; apply BitVec.eq_of_toNat_eq; simp; omega
  simp only [decodeRaw, decEngine, decMark, h2, h3, h4, h5, h6, h7]; rfl

theorem markEor (s : Reg) (a : Reg) (l : BitVec 3) : Statement (.markEor s a l) := by
  refine core rfl rfl (fun w hw => ?_)
  have hv := hw
  unfold encC at hv
  simp only [BitVec.toNat_ofNat, BitVec.ofNat_eq_ofNat] at hv
  have h1 : w < 2 ^ 32 := by omega
  have h2 : w / 2 ^ 26 % 64 = 0x24 := by omega
  have h3 : rD w = s := fieldBv_eq s (by omega)
  have h4 : rA w = a := fieldBv_eq a (by omega)
  have h5 : fieldBv 4 w 12 = 0 := fieldBv_eq (n := 4) 0 (by simp; omega)
  have h6 : fieldBv 3 w 0 = l := fieldBv_eq l (by omega)
  have h7 : w / 2 ^ 12 % 16 = 0 := by simp at *; omega
  have h8 : w / 2 ^ 3 % 512 = 0 := by simp at *; omega
  exact ⟨h1, fun hwf => by simp only [decodeRaw, decEngine, decMark, h2, h3, h4, h5, h6, h7, h8]; rfl⟩

theorem bar (c : Reg) (a : Reg) (n : BitVec 4) (m : BitVec 2) (l : BitVec 3) : Statement (.bar c a n m l) := by
  refine core rfl rfl (fun w hw => ?_)
  have hv := hw
  unfold encC at hv
  have h1 : w < 2 ^ 32 := by omega
  have h2 : w / 2 ^ 26 % 64 = 0x25 := by omega
  have h3 : rD w = c := fieldBv_eq c (by omega)
  have h4 : rA w = a := fieldBv_eq a (by omega)
  have h5 : fieldBv 4 w 12 = n := fieldBv_eq n (by omega)
  have h6 : fieldBv 2 w 3 = m := fieldBv_eq m (by omega)
  have h7 : fieldBv 3 w 0 = l := fieldBv_eq l (by omega)
  have h8 : w / 2 ^ 5 % 128 = 0 := by omega
  exact ⟨h1, fun hwf => by simp only [decodeRaw, decEngine, h2, h3, h4, h5, h6, h7, h8]; rfl⟩

theorem cfgreq (d : Reg) (r : BitVec 3) : Statement (.cfgreq d r) := by
  refine core rfl rfl (fun w hw => ?_)
  have hv := hw
  unfold encC at hv
  simp only [BitVec.toNat_ofNat, BitVec.ofNat_eq_ofNat] at hv
  have h1 : w < 2 ^ 32 := by omega
  have h2 : w / 2 ^ 26 % 64 = 0x26 := by omega
  have h3 : rD w = d := fieldBv_eq d (by omega)
  have h4 : rA w = 0 := fieldBv_eq (n := 5) 0 (by simp; omega)
  have h5 : fieldBv 4 w 12 = 0 := fieldBv_eq (n := 4) 0 (by simp; omega)
  have h6 : fieldBv 3 w 0 = r := fieldBv_eq r (by omega)
  have h7 : w / 2 ^ 3 % 512 = 0 := by omega
  exact ⟨h1, fun hwf => by simp only [decodeRaw, decEngine, h2, h3, h4, h5, h6, h7]; rfl⟩

theorem sprint (d : Reg) (a : Reg) (c : BitVec 4) (retry : Bool) (x : BitVec 2) (id : BitVec 8) : Statement (.sprint d a c retry x id) := by
  refine core rfl rfl (fun w hw => ?_)
  have := encBool_lt retry
  have hv := hw
  unfold encC at hv
  have h1 : w < 2 ^ 32 := by omega
  have h2 : w / 2 ^ 26 % 64 = 0x27 := by omega
  have h3 : rD w = d := fieldBv_eq d (by omega)
  have h4 : rA w = a := fieldBv_eq a (by omega)
  have h5 : fieldBv 4 w 12 = c := fieldBv_eq c (by omega)
  have h6 : bitOf w 11 = false := bitOf_eq false (by have z : encBool false = 0 := rfl; omega)
  have h7 : bitOf w 10 = retry := bitOf_eq retry (by omega)
  have h8 : fieldBv 2 w 8 = x := fieldBv_eq x (by omega)
  have h9 : fieldBv 8 w 0 = id := fieldBv_eq id (by omega)
  exact ⟨h1, fun hwf => by simp only [decodeRaw, decEngine, decSprint, h2, h3, h4, h5, h6, h7, h8, h9]; rfl⟩

theorem sprintLsn (d : Reg) (c : BitVec 4) (id : BitVec 8) : Statement (.sprintLsn d c id) := by
  refine core rfl rfl (fun w hw => ?_)
  have hv := hw
  unfold encC at hv
  simp only [BitVec.toNat_ofNat, BitVec.ofNat_eq_ofNat] at hv
  have h1 : w < 2 ^ 32 := by omega
  have h2 : w / 2 ^ 26 % 64 = 0x27 := by omega
  have h3 : rD w = d := fieldBv_eq d (by omega)
  have h4 : rA w = 0 := fieldBv_eq (n := 5) 0 (by simp; omega)
  have h5 : fieldBv 4 w 12 = c := fieldBv_eq c (by omega)
  have h6 : bitOf w 11 = true := bitOf_eq true (by have z : encBool true = 1 := rfl; omega)
  have h7 : w / 2 ^ 16 % 32 = 0 := by omega
  have h8 : w / 2 ^ 8 % 8 = 0 := by omega
  have h9 : fieldBv 8 w 0 = id := fieldBv_eq id (by omega)
  exact ⟨h1, fun hwf => by simp only [decodeRaw, decEngine, decSprint, h2, h3, h4, h5, h6, h7, h8, h9]; rfl⟩

theorem send (s : Reg) (a : Reg) (n : BitVec 4) (c : BitVec 4) : Statement (.send s a n c) := by
  refine core rfl rfl (fun w hw => ?_)
  have hv := hw
  unfold encC at hv
  have h1 : w < 2 ^ 32 := by omega
  have h2 : w / 2 ^ 26 % 64 = 0x28 := by omega
  have h3 : rD w = s := fieldBv_eq s (by omega)
  have h4 : rA w = a := fieldBv_eq a (by omega)
  have h5 : fieldBv 4 w 12 = n := fieldBv_eq n (by omega)
  have h6 : fieldBv 4 w 0 = c := fieldBv_eq c (by omega)
  have h7 : w / 2 ^ 4 % 256 = 0 := by omega
  exact ⟨h1, fun hwf => by simp only [decodeRaw, decEngine, h2, h3, h4, h5, h6, h7]; rfl⟩

theorem cmask (n : BitVec 4) (on : Bool) (c : BitVec 4) : Statement (.cmask n on c) := by
  refine core rfl rfl (fun w hw => ?_)
  have := encBool_lt on
  have hv := hw
  unfold encC at hv
  simp only [BitVec.toNat_ofNat, BitVec.ofNat_eq_ofNat] at hv
  have h1 : w < 2 ^ 32 := by omega
  have h2 : w / 2 ^ 26 % 64 = 0x29 := by omega
  have h3 : rD w = 0 := fieldBv_eq (n := 5) 0 (by simp; omega)
  have h4 : rA w = 0 := fieldBv_eq (n := 5) 0 (by simp; omega)
  have h5 : fieldBv 4 w 12 = n := fieldBv_eq n (by omega)
  have h6 : fieldBv 4 w 0 = c := fieldBv_eq c (by omega)
  have h7 : w / 2 ^ 5 % 128 = 0 := by omega
  have h8 : bitOf w 4 = on := bitOf_eq on (by omega)
  exact ⟨h1, fun hwf => by simp only [decodeRaw, decEngine, h2, h3, h4, h5, h6, h7, h8]; rfl⟩

theorem tstamp (d : Reg) : Statement (.tstamp d) := by
  refine core rfl rfl (fun w hw => ?_)
  have hv := hw
  unfold encC at hv
  simp only [BitVec.toNat_ofNat, BitVec.ofNat_eq_ofNat] at hv
  have h1 : w < 2 ^ 32 := by omega
  have h2 : w / 2 ^ 26 % 64 = 0x2A := by omega
  have h3 : rD w = d := fieldBv_eq d (by omega)
  have h4 : rA w = 0 := fieldBv_eq (n := 5) 0 (by simp; omega)
  have h5 : fieldBv 4 w 12 = 0 := fieldBv_eq (n := 4) 0 (by simp; omega)
  have h6 : w % 2 ^ 12 = 0 := by omega
  exact ⟨h1, fun hwf => by simp only [decodeRaw, decEngine, h2, h3, h4, h5, h6]; rfl⟩

theorem ckpt (a : Reg) (k : BitVec 2) : Statement (.ckpt a k) := by
  refine core rfl rfl (fun w hw => ?_)
  have hv := hw
  unfold encC at hv
  simp only [BitVec.toNat_ofNat, BitVec.ofNat_eq_ofNat] at hv
  have h1 : w < 2 ^ 32 := by omega
  have h2 : w / 2 ^ 26 % 64 = 0x2B := by omega
  have h3 : rD w = 0 := fieldBv_eq (n := 5) 0 (by simp; omega)
  have h4 : rA w = a := fieldBv_eq a (by omega)
  have h5 : fieldBv 4 w 12 = 0 := fieldBv_eq (n := 4) 0 (by simp; omega)
  have h6 : fieldBv 2 w 0 = k := fieldBv_eq k (by omega)
  have h7 : w / 2 ^ 2 % 1024 = 0 := by omega
  exact ⟨h1, fun hwf => by simp only [decodeRaw, decEngine, h2, h3, h4, h5, h6, h7]; rfl⟩

theorem tinv (s : Reg) (a : Reg) : Statement (.tinv s a) := by
  refine core rfl rfl (fun w hw => ?_)
  have hv := hw
  unfold encC at hv
  simp only [BitVec.toNat_ofNat, BitVec.ofNat_eq_ofNat] at hv
  have h1 : w < 2 ^ 32 := by omega
  have h2 : w / 2 ^ 26 % 64 = 0x2C := by omega
  have h3 : rD w = s := fieldBv_eq s (by omega)
  have h4 : rA w = a := fieldBv_eq a (by omega)
  have h5 : fieldBv 4 w 12 = 0 := fieldBv_eq (n := 4) 0 (by simp; omega)
  have h6 : bitOf w 0 = false := bitOf_eq false (by have z : encBool false = 0 := rfl; omega)
  have h7 : w / 2 ^ 1 % 2048 = 0 := by omega
  exact ⟨h1, fun hwf => by simp only [decodeRaw, decEngine, h2, h3, h4, h5, h6, h7]; rfl⟩

theorem tinvAll (s : Reg) (a : Reg) : Statement (.tinvAll s a) := by
  refine core rfl rfl (fun w hw => ?_)
  have hv := hw
  unfold encC at hv
  simp only [BitVec.toNat_ofNat, BitVec.ofNat_eq_ofNat] at hv
  have h1 : w < 2 ^ 32 := by omega
  have h2 : w / 2 ^ 26 % 64 = 0x2C := by omega
  have h3 : rD w = s := fieldBv_eq s (by omega)
  have h4 : rA w = a := fieldBv_eq a (by omega)
  have h5 : fieldBv 4 w 12 = 0 := fieldBv_eq (n := 4) 0 (by simp; omega)
  have h6 : bitOf w 0 = true := bitOf_eq true (by have z : encBool true = 1 := rfl; omega)
  have h7 : w / 2 ^ 1 % 2048 = 0 := by omega
  exact ⟨h1, fun hwf => by simp only [decodeRaw, decEngine, h2, h3, h4, h5, h6, h7]; rfl⟩

theorem sysc (i : BitVec 16) : Statement (.sysc i) := by
  refine core rfl rfl (fun w hw => ?_)
  have hv := hw
  unfold encX at hv
  simp only [BitVec.toNat_ofNat, BitVec.ofNat_eq_ofNat] at hv
  have h1 : w < 2 ^ 32 := by omega
  have h2 : w / 2 ^ 26 % 64 = 0x30 := by omega
  have h3 : rD w = 0 := fieldBv_eq (n := 5) 0 (by simp; omega)
  have h4 : rA w = 0 := fieldBv_eq (n := 5) 0 (by simp; omega)
  have h5 : fieldBv 16 w 0 = i := fieldBv_eq i (by omega)
  exact ⟨h1, fun hwf => by simp only [decodeRaw, decSystem, h2, h3, h4, h5]; rfl⟩

theorem trap (a : Reg) (i : BitVec 16) : Statement (.trap a i) := by
  refine core rfl rfl (fun w hw => ?_)
  obtain ⟨h1, h2, h3, h4, -, h6⟩ := encI_fields 0x31 0 a i.toNat (by omega) (by omega) hw
  have h9 : fieldBv 16 w 0 = i := fieldBv_eq i (by omega)
  exact ⟨h1, fun hwf => by simp only [decodeRaw, decSystem, h2, h3, h4, h9]; rfl⟩

theorem rte : Statement .rte := by
  refine core rfl rfl (fun w hw => ?_)
  have hv := hw
  unfold encX at hv
  simp only [BitVec.toNat_ofNat, BitVec.ofNat_eq_ofNat] at hv
  have h1 : w < 2 ^ 32 := by omega
  have h2 : w / 2 ^ 26 % 64 = 0x32 := by omega
  have h3 : rD w = 0 := fieldBv_eq (n := 5) 0 (by simp; omega)
  have h4 : rA w = 0 := fieldBv_eq (n := 5) 0 (by simp; omega)
  have h5 : fieldBv 16 w 0 = 0 := fieldBv_eq (n := 16) 0 (by simp; omega)
  exact ⟨h1, fun hwf => by simp only [decodeRaw, decSystem, h2, h3, h4, h5]; rfl⟩

theorem mfs (d : Reg) (r : BitVec 12) : Statement (.mfs d r) := by
  refine core rfl rfl (fun w hw => ?_)
  obtain ⟨h1, h2, h3, h4, -, h6⟩ := encI_fields 0x33 d 0 r.toNat (by omega) (by omega) hw
  have h9 : fieldBv 12 w 0 = r := fieldBv_eq r (by omega)
  have h10 : w / 2 ^ 12 % 16 = 0 := by omega
  exact ⟨h1, fun hwf => by simp only [decodeRaw, decSystem, h2, h3, h4, h9, h10]; rfl⟩

theorem mts (s : Reg) (r : BitVec 12) : Statement (.mts s r) := by
  refine core rfl rfl (fun w hw => ?_)
  obtain ⟨h1, h2, h3, h4, -, h6⟩ := encI_fields 0x34 s 0 r.toNat (by omega) (by omega) hw
  have h9 : fieldBv 12 w 0 = r := fieldBv_eq r (by omega)
  have h10 : w / 2 ^ 12 % 16 = 0 := by omega
  exact ⟨h1, fun hwf => by simp only [decodeRaw, decSystem, h2, h3, h4, h9, h10]; rfl⟩

theorem wfe (d : Reg) (m : BitVec 16) : Statement (.wfe d m) := by
  refine core rfl rfl (fun w hw => ?_)
  have hv := hw
  unfold encX at hv
  have h1 : w < 2 ^ 32 := by omega
  have h2 : w / 2 ^ 26 % 64 = 0x35 := by omega
  have h3 : rD w = d := fieldBv_eq d (by omega)
  have h4 : rA w = 0 := fieldBv_eq (n := 5) 0 (by simp; omega)
  have h5 : fieldBv 16 w 0 = m := fieldBv_eq m (by omega)
  exact ⟨h1, fun hwf => by simp only [decodeRaw, decSystem, h2, h3, h4, h5]; rfl⟩

theorem halt : Statement .halt := by
  refine core rfl rfl (fun w hw => ?_)
  have hv := hw
  unfold encX at hv
  simp only [BitVec.toNat_ofNat, BitVec.ofNat_eq_ofNat] at hv
  have h1 : w < 2 ^ 32 := by omega
  have h2 : w / 2 ^ 26 % 64 = 0x36 := by omega
  have h3 : rD w = 0 := fieldBv_eq (n := 5) 0 (by simp; omega)
  have h4 : rA w = 0 := fieldBv_eq (n := 5) 0 (by simp; omega)
  have h5 : fieldBv 16 w 0 = 0 := fieldBv_eq (n := 16) 0 (by simp; omega)
  exact ⟨h1, fun hwf => by simp only [decodeRaw, decSystem, h2, h3, h4, h5]; rfl⟩

theorem bkpt (i : BitVec 16) : Statement (.bkpt i) := by
  refine core rfl rfl (fun w hw => ?_)
  have hv := hw
  unfold encX at hv
  simp only [BitVec.toNat_ofNat, BitVec.ofNat_eq_ofNat] at hv
  have h1 : w < 2 ^ 32 := by omega
  have h2 : w / 2 ^ 26 % 64 = 0x37 := by omega
  have h3 : rD w = 0 := fieldBv_eq (n := 5) 0 (by simp; omega)
  have h4 : rA w = 0 := fieldBv_eq (n := 5) 0 (by simp; omega)
  have h5 : fieldBv 16 w 0 = i := fieldBv_eq i (by omega)
  exact ⟨h1, fun hwf => by simp only [decodeRaw, decSystem, h2, h3, h4, h5]; rfl⟩

theorem vadd (d : Dst) (a : Src) (b : Src) (x2 : Bool) (p : Bool) (m : Mode) : Statement (.vadd d a b x2 p m) := by
  refine micro rfl rfl (fun w hw => ?_)
  have := encDst_lt d
  have := encSrc_lt a
  have := encSrc_lt b
  have := encBool_lt x2
  have := encBool_lt p
  have := encMode_lt m
  obtain ⟨h1, h2, h3, h4, h5, h6, h7, h8, h9, h10⟩ := encVf_fields 0x1 d (encSrc a) (encSrc b) 0 x2 p m (by omega) (by omega) (by omega) (by omega) hw
  exact ⟨h1, fun hwf => by
    unfold decodeMicroRaw; rw [h2, h4]; show decVfp w d = _; unfold decVfp
    rw [h8, if_neg (show ¬ 1 < encBool x2 by omega), h10]; dsimp only; rw [h3]; simp only [h5, h6, h7, h9, decSrc_enc]
    cases x2 <;> rfl⟩

theorem vsub (d : Dst) (a : Src) (b : Src) (x2 : Bool) (p : Bool) (m : Mode) : Statement (.vsub d a b x2 p m) := by
  refine micro rfl rfl (fun w hw => ?_)
  have := encDst_lt d
  have := encSrc_lt a
  have := encSrc_lt b
  have := encBool_lt x2
  have := encBool_lt p
  have := encMode_lt m
  obtain ⟨h1, h2, h3, h4, h5, h6, h7, h8, h9, h10⟩ := encVf_fields 0x2 d (encSrc a) (encSrc b) 0 x2 p m (by omega) (by omega) (by omega) (by omega) hw
  exact ⟨h1, fun hwf => by
    unfold decodeMicroRaw; rw [h2, h4]; show decVfp w d = _; unfold decVfp
    rw [h8, if_neg (show ¬ 1 < encBool x2 by omega), h10]; dsimp only; rw [h3]; simp only [h5, h6, h7, h9, decSrc_enc]
    cases x2 <;> rfl⟩

theorem vmul (d : Dst) (a : Src) (b : Src) (x2 : Bool) (p : Bool) (m : Mode) : Statement (.vmul d a b x2 p m) := by
  refine micro rfl rfl (fun w hw => ?_)
  have := encDst_lt d
  have := encSrc_lt a
  have := encSrc_lt b
  have := encBool_lt x2
  have := encBool_lt p
  have := encMode_lt m
  obtain ⟨h1, h2, h3, h4, h5, h6, h7, h8, h9, h10⟩ := encVf_fields 0x3 d (encSrc a) (encSrc b) 0 x2 p m (by omega) (by omega) (by omega) (by omega) hw
  exact ⟨h1, fun hwf => by
    unfold decodeMicroRaw; rw [h2, h4]; show decVfp w d = _; unfold decVfp
    rw [h8, if_neg (show ¬ 1 < encBool x2 by omega), h10]; dsimp only; rw [h3]; simp only [h5, h6, h7, h9, decSrc_enc]
    cases x2 <;> rfl⟩

theorem vfma (d : Dst) (a : Src) (b : Src) (c : Src) (x2 : Bool) (p : Bool) (m : Mode) : Statement (.vfma d a b c x2 p m) := by
  refine micro rfl rfl (fun w hw => ?_)
  have := encDst_lt d
  have := encSrc_lt a
  have := encSrc_lt b
  have := encSrc_lt c
  have := encBool_lt x2
  have := encBool_lt p
  have := encMode_lt m
  obtain ⟨h1, h2, h3, h4, h5, h6, h7, h8, h9, h10⟩ := encVf_fields 0x4 d (encSrc a) (encSrc b) (encSrc c) x2 p m (by omega) (by omega) (by omega) (by omega) hw
  exact ⟨h1, fun hwf => by
    unfold decodeMicroRaw; rw [h2, h4]; show decVfp w d = _; unfold decVfp
    rw [h8, if_neg (show ¬ 1 < encBool x2 by omega), h10]; dsimp only; rw [h3]; simp only [h5, h6, h7, h9, decSrc_enc]
    cases x2 <;> rfl⟩

theorem vmin (d : Dst) (a : Src) (b : Src) (x2 : Bool) (p : Bool) (m : Mode) : Statement (.vmin d a b x2 p m) := by
  refine micro rfl rfl (fun w hw => ?_)
  have := encDst_lt d
  have := encSrc_lt a
  have := encSrc_lt b
  have := encBool_lt x2
  have := encBool_lt p
  have := encMode_lt m
  obtain ⟨h1, h2, h3, h4, h5, h6, h7, h8, h9, h10⟩ := encVf_fields 0x5 d (encSrc a) (encSrc b) 0 x2 p m (by omega) (by omega) (by omega) (by omega) hw
  exact ⟨h1, fun hwf => by
    unfold decodeMicroRaw; rw [h2, h4]; show decVfp w d = _; unfold decVfp
    rw [h8, if_neg (show ¬ 1 < encBool x2 by omega), h10]; dsimp only; rw [h3]; simp only [h5, h6, h7, h9, decSrc_enc]
    cases x2 <;> rfl⟩

theorem vmax (d : Dst) (a : Src) (b : Src) (x2 : Bool) (p : Bool) (m : Mode) : Statement (.vmax d a b x2 p m) := by
  refine micro rfl rfl (fun w hw => ?_)
  have := encDst_lt d
  have := encSrc_lt a
  have := encSrc_lt b
  have := encBool_lt x2
  have := encBool_lt p
  have := encMode_lt m
  obtain ⟨h1, h2, h3, h4, h5, h6, h7, h8, h9, h10⟩ := encVf_fields 0x6 d (encSrc a) (encSrc b) 0 x2 p m (by omega) (by omega) (by omega) (by omega) hw
  exact ⟨h1, fun hwf => by
    unfold decodeMicroRaw; rw [h2, h4]; show decVfp w d = _; unfold decVfp
    rw [h8, if_neg (show ¬ 1 < encBool x2 by omega), h10]; dsimp only; rw [h3]; simp only [h5, h6, h7, h9, decSrc_enc]
    cases x2 <;> rfl⟩

theorem vabs (d : Dst) (a : Src) (x2 : Bool) (p : Bool) (m : Mode) : Statement (.vabs d a x2 p m) := by
  refine micro rfl rfl (fun w hw => ?_)
  have := encDst_lt d
  have := encSrc_lt a
  have := encBool_lt x2
  have := encBool_lt p
  have := encMode_lt m
  obtain ⟨h1, h2, h3, h4, h5, h6, h7, h8, h9, h10⟩ := encVf_fields 0x7 d (encSrc a) 0 0 x2 p m (by omega) (by omega) (by omega) (by omega) hw
  exact ⟨h1, fun hwf => by
    unfold decodeMicroRaw; rw [h2, h4]; show decVfp w d = _; unfold decVfp
    rw [h8, if_neg (show ¬ 1 < encBool x2 by omega), h10]; dsimp only; rw [h3]; simp only [h5, h6, h7, h9, decSrc_enc]
    cases x2 <;> rfl⟩

theorem vneg (d : Dst) (a : Src) (x2 : Bool) (p : Bool) (m : Mode) : Statement (.vneg d a x2 p m) := by
  refine micro rfl rfl (fun w hw => ?_)
  have := encDst_lt d
  have := encSrc_lt a
  have := encBool_lt x2
  have := encBool_lt p
  have := encMode_lt m
  obtain ⟨h1, h2, h3, h4, h5, h6, h7, h8, h9, h10⟩ := encVf_fields 0x8 d (encSrc a) 0 0 x2 p m (by omega) (by omega) (by omega) (by omega) hw
  exact ⟨h1, fun hwf => by
    unfold decodeMicroRaw; rw [h2, h4]; show decVfp w d = _; unfold decVfp
    rw [h8, if_neg (show ¬ 1 < encBool x2 by omega), h10]; dsimp only; rw [h3]; simp only [h5, h6, h7, h9, decSrc_enc]
    cases x2 <;> rfl⟩

theorem vrcp (d : Dst) (a : Src) (x2 : Bool) (p : Bool) (m : Mode) : Statement (.vrcp d a x2 p m) := by
  refine micro rfl rfl (fun w hw => ?_)
  have := encDst_lt d
  have := encSrc_lt a
  have := encBool_lt x2
  have := encBool_lt p
  have := encMode_lt m
  obtain ⟨h1, h2, h3, h4, h5, h6, h7, h8, h9, h10⟩ := encVf_fields 0x9 d (encSrc a) 0 0 x2 p m (by omega) (by omega) (by omega) (by omega) hw
  exact ⟨h1, fun hwf => by
    unfold decodeMicroRaw; rw [h2, h4]; show decVfp w d = _; unfold decVfp
    rw [h8, if_neg (show ¬ 1 < encBool x2 by omega), h10]; dsimp only; rw [h3]; simp only [h5, h6, h7, h9, decSrc_enc]
    cases x2 <;> rfl⟩

theorem vrsq (d : Dst) (a : Src) (x2 : Bool) (p : Bool) (m : Mode) : Statement (.vrsq d a x2 p m) := by
  refine micro rfl rfl (fun w hw => ?_)
  have := encDst_lt d
  have := encSrc_lt a
  have := encBool_lt x2
  have := encBool_lt p
  have := encMode_lt m
  obtain ⟨h1, h2, h3, h4, h5, h6, h7, h8, h9, h10⟩ := encVf_fields 0xa d (encSrc a) 0 0 x2 p m (by omega) (by omega) (by omega) (by omega) hw
  exact ⟨h1, fun hwf => by
    unfold decodeMicroRaw; rw [h2, h4]; show decVfp w d = _; unfold decVfp
    rw [h8, if_neg (show ¬ 1 < encBool x2 by omega), h10]; dsimp only; rw [h3]; simp only [h5, h6, h7, h9, decSrc_enc]
    cases x2 <;> rfl⟩

theorem vsqrt (d : Dst) (a : Src) (x2 : Bool) (p : Bool) (m : Mode) : Statement (.vsqrt d a x2 p m) := by
  refine micro rfl rfl (fun w hw => ?_)
  have := encDst_lt d
  have := encSrc_lt a
  have := encBool_lt x2
  have := encBool_lt p
  have := encMode_lt m
  obtain ⟨h1, h2, h3, h4, h5, h6, h7, h8, h9, h10⟩ := encVf_fields 0xb d (encSrc a) 0 0 x2 p m (by omega) (by omega) (by omega) (by omega) hw
  exact ⟨h1, fun hwf => by
    unfold decodeMicroRaw; rw [h2, h4]; show decVfp w d = _; unfold decVfp
    rw [h8, if_neg (show ¬ 1 < encBool x2 by omega), h10]; dsimp only; rw [h3]; simp only [h5, h6, h7, h9, decSrc_enc]
    cases x2 <;> rfl⟩

theorem vexp2 (d : Dst) (a : Src) (x2 : Bool) (p : Bool) (m : Mode) : Statement (.vexp2 d a x2 p m) := by
  refine micro rfl rfl (fun w hw => ?_)
  have := encDst_lt d
  have := encSrc_lt a
  have := encBool_lt x2
  have := encBool_lt p
  have := encMode_lt m
  obtain ⟨h1, h2, h3, h4, h5, h6, h7, h8, h9, h10⟩ := encVf_fields 0xc d (encSrc a) 0 0 x2 p m (by omega) (by omega) (by omega) (by omega) hw
  exact ⟨h1, fun hwf => by
    unfold decodeMicroRaw; rw [h2, h4]; show decVfp w d = _; unfold decVfp
    rw [h8, if_neg (show ¬ 1 < encBool x2 by omega), h10]; dsimp only; rw [h3]; simp only [h5, h6, h7, h9, decSrc_enc]
    cases x2 <;> rfl⟩

theorem vlog2 (d : Dst) (a : Src) (x2 : Bool) (p : Bool) (m : Mode) : Statement (.vlog2 d a x2 p m) := by
  refine micro rfl rfl (fun w hw => ?_)
  have := encDst_lt d
  have := encSrc_lt a
  have := encBool_lt x2
  have := encBool_lt p
  have := encMode_lt m
  obtain ⟨h1, h2, h3, h4, h5, h6, h7, h8, h9, h10⟩ := encVf_fields 0xd d (encSrc a) 0 0 x2 p m (by omega) (by omega) (by omega) (by omega) hw
  exact ⟨h1, fun hwf => by
    unfold decodeMicroRaw; rw [h2, h4]; show decVfp w d = _; unfold decVfp
    rw [h8, if_neg (show ¬ 1 < encBool x2 by omega), h10]; dsimp only; rw [h3]; simp only [h5, h6, h7, h9, decSrc_enc]
    cases x2 <;> rfl⟩

theorem vrint (d : Dst) (a : Src) (x2 : Bool) (p : Bool) (m : Mode) : Statement (.vrint d a x2 p m) := by
  refine micro rfl rfl (fun w hw => ?_)
  have := encDst_lt d
  have := encSrc_lt a
  have := encBool_lt x2
  have := encBool_lt p
  have := encMode_lt m
  obtain ⟨h1, h2, h3, h4, h5, h6, h7, h8, h9, h10⟩ := encVf_fields 0xe d (encSrc a) 0 0 x2 p m (by omega) (by omega) (by omega) (by omega) hw
  exact ⟨h1, fun hwf => by
    unfold decodeMicroRaw; rw [h2, h4]; show decVfp w d = _; unfold decVfp
    rw [h8, if_neg (show ¬ 1 < encBool x2 by omega), h10]; dsimp only; rw [h3]; simp only [h5, h6, h7, h9, decSrc_enc]
    cases x2 <;> rfl⟩

theorem viadd (d : Dst) (a : Src) (b : Src) (p : Bool) (sat : Bool) : Statement (.viadd d a b p sat) := by
  refine micro rfl rfl (fun w hw => ?_)
  have := encDst_lt d
  have := encSrc_lt a
  have := encSrc_lt b
  have := encBool_lt p
  have := encBool_lt sat
  obtain ⟨h1, h2, h3, h4, h5, h6, h7, h8, h9, h10, h11⟩ := encVi_fields 0x20 d (encSrc a) (encSrc b) p sat (by omega) (by omega) (by omega) hw
  exact ⟨h1, fun hwf => by
    unfold decodeMicroRaw; rw [h2, h4]; show decVint w d = _; unfold decVint
    rw [h7, h8, h11, if_neg (by decide)]; rw [h3]; simp only [h5, h6, h9, h10, decSrc_enc]⟩

theorem visub (d : Dst) (a : Src) (b : Src) (p : Bool) (sat : Bool) : Statement (.visub d a b p sat) := by
  refine micro rfl rfl (fun w hw => ?_)
  have := encDst_lt d
  have := encSrc_lt a
  have := encSrc_lt b
  have := encBool_lt p
  have := encBool_lt sat
  obtain ⟨h1, h2, h3, h4, h5, h6, h7, h8, h9, h10, h11⟩ := encVi_fields 0x21 d (encSrc a) (encSrc b) p sat (by omega) (by omega) (by omega) hw
  exact ⟨h1, fun hwf => by
    unfold decodeMicroRaw; rw [h2, h4]; show decVint w d = _; unfold decVint
    rw [h7, h8, h11, if_neg (by decide)]; rw [h3]; simp only [h5, h6, h9, h10, decSrc_enc]⟩

theorem vimul (d : Dst) (a : Src) (b : Src) (p : Bool) (sat : Bool) : Statement (.vimul d a b p sat) := by
  refine micro rfl rfl (fun w hw => ?_)
  have := encDst_lt d
  have := encSrc_lt a
  have := encSrc_lt b
  have := encBool_lt p
  have := encBool_lt sat
  obtain ⟨h1, h2, h3, h4, h5, h6, h7, h8, h9, h10, h11⟩ := encVi_fields 0x22 d (encSrc a) (encSrc b) p sat (by omega) (by omega) (by omega) hw
  exact ⟨h1, fun hwf => by
    unfold decodeMicroRaw; rw [h2, h4]; show decVint w d = _; unfold decVint
    rw [h7, h8, h11, if_neg (by decide)]; rw [h3]; simp only [h5, h6, h9, h10, decSrc_enc]⟩

theorem vimulh (d : Dst) (a : Src) (b : Src) (p : Bool) : Statement (.vimulh d a b p) := by
  refine micro rfl rfl (fun w hw => ?_)
  have := encDst_lt d
  have := encSrc_lt a
  have := encSrc_lt b
  have := encBool_lt p
  obtain ⟨h1, h2, h3, h4, h5, h6, h7, h8, h9, h10, h11⟩ := encVi_fields 0x23 d (encSrc a) (encSrc b) p false (by omega) (by omega) (by omega) hw
  exact ⟨h1, fun hwf => by
    unfold decodeMicroRaw; rw [h2, h4]; show decVint w d = _; unfold decVint
    rw [h7, h8, h11, if_neg (by decide)]; rw [h3]; simp only [h5, h6, h9, h10, decSrc_enc]; rfl⟩

theorem vand (d : Dst) (a : Src) (b : Src) (p : Bool) : Statement (.vand d a b p) := by
  refine micro rfl rfl (fun w hw => ?_)
  have := encDst_lt d
  have := encSrc_lt a
  have := encSrc_lt b
  have := encBool_lt p
  obtain ⟨h1, h2, h3, h4, h5, h6, h7, h8, h9, h10, h11⟩ := encVi_fields 0x24 d (encSrc a) (encSrc b) p false (by omega) (by omega) (by omega) hw
  exact ⟨h1, fun hwf => by
    unfold decodeMicroRaw; rw [h2, h4]; show decVint w d = _; unfold decVint
    rw [h7, h8, h11, if_neg (by decide)]; rw [h3]; simp only [h5, h6, h9, h10, decSrc_enc]; rfl⟩

theorem vor (d : Dst) (a : Src) (b : Src) (p : Bool) : Statement (.vor d a b p) := by
  refine micro rfl rfl (fun w hw => ?_)
  have := encDst_lt d
  have := encSrc_lt a
  have := encSrc_lt b
  have := encBool_lt p
  obtain ⟨h1, h2, h3, h4, h5, h6, h7, h8, h9, h10, h11⟩ := encVi_fields 0x25 d (encSrc a) (encSrc b) p false (by omega) (by omega) (by omega) hw
  exact ⟨h1, fun hwf => by
    unfold decodeMicroRaw; rw [h2, h4]; show decVint w d = _; unfold decVint
    rw [h7, h8, h11, if_neg (by decide)]; rw [h3]; simp only [h5, h6, h9, h10, decSrc_enc]; rfl⟩

theorem vxor (d : Dst) (a : Src) (b : Src) (p : Bool) : Statement (.vxor d a b p) := by
  refine micro rfl rfl (fun w hw => ?_)
  have := encDst_lt d
  have := encSrc_lt a
  have := encSrc_lt b
  have := encBool_lt p
  obtain ⟨h1, h2, h3, h4, h5, h6, h7, h8, h9, h10, h11⟩ := encVi_fields 0x26 d (encSrc a) (encSrc b) p false (by omega) (by omega) (by omega) hw
  exact ⟨h1, fun hwf => by
    unfold decodeMicroRaw; rw [h2, h4]; show decVint w d = _; unfold decVint
    rw [h7, h8, h11, if_neg (by decide)]; rw [h3]; simp only [h5, h6, h9, h10, decSrc_enc]; rfl⟩

theorem vshl (d : Dst) (a : Src) (b : Src) (p : Bool) : Statement (.vshl d a b p) := by
  refine micro rfl rfl (fun w hw => ?_)
  have := encDst_lt d
  have := encSrc_lt a
  have := encSrc_lt b
  have := encBool_lt p
  obtain ⟨h1, h2, h3, h4, h5, h6, h7, h8, h9, h10, h11⟩ := encVi_fields 0x27 d (encSrc a) (encSrc b) p false (by omega) (by omega) (by omega) hw
  exact ⟨h1, fun hwf => by
    unfold decodeMicroRaw; rw [h2, h4]; show decVint w d = _; unfold decVint
    rw [h7, h8, h11, if_neg (by decide)]; rw [h3]; simp only [h5, h6, h9, h10, decSrc_enc]; rfl⟩

theorem vshr (d : Dst) (a : Src) (b : Src) (p : Bool) : Statement (.vshr d a b p) := by
  refine micro rfl rfl (fun w hw => ?_)
  have := encDst_lt d
  have := encSrc_lt a
  have := encSrc_lt b
  have := encBool_lt p
  obtain ⟨h1, h2, h3, h4, h5, h6, h7, h8, h9, h10, h11⟩ := encVi_fields 0x28 d (encSrc a) (encSrc b) p false (by omega) (by omega) (by omega) hw
  exact ⟨h1, fun hwf => by
    unfold decodeMicroRaw; rw [h2, h4]; show decVint w d = _; unfold decVint
    rw [h7, h8, h11, if_neg (by decide)]; rw [h3]; simp only [h5, h6, h9, h10, decSrc_enc]; rfl⟩

theorem vsra (d : Dst) (a : Src) (b : Src) (p : Bool) : Statement (.vsra d a b p) := by
  refine micro rfl rfl (fun w hw => ?_)
  have := encDst_lt d
  have := encSrc_lt a
  have := encSrc_lt b
  have := encBool_lt p
  obtain ⟨h1, h2, h3, h4, h5, h6, h7, h8, h9, h10, h11⟩ := encVi_fields 0x29 d (encSrc a) (encSrc b) p false (by omega) (by omega) (by omega) hw
  exact ⟨h1, fun hwf => by
    unfold decodeMicroRaw; rw [h2, h4]; show decVint w d = _; unfold decVint
    rw [h7, h8, h11, if_neg (by decide)]; rw [h3]; simp only [h5, h6, h9, h10, decSrc_enc]; rfl⟩

theorem vimin (d : Dst) (a : Src) (b : Src) (p : Bool) : Statement (.vimin d a b p) := by
  refine micro rfl rfl (fun w hw => ?_)
  have := encDst_lt d
  have := encSrc_lt a
  have := encSrc_lt b
  have := encBool_lt p
  obtain ⟨h1, h2, h3, h4, h5, h6, h7, h8, h9, h10, h11⟩ := encVi_fields 0x2a d (encSrc a) (encSrc b) p false (by omega) (by omega) (by omega) hw
  exact ⟨h1, fun hwf => by
    unfold decodeMicroRaw; rw [h2, h4]; show decVint w d = _; unfold decVint
    rw [h7, h8, h11, if_neg (by decide)]; rw [h3]; simp only [h5, h6, h9, h10, decSrc_enc]; rfl⟩

theorem vimax (d : Dst) (a : Src) (b : Src) (p : Bool) : Statement (.vimax d a b p) := by
  refine micro rfl rfl (fun w hw => ?_)
  have := encDst_lt d
  have := encSrc_lt a
  have := encSrc_lt b
  have := encBool_lt p
  obtain ⟨h1, h2, h3, h4, h5, h6, h7, h8, h9, h10, h11⟩ := encVi_fields 0x2b d (encSrc a) (encSrc b) p false (by omega) (by omega) (by omega) hw
  exact ⟨h1, fun hwf => by
    unfold decodeMicroRaw; rw [h2, h4]; show decVint w d = _; unfold decVint
    rw [h7, h8, h11, if_neg (by decide)]; rw [h3]; simp only [h5, h6, h9, h10, decSrc_enc]; rfl⟩

theorem vclz (d : Dst) (a : Src) (p : Bool) : Statement (.vclz d a p) := by
  refine micro rfl rfl (fun w hw => ?_)
  have := encDst_lt d
  have := encSrc_lt a
  have := encBool_lt p
  obtain ⟨h1, h2, h3, h4, h5, h6, h7, h8, h9, h10, h11⟩ := encVi_fields 0x2c d (encSrc a) 0 p false (by omega) (by omega) (by omega) hw
  exact ⟨h1, fun hwf => by
    unfold decodeMicroRaw; rw [h2, h4]; show decVint w d = _; unfold decVint
    rw [h7, h8, h11, if_neg (by decide)]; rw [h3]; simp only [h5, h6, h9, h10, decSrc_enc]; rfl⟩

theorem vpopc (d : Dst) (a : Src) (p : Bool) : Statement (.vpopc d a p) := by
  refine micro rfl rfl (fun w hw => ?_)
  have := encDst_lt d
  have := encSrc_lt a
  have := encBool_lt p
  obtain ⟨h1, h2, h3, h4, h5, h6, h7, h8, h9, h10, h11⟩ := encVi_fields 0x2d d (encSrc a) 0 p false (by omega) (by omega) (by omega) hw
  exact ⟨h1, fun hwf => by
    unfold decodeMicroRaw; rw [h2, h4]; show decVint w d = _; unfold decVint
    rw [h7, h8, h11, if_neg (by decide)]; rw [h3]; simp only [h5, h6, h9, h10, decSrc_enc]; rfl⟩

theorem vcmp (d : Dst) (a : Src) (b : Src) (t : CmpType) (c : BitVec 2) (p : Bool) : Statement (.vcmp d a b t c p) := by
  refine micro rfl rfl (fun w hw => ?_)
  have := encDst_lt d
  have := encSrc_lt a
  have := encSrc_lt b
  have := encCmpType_lt t
  have := encBool_lt p
  obtain ⟨h1, h2, h3, h4, h5, h6, h7, h8, h9, h10, h11⟩ := encU_fields 0x40 (encDst d) (encSrc a) (encSrc b) 0 (encCmpType t * 4 + c.toNat) (encBool p * 8)
    (by omega) (by omega) (by omega) (by omega) (by omega) (by omega) (by omega) hw
  have hd : decDst (mDst w) = some d := by rw [h4]; exact decDst_enc d
  have hp : bitOf w 3 = p := bitOf_eq p (by omega)
  have e8 : w % 8 = 0 := by omega
  have k1 : w / 2 ^ 6 % 4 = encCmpType t := by omega
  have k2 : fieldBv 2 w 4 = c := fieldBv_eq c (by omega)
  have h16 : w % 16 = (encBool p * 8) := h9
  exact ⟨h1, fun hwf => by
    simp only [decodeMicroRaw, decVmove, h2, h3, h5, h6, h7, hd, decSrc_enc, hp, e8, k1, k2, decCmpType_enc]; rfl⟩

theorem vsel (d : Dst) (a : Src) (b : Src) : Statement (.vsel d a b) := by
  refine micro rfl rfl (fun w hw => ?_)
  have := encDst_lt d
  have := encSrc_lt a
  have := encSrc_lt b
  obtain ⟨h1, h2, h3, h4, h5, h6, h7, h8, h9, h10, h11⟩ := encU_fields 0x41 (encDst d) (encSrc a) (encSrc b) 0 0 0
    (by omega) (by omega) (by omega) (by omega) (by omega) (by omega) (by omega) hw
  have hd : decDst (mDst w) = some d := by rw [h4]; exact decDst_enc d
  have e8 : w % 8 = 0 := by omega
  have h16 : w % 16 = 0 := h9
  exact ⟨h1, fun hwf => by
    simp only [decodeMicroRaw, decVmove, h2, h3, h5, h6, h7, h8, hd, decSrc_enc, h16]; rfl⟩

theorem vperm (d : Dst) (a : Src) (b : Src) (p : Bool) : Statement (.vperm d a b p) := by
  refine micro rfl rfl (fun w hw => ?_)
  have := encDst_lt d
  have := encSrc_lt a
  have := encSrc_lt b
  have := encBool_lt p
  obtain ⟨h1, h2, h3, h4, h5, h6, h7, h8, h9, h10, h11⟩ := encU_fields 0x42 (encDst d) (encSrc a) (encSrc b) 0 0 (encBool p * 8)
    (by omega) (by omega) (by omega) (by omega) (by omega) (by omega) (by omega) hw
  have hd : decDst (mDst w) = some d := by rw [h4]; exact decDst_enc d
  have hp : bitOf w 3 = p := bitOf_eq p (by omega)
  have e8 : w % 8 = 0 := by omega
  have h16 : w % 16 = (encBool p * 8) := h9
  exact ⟨h1, fun hwf => by
    simp only [decodeMicroRaw, decVmove, h2, h3, h5, h6, h7, h8, hd, decSrc_enc, hp, e8]; rfl⟩

theorem vbcast (d : Dst) (a : Src) (b : Src) (p : Bool) : Statement (.vbcast d a b p) := by
  refine micro rfl rfl (fun w hw => ?_)
  have := encDst_lt d
  have := encSrc_lt a
  have := encSrc_lt b
  have := encBool_lt p
  obtain ⟨h1, h2, h3, h4, h5, h6, h7, h8, h9, h10, h11⟩ := encU_fields 0x43 (encDst d) (encSrc a) (encSrc b) 0 0 (encBool p * 8)
    (by omega) (by omega) (by omega) (by omega) (by omega) (by omega) (by omega) hw
  have hd : decDst (mDst w) = some d := by rw [h4]; exact decDst_enc d
  have hp : bitOf w 3 = p := bitOf_eq p (by omega)
  have e8 : w % 8 = 0 := by omega
  have h16 : w % 16 = (encBool p * 8) := h9
  exact ⟨h1, fun hwf => by
    simp only [decodeMicroRaw, decVmove, h2, h3, h5, h6, h7, h8, hd, decSrc_enc, hp, e8]; rfl⟩

theorem vred (d : Dst) (a : Src) (f : RedOp) (p : Bool) (m : Mode) : Statement (.vred d a f p m) := by
  refine micro rfl rfl (fun w hw => ?_)
  have := encDst_lt d
  have := encSrc_lt a
  have := encRedOp_lt f
  have := encBool_lt p
  have := encMode_lt m
  obtain ⟨h1, h2, h3, h4, h5, h6, h7, h8, h9, h10, h11⟩ := encU_fields 0x44 (encDst d) (encSrc a) 0 0 (encRedOp f) (encBool p * 8 + encMode m)
    (by omega) (by omega) (by omega) (by omega) (by omega) (by omega) (by omega) hw
  have hd : decDst (mDst w) = some d := by rw [h4]; exact decDst_enc d
  have hp : bitOf w 3 = p := bitOf_eq p (by omega)
  have hm : decMode (w % 8) = some m := by rw [h10, show ((encBool p * 8 + encMode m)) % 8 = encMode m by omega]; exact decMode_enc m
  have h16 : w % 16 = (encBool p * 8 + encMode m) := h9
  exact ⟨h1, fun hwf => by
    simp only [decodeMicroRaw, decVmove, h2, h3, h5, h6, h7, h8, hd, decSrc_enc, hp, hm, decRedOp_enc]; rfl⟩

theorem vscan (d : Dst) (a : Src) (f : RedOp) (p : Bool) (m : Mode) : Statement (.vscan d a f p m) := by
  refine micro rfl rfl (fun w hw => ?_)
  have := encDst_lt d
  have := encSrc_lt a
  have := encRedOp_lt f
  have := encBool_lt p
  have := encMode_lt m
  obtain ⟨h1, h2, h3, h4, h5, h6, h7, h8, h9, h10, h11⟩ := encU_fields 0x45 (encDst d) (encSrc a) 0 0 (encRedOp f) (encBool p * 8 + encMode m)
    (by omega) (by omega) (by omega) (by omega) (by omega) (by omega) (by omega) hw
  have hd : decDst (mDst w) = some d := by rw [h4]; exact decDst_enc d
  have hp : bitOf w 3 = p := bitOf_eq p (by omega)
  have hm : decMode (w % 8) = some m := by rw [h10, show ((encBool p * 8 + encMode m)) % 8 = encMode m by omega]; exact decMode_enc m
  have h16 : w % 16 = (encBool p * 8 + encMode m) := h9
  exact ⟨h1, fun hwf => by
    simp only [decodeMicroRaw, decVmove, h2, h3, h5, h6, h7, h8, hd, decSrc_enc, hp, hm, decRedOp_enc]; rfl⟩

theorem vmov (d : Dst) (a : Src) (p : Bool) : Statement (.vmov d a p) := by
  refine micro rfl rfl (fun w hw => ?_)
  have := encDst_lt d
  have := encSrc_lt a
  have := encBool_lt p
  obtain ⟨h1, h2, h3, h4, h5, h6, h7, h8, h9, h10, h11⟩ := encU_fields 0x46 (encDst d) (encSrc a) 0 0 0 (encBool p * 8)
    (by omega) (by omega) (by omega) (by omega) (by omega) (by omega) (by omega) hw
  have hd : decDst (mDst w) = some d := by rw [h4]; exact decDst_enc d
  have hp : bitOf w 3 = p := bitOf_eq p (by omega)
  have e8 : w % 8 = 0 := by omega
  have h16 : w % 16 = (encBool p * 8) := h9
  exact ⟨h1, fun hwf => by
    simp only [decodeMicroRaw, decVmove, h2, h3, h5, h6, h7, h8, hd, decSrc_enc, hp, e8]; rfl⟩

theorem vidx (d : Dst) (p : Bool) : Statement (.vidx d p) := by
  refine micro rfl rfl (fun w hw => ?_)
  have := encDst_lt d
  have := encBool_lt p
  obtain ⟨h1, h2, h3, h4, h5, h6, h7, h8, h9, h10, h11⟩ := encU_fields 0x47 (encDst d) 0 0 0 0 (encBool p * 8)
    (by omega) (by omega) (by omega) (by omega) (by omega) (by omega) (by omega) hw
  have hd : decDst (mDst w) = some d := by rw [h4]; exact decDst_enc d
  have hp : bitOf w 3 = p := bitOf_eq p (by omega)
  have e8 : w % 8 = 0 := by omega
  have h16 : w % 16 = (encBool p * 8) := h9
  exact ⟨h1, fun hwf => by
    simp only [decodeMicroRaw, decVmove, h2, h3, h5, h6, h7, h8, hd, hp, e8]; rfl⟩

theorem vcvt (d : Dst) (a : Src) (src : Fmt) (dst : Fmt) (p : Bool) (m : Mode) : Statement (.vcvt d a src dst p m) := by
  refine micro rfl rfl (fun w hw => ?_)
  have := encDst_lt d
  have := encSrc_lt a
  have := fmtCode_lt src
  have := fmtCode_lt dst
  have := encBool_lt p
  have := encMode_lt m
  obtain ⟨h1, h2, h3, h4, h5, h6, h7, h8, h9, h10, h11⟩ := encU_fields 0x50 (encDst d) (encSrc a) 0 (fmtCode src) (fmtCode dst) (encBool p * 8 + encMode m)
    (by omega) (by omega) (by omega) (by omega) (by omega) (by omega) (by omega) hw
  have hd : decDst (mDst w) = some d := by rw [h4]; exact decDst_enc d
  have hp : bitOf w 3 = p := bitOf_eq p (by omega)
  have hm : decMode (w % 8) = some m := by rw [h10, show ((encBool p * 8 + encMode m)) % 8 = encMode m by omega]; exact decMode_enc m
  have h16 : w % 16 = (encBool p * 8 + encMode m) := h9
  exact ⟨h1, fun hwf => by
    simp only [decodeMicroRaw, decVconv, h2, h3, h5, h6, h7, h8, hd, decSrc_enc, hp, hm, fmtOf_code]; rfl⟩

theorem vqnt (d : Dst) (a : Src) (b : Src) (f : Fmt) (p : Bool) (m : Mode) : Statement (.vqnt d a b f p m) := by
  refine micro rfl rfl (fun w hw => ?_)
  have := encDst_lt d
  have := encSrc_lt a
  have := encSrc_lt b
  have := fmtCode_lt f
  have := encBool_lt p
  have := encMode_lt m
  obtain ⟨h1, h2, h3, h4, h5, h6, h7, h8, h9, h10, h11⟩ := encU_fields 0x51 (encDst d) (encSrc a) (encSrc b) 0 (fmtCode f) (encBool p * 8 + encMode m)
    (by omega) (by omega) (by omega) (by omega) (by omega) (by omega) (by omega) hw
  have hd : decDst (mDst w) = some d := by rw [h4]; exact decDst_enc d
  have hp : bitOf w 3 = p := bitOf_eq p (by omega)
  have hm : decMode (w % 8) = some m := by rw [h10, show ((encBool p * 8 + encMode m)) % 8 = encMode m by omega]; exact decMode_enc m
  have h16 : w % 16 = (encBool p * 8 + encMode m) := h9
  exact ⟨h1, fun hwf => by
    simp only [decodeMicroRaw, decVconv, h2, h3, h5, h6, h7, h8, hd, decSrc_enc, hp, hm, fmtOf_code]; rfl⟩

theorem vdq (d : Dst) (a : Src) (b : Src) (f : Fmt) (p : Bool) (m : Mode) : Statement (.vdq d a b f p m) := by
  refine micro rfl rfl (fun w hw => ?_)
  have := encDst_lt d
  have := encSrc_lt a
  have := encSrc_lt b
  have := fmtCode_lt f
  have := encBool_lt p
  have := encMode_lt m
  obtain ⟨h1, h2, h3, h4, h5, h6, h7, h8, h9, h10, h11⟩ := encU_fields 0x52 (encDst d) (encSrc a) (encSrc b) 0 (fmtCode f) (encBool p * 8 + encMode m)
    (by omega) (by omega) (by omega) (by omega) (by omega) (by omega) (by omega) hw
  have hd : decDst (mDst w) = some d := by rw [h4]; exact decDst_enc d
  have hp : bitOf w 3 = p := bitOf_eq p (by omega)
  have hm : decMode (w % 8) = some m := by rw [h10, show ((encBool p * 8 + encMode m)) % 8 = encMode m by omega]; exact decMode_enc m
  have h16 : w % 16 = (encBool p * 8 + encMode m) := h9
  exact ⟨h1, fun hwf => by
    simp only [decodeMicroRaw, decVconv, h2, h3, h5, h6, h7, h8, hd, decSrc_enc, hp, hm, fmtOf_code]; rfl⟩

theorem vpack (d : Dst) (a : Src) (b : Src) (w' : PackW) (p : Bool) : Statement (.vpack d a b w' p) := by
  refine micro rfl rfl (fun w hw => ?_)
  have := encDst_lt d
  have := encSrc_lt a
  have := encSrc_lt b
  have := encPackW_lt w'
  have := encBool_lt p
  obtain ⟨h1, h2, h3, h4, h5, h6, h7, h8, h9, h10, h11⟩ := encU_fields 0x53 (encDst d) (encSrc a) (encSrc b) 0 (encPackW w') (encBool p * 8)
    (by omega) (by omega) (by omega) (by omega) (by omega) (by omega) (by omega) hw
  have hd : decDst (mDst w) = some d := by rw [h4]; exact decDst_enc d
  have hp : bitOf w 3 = p := bitOf_eq p (by omega)
  have e8 : w % 8 = 0 := by omega
  have k1 : w / 2 ^ 6 % 4 = 0 := by omega
  have k2 : w / 2 ^ 4 % 4 = encPackW w' := by omega
  have h16 : w % 16 = (encBool p * 8) := h9
  exact ⟨h1, fun hwf => by
    simp only [decodeMicroRaw, decVconv, h2, h3, h5, h6, h7, hd, decSrc_enc, hp, e8, k1, k2, decPackW_enc]; rfl⟩

theorem vunpk (d : Dst) (a : Src) (b : Src) (signed : Bool) (w' : PackW) (p : Bool) : Statement (.vunpk d a b signed w' p) := by
  refine micro rfl rfl (fun w hw => ?_)
  have := encDst_lt d
  have := encSrc_lt a
  have := encSrc_lt b
  have := encBool_lt signed
  have := encPackW_lt w'
  have := encBool_lt p
  obtain ⟨h1, h2, h3, h4, h5, h6, h7, h8, h9, h10, h11⟩ := encU_fields 0x54 (encDst d) (encSrc a) (encSrc b) 0 (encBool signed * 4 + encPackW w') (encBool p * 8)
    (by omega) (by omega) (by omega) (by omega) (by omega) (by omega) (by omega) hw
  have hd : decDst (mDst w) = some d := by rw [h4]; exact decDst_enc d
  have hp : bitOf w 3 = p := bitOf_eq p (by omega)
  have e8 : w % 8 = 0 := by omega
  have k1 : w / 2 ^ 7 % 2 = 0 := by omega
  have k2 : w / 2 ^ 4 % 4 = encPackW w' := by omega
  have k3 : bitOf w 6 = signed := bitOf_eq signed (by omega)
  have h16 : w % 16 = (encBool p * 8) := h9
  exact ⟨h1, fun hwf => by
    simp only [decodeMicroRaw, decVconv, h2, h3, h5, h6, h7, hd, decSrc_enc, hp, e8, k1, k2, k3, decPackW_enc]; rfl⟩

theorem vscale (d : Dst) (a : Src) (b : Src) (p : Bool) (m : Mode) : Statement (.vscale d a b p m) := by
  refine micro rfl rfl (fun w hw => ?_)
  have := encDst_lt d
  have := encSrc_lt a
  have := encSrc_lt b
  have := encBool_lt p
  have := encMode_lt m
  obtain ⟨h1, h2, h3, h4, h5, h6, h7, h8, h9, h10, h11⟩ := encU_fields 0x55 (encDst d) (encSrc a) (encSrc b) 0 0 (encBool p * 8 + encMode m)
    (by omega) (by omega) (by omega) (by omega) (by omega) (by omega) (by omega) hw
  have hd : decDst (mDst w) = some d := by rw [h4]; exact decDst_enc d
  have hp : bitOf w 3 = p := bitOf_eq p (by omega)
  have hm : decMode (w % 8) = some m := by rw [h10, show ((encBool p * 8 + encMode m)) % 8 = encMode m by omega]; exact decMode_enc m
  have h16 : w % 16 = (encBool p * 8 + encMode m) := h9
  exact ⟨h1, fun hwf => by
    simp only [decodeMicroRaw, decVconv, h2, h3, h5, h6, h7, h8, hd, decSrc_enc, hp, hm]; rfl⟩

theorem mma (a : BitVec 2) (b : BitVec 2) (bf : Fmt) (af : Fmt) (bsc : Bool) (asc : Bool) : Statement (.mma a b bf af bsc asc) := by
  refine micro rfl rfl (fun w hw => ?_)
  have := fmtCode_lt bf
  have := fmtCode_lt af
  have := encBool_lt bsc
  have := encBool_lt asc
  obtain ⟨h1, h2, h3, h4, h5, h6, h7, h8, h9, h10, h11⟩ := encU_fields 0x60 0 (8 + a.toNat) (8 + b.toNat) (fmtCode bf) (fmtCode af) (encBool bsc * 2 + encBool asc)
    (by omega) (by omega) (by omega) (by omega) (by omega) (by omega) (by omega) hw
  have e8 : w % 8 = ((encBool bsc * 2 + encBool asc)) % 8 := by omega
  have k1 : w / 2 ^ 2 % 4 = 0 := by omega
  have k2 : bitOf w 1 = bsc := bitOf_eq bsc (by omega)
  have k3 : bitOf w 0 = asc := bitOf_eq asc (by omega)
  have h16 : w % 16 = (encBool bsc * 2 + encBool asc) := h9
  exact ⟨h1, fun hwf => by
    simp only [decodeMicroRaw, decVmat, h2, h3, h5, h6, h7, h8, h4, decIn_enc, fmtOf_code, k1, k2, k3]; rfl⟩

theorem mout (d : BitVec 2) (rows : BitVec 4) (base : BitVec 4) (f : Fmt) (m : Mode) : Statement (.mout d rows base f m) := by
  refine micro rfl rfl (fun w hw => ?_)
  have := fmtCode_lt f
  have := encMode_lt m
  obtain ⟨h1, h2, h3, h4, h5, h6, h7, h8, h9, h10, h11⟩ := encU_fields 0x61 (8 + d.toNat) rows.toNat base.toNat 0 (fmtCode f) (encMode m)
    (by omega) (by omega) (by omega) (by omega) (by omega) (by omega) (by omega) hw
  have hm : decMode (w % 8) = some m := by rw [h10, show ((encMode m)) % 8 = encMode m by omega]; exact decMode_enc m
  have k1 : w / 2 ^ 3 % 2 = 0 := by omega
  have k2 : fieldBv 4 w 16 = rows := fieldBv_eq rows (by unfold mA at h5; omega)
  have k3 : fieldBv 4 w 12 = base := fieldBv_eq base (by unfold mB at h6; omega)
  have h16 : w % 16 = (encMode m) := h9
  exact ⟨h1, fun hwf => by
    simp only [decodeMicroRaw, decVmat, h2, h3, h7, h8, h4, decIn_enc, hm, fmtOf_code, k1, k2, k3]; rfl⟩

theorem mldb (a : BitVec 2) (b : BitVec 2) (f : LdbMode) : Statement (.mldb a b f) := by
  refine micro rfl rfl (fun w hw => ?_)
  have := encLdb_lt f
  obtain ⟨h1, h2, h3, h4, h5, h6, h7, h8, h9, h10, h11⟩ := encU_fields 0x62 0 (8 + a.toNat) (8 + b.toNat) 0 (encLdb f) 0
    (by omega) (by omega) (by omega) (by omega) (by omega) (by omega) (by omega) hw
  have e8 : w % 8 = 0 := by omega
  have h16 : w % 16 = 0 := h9
  exact ⟨h1, fun hwf => by
    simp only [decodeMicroRaw, decVmat, h2, h3, h5, h6, h7, h8, h4, decIn_enc, decLdb_enc, h16]; rfl⟩

theorem seq (d : BitVec 2) (a : Src) (b : Src) (c : Src) (first : Bool) : Statement (.seq d a b c first) := by
  refine micro rfl rfl (fun w hw => ?_)
  have := encSrc_lt a
  have := encSrc_lt b
  have := encSrc_lt c
  have := encBool_lt first
  obtain ⟨h1, h2, h3, h4, h5, h6, h7, h8, h9, h10, h11⟩ := encU_fields 0x70 (8 + d.toNat) (encSrc a) (encSrc b) (encSrc c) (encBool first) 0
    (by omega) (by omega) (by omega) (by omega) (by omega) (by omega) (by omega) hw
  obtain ⟨x0, hd0r⟩ : ∃ x, decDst (mDst w) = some x := by rw [h4]; exact ⟨_, decDst_enc (.o d)⟩
  have e8 : w % 8 = 0 := by omega
  have h16 : w % 16 = 0 := h9
  exact ⟨h1, fun hwf => by
    simp only [decodeMicroRaw, h2, hd0r]; simp only [decVstream, h3, h5, h6, h7, h8, h4, decSrc_enc, decIn_enc, h16]; cases first <;> rfl⟩

theorem cnt (d : Dst) (a : Src) (p : Bool) : Statement (.cnt d a p) := by
  refine micro rfl rfl (fun w hw => ?_)
  have := encDst_lt d
  have := encSrc_lt a
  have := encBool_lt p
  obtain ⟨h1, h2, h3, h4, h5, h6, h7, h8, h9, h10, h11⟩ := encU_fields 0x71 (encDst d) (encSrc a) 0 0 0 (encBool p * 8)
    (by omega) (by omega) (by omega) (by omega) (by omega) (by omega) (by omega) hw
  have hd : decDst (mDst w) = some d := by rw [h4]; exact decDst_enc d
  have hp : bitOf w 3 = p := bitOf_eq p (by omega)
  have e8 : w % 8 = 0 := by omega
  have h16 : w % 16 = (encBool p * 8) := h9
  exact ⟨h1, fun hwf => by
    simp only [decodeMicroRaw, decVstream, h2, h3, h5, h6, h7, h8, hd, decSrc_enc, hp, e8]; rfl⟩

theorem contend (d : Dst) (a : Src) (b : Src) (c : BitVec 4) (retry : Bool) (x : BitVec 2) : Statement (.contend d a b c retry x) := by
  refine micro rfl rfl (fun w hw => ?_)
  have := encDst_lt d
  have := encSrc_lt a
  have := encSrc_lt b
  have := encBool_lt retry
  obtain ⟨h1, h2, h3, h4, h5, h6, h7, h8, h9, h10, h11⟩ := encU_fields 0x72 (encDst d) (encSrc a) (encSrc b) 0 c.toNat (encBool retry * 4 + x.toNat)
    (by omega) (by omega) (by omega) (by omega) (by omega) (by omega) (by omega) hw
  have hd : decDst (mDst w) = some d := by rw [h4]; exact decDst_enc d
  have e8 : w % 8 = ((encBool retry * 4 + x.toNat)) % 8 := by omega
  have k1 : bitOf w 3 = false := bitOf_eq false (by have z : encBool false = 0 := rfl; omega)
  have k2 : fieldBv 4 w 4 = c := fieldBv_eq c (by omega)
  have k3 : bitOf w 2 = retry := bitOf_eq retry (by omega)
  have k4 : fieldBv 2 w 0 = x := fieldBv_eq x (by omega)
  have h16 : w % 16 = (encBool retry * 4 + x.toNat) := h9
  exact ⟨h1, fun hwf => by
    simp only [decodeMicroRaw, decVstream, h2, h3, h5, h6, h7, hd, decSrc_enc, k1, k2, k3, k4]; rfl⟩

theorem crc64 (d : Dst) (a : Src) (b : Src) : Statement (.crc64 d a b) := by
  refine micro rfl rfl (fun w hw => ?_)
  have := encDst_lt d
  have := encSrc_lt a
  have := encSrc_lt b
  obtain ⟨h1, h2, h3, h4, h5, h6, h7, h8, h9, h10, h11⟩ := encU_fields 0x73 (encDst d) (encSrc a) (encSrc b) 0 0 0
    (by omega) (by omega) (by omega) (by omega) (by omega) (by omega) (by omega) hw
  have hd : decDst (mDst w) = some d := by rw [h4]; exact decDst_enc d
  have e8 : w % 8 = 0 := by omega
  have h16 : w % 16 = 0 := h9
  exact ⟨h1, fun hwf => by
    simp only [decodeMicroRaw, decVstream, h2, h3, h5, h6, h7, h8, hd, decSrc_enc, h16]; rfl⟩

theorem vtrn (d : Dst) (a : Src) (bytes : Bool) (p : Bool) : Statement (.vtrn d a bytes p) := by
  refine micro rfl rfl (fun w hw => ?_)
  have := encDst_lt d
  have := encSrc_lt a
  have := encBool_lt bytes
  have := encBool_lt p
  obtain ⟨h1, h2, h3, h4, h5, h6, h7, h8, h9, h10, h11⟩ := encU_fields 0x74 (encDst d) (encSrc a) 0 0 (encBool bytes) (encBool p * 8)
    (by omega) (by omega) (by omega) (by omega) (by omega) (by omega) (by omega) hw
  have hd : decDst (mDst w) = some d := by rw [h4]; exact decDst_enc d
  have hp : bitOf w 3 = p := bitOf_eq p (by omega)
  have e8 : w % 8 = 0 := by omega
  have h16 : w % 16 = (encBool p * 8) := h9
  exact ⟨h1, fun hwf => by
    simp only [decodeMicroRaw, decVstream, h2, h3, h5, h6, h7, h8, hd, decSrc_enc, hp, e8]; cases bytes <;> rfl⟩

theorem zpkD (d : Dst) (a : Src) (p : Bool) : Statement (.zpkD d a p) := by
  refine micro rfl rfl (fun w hw => ?_)
  have := encDst_lt d
  have := encSrc_lt a
  have := encBool_lt p
  obtain ⟨h1, h2, h3, h4, h5, h6, h7, h8, h9, h10, h11⟩ := encU_fields 0x75 (encDst d) (encSrc a) 0 0 0 (encBool p * 8)
    (by omega) (by omega) (by omega) (by omega) (by omega) (by omega) (by omega) hw
  have hd : decDst (mDst w) = some d := by rw [h4]; exact decDst_enc d
  have hp : bitOf w 3 = p := bitOf_eq p (by omega)
  have e8 : w % 8 = 0 := by omega
  have h16 : w % 16 = (encBool p * 8) := h9
  exact ⟨h1, fun hwf => by
    simp only [decodeMicroRaw, decVstream, h2, h3, h5, h6, h7, h8, hd, decSrc_enc, hp, e8]; rfl⟩

theorem zpkM (d : Dst) (a : Src) (p : Bool) : Statement (.zpkM d a p) := by
  refine micro rfl rfl (fun w hw => ?_)
  have := encDst_lt d
  have := encSrc_lt a
  have := encBool_lt p
  obtain ⟨h1, h2, h3, h4, h5, h6, h7, h8, h9, h10, h11⟩ := encU_fields 0x75 (encDst d) (encSrc a) 0 0 1 (encBool p * 8)
    (by omega) (by omega) (by omega) (by omega) (by omega) (by omega) (by omega) hw
  have hd : decDst (mDst w) = some d := by rw [h4]; exact decDst_enc d
  have hp : bitOf w 3 = p := bitOf_eq p (by omega)
  have e8 : w % 8 = 0 := by omega
  have h16 : w % 16 = (encBool p * 8) := h9
  exact ⟨h1, fun hwf => by
    simp only [decodeMicroRaw, decVstream, h2, h3, h5, h6, h7, h8, hd, decSrc_enc, hp, e8]; rfl⟩

theorem zup (d : Dst) (a : Src) (b : Src) (p : Bool) : Statement (.zup d a b p) := by
  refine micro rfl rfl (fun w hw => ?_)
  have := encDst_lt d
  have := encSrc_lt a
  have := encSrc_lt b
  have := encBool_lt p
  obtain ⟨h1, h2, h3, h4, h5, h6, h7, h8, h9, h10, h11⟩ := encU_fields 0x76 (encDst d) (encSrc a) (encSrc b) 0 0 (encBool p * 8)
    (by omega) (by omega) (by omega) (by omega) (by omega) (by omega) (by omega) hw
  have hd : decDst (mDst w) = some d := by rw [h4]; exact decDst_enc d
  have hp : bitOf w 3 = p := bitOf_eq p (by omega)
  have e8 : w % 8 = 0 := by omega
  have h16 : w % 16 = (encBool p * 8) := h9
  exact ⟨h1, fun hwf => by
    simp only [decodeMicroRaw, decVstream, h2, h3, h5, h6, h7, h8, hd, decSrc_enc, hp, e8]; rfl⟩

theorem emit (d : BitVec 2) (a : Src) (b : Src) (f : Fmt) (p : Bool) : Statement (.emit d a b f p) := by
  refine micro rfl rfl (fun w hw => ?_)
  have := encSrc_lt a
  have := encSrc_lt b
  have := fmtCode_lt f
  have := encBool_lt p
  obtain ⟨h1, h2, h3, h4, h5, h6, h7, h8, h9, h10, h11⟩ := encU_fields 0x77 (8 + d.toNat) (encSrc a) (encSrc b) 0 (fmtCode f) (encBool p * 8)
    (by omega) (by omega) (by omega) (by omega) (by omega) (by omega) (by omega) hw
  obtain ⟨x0, hd0r⟩ : ∃ x, decDst (mDst w) = some x := by rw [h4]; exact ⟨_, decDst_enc (.o d)⟩
  have hp : bitOf w 3 = p := bitOf_eq p (by omega)
  have e8 : w % 8 = 0 := by omega
  have h16 : w % 16 = (encBool p * 8) := h9
  exact ⟨h1, fun hwf => by
    simp only [decodeMicroRaw, h2, hd0r]; simp only [decVstream, h3, h5, h6, h7, h8, h4, decSrc_enc, decIn_enc, hp, e8, fmtOf_code]; rfl⟩

theorem rqst (d : Dst) (a : Src) : Statement (.rqst d a) := by
  refine micro rfl rfl (fun w hw => ?_)
  have := encDst_lt d
  have := encSrc_lt a
  obtain ⟨h1, h2, h3, h4, h5, h6, h7, h8, h9, h10, h11⟩ := encU_fields 0x78 (encDst d) (encSrc a) 0 0 0 0
    (by omega) (by omega) (by omega) (by omega) (by omega) (by omega) (by omega) hw
  have hd : decDst (mDst w) = some d := by rw [h4]; exact decDst_enc d
  have e8 : w % 8 = 0 := by omega
  have h16 : w % 16 = 0 := h9
  exact ⟨h1, fun hwf => by
    simp only [decodeMicroRaw, decVstream, h2, h3, h5, h6, h7, h8, hd, decSrc_enc, h16]; rfl⟩

theorem coldReset : Statement .coldReset := event rfl
theorem selfTestDone : Statement .selfTestDone := event rfl
theorem hostLinkRetrain : Statement .hostLinkRetrain := event rfl
theorem dhcpv6Reply : Statement .dhcpv6Reply := event rfl
theorem tftpImageReceived : Statement .tftpImageReceived := event rfl
theorem bootAttemptTimeout : Statement .bootAttemptTimeout := event rfl
theorem hubCoreReady : Statement .hubCoreReady := event rfl
theorem hubReadyTimeout : Statement .hubReadyTimeout := event rfl
theorem getVersion : Statement .getVersion := event rfl
theorem getCapabilities : Statement .getCapabilities := event rfl
theorem negotiateAlgorithms : Statement .negotiateAlgorithms := event rfl
theorem getDigests : Statement .getDigests := event rfl
theorem getCertificate : Statement .getCertificate := event rfl
theorem challenge : Statement .challenge := event rfl
theorem getMeasurements : Statement .getMeasurements := event rfl
theorem warm : Statement .warm := event rfl
theorem warmReset : Statement .warmReset := event rfl
theorem warmResetDone : Statement .warmResetDone := event rfl
theorem dieFirmwareRestart : Statement .dieFirmwareRestart := event rfl
theorem firmwareRestartDone : Statement .firmwareRestartDone := event rfl
theorem fwdogExpiry : Statement .fwdogExpiry := event rfl
theorem thermalThrottle : Statement .thermalThrottle := event rfl
theorem thermalUnthrottle : Statement .thermalUnthrottle := event rfl
theorem thermalTrip : Statement .thermalTrip := event rfl
theorem registerWrite : Statement .registerWrite := event rfl
theorem submissionWrite : Statement .submissionWrite := event rfl
theorem queueLoad : Statement .queueLoad := event rfl
theorem commandConsume : Statement .commandConsume := event rfl
theorem commandStart : Statement .commandStart := event rfl
theorem launch : Statement .launch := event rfl
theorem signal : Statement .signal := event rfl
theorem waitCommand : Statement .waitCommand := event rfl
theorem waitTimeout : Statement .waitTimeout := event rfl
theorem copyCommand : Statement .copyCommand := event rfl
theorem ckptCommand : Statement .ckptCommand := event rfl
theorem restore : Statement .restore := event rfl
theorem stop : Statement .stop := event rfl
theorem qreset : Statement .qreset := event rfl
theorem qresetReport : Statement .qresetReport := event rfl
theorem completionRecord : Statement .completionRecord := event rfl
theorem poolEvaluation : Statement .poolEvaluation := event rfl
theorem preemptTrap : Statement .preemptTrap := event rfl
theorem preemptQuiesced : Statement .preemptQuiesced := event rfl
theorem startRelease : Statement .startRelease := event rfl
theorem configRequestDone : Statement .configRequestDone := event rfl
theorem regionComplete : Statement .regionComplete := event rfl
theorem controlCoreReport : Statement .controlCoreReport := event rfl
theorem frameStart : Statement .frameStart := event rfl
theorem sprintResultLatch : Statement .sprintResultLatch := event rfl
theorem swapInstant : Statement .swapInstant := event rfl
theorem swapDrainDone : Statement .swapDrainDone := event rfl
theorem swapInstall : Statement .swapInstall := event rfl
theorem routeUpdate : Statement .routeUpdate := event rfl
theorem checkpointCut : Statement .checkpointCut := event rfl
theorem checkpointPageCopy : Statement .checkpointPageCopy := event rfl
theorem checkpointCommit : Statement .checkpointCommit := event rfl
theorem atuTranslate : Statement .atuTranslate := event rfl
theorem deferredLeafService : Statement .deferredLeafService := event rfl
theorem faultResume : Statement .faultResume := event rfl
theorem faultAbandon : Statement .faultAbandon := event rfl
theorem invalidationComplete : Statement .invalidationComplete := event rfl
theorem netRead : Statement .netRead := event rfl
theorem netWrite : Statement .netWrite := event rfl
theorem netAmo : Statement .netAmo := event rfl
theorem netCas : Statement .netCas := event rfl
theorem netCas16 : Statement .netCas16 := event rfl
theorem readData : Statement .readData := event rfl
theorem writeAck : Statement .writeAck := event rfl
theorem errorResponse : Statement .errorResponse := event rfl
theorem streamToken : Statement .streamToken := event rfl
theorem flipMarker : Statement .flipMarker := event rfl
theorem multicastRead : Statement .multicastRead := event rfl
theorem mergeWindowClose : Statement .mergeWindowClose := event rfl
theorem multicastData : Statement .multicastData := event rfl
theorem creditReturn : Statement .creditReturn := event rfl
theorem sysControl : Statement .sysControl := event rfl
theorem pubDelivery : Statement .pubDelivery := event rfl
theorem scTokenVisit : Statement .scTokenVisit := event rfl
theorem adderFire : Statement .adderFire := event rfl
theorem podDataFlit : Statement .podDataFlit := event rfl
theorem podControlFlit : Statement .podControlFlit := event rfl
theorem podAckTimer : Statement .podAckTimer := event rfl
theorem podLinkTimeout : Statement .podLinkTimeout := event rfl
theorem pcieCompletion : Statement .pcieCompletion := event rfl
theorem pcieCompletionTimeout : Statement .pcieCompletionTimeout := event rfl
theorem ethFrameRx : Statement .ethFrameRx := event rfl
theorem directLandingSend : Statement .directLandingSend := event rfl
theorem ethFrameTx : Statement .ethFrameTx := event rfl
theorem tmstep : Statement .tmstep := event rfl
theorem tmrate : Statement .tmrate := event rfl
theorem tmnowlo : Statement .tmnowlo := event rfl
theorem eccstat : Statement .eccstat := event rfl
theorem eccScrub : Statement .eccScrub := event rfl
theorem nodeFire : Statement .nodeFire := event rfl
theorem passFire : Statement .passFire := event rfl
theorem forkFire : Statement .forkFire := event rfl
theorem steerTokenFire : Statement .steerTokenFire := event rfl
theorem steerLaneFire : Statement .steerLaneFire := event rfl
theorem mergeControlledFire : Statement .mergeControlledFire := event rfl
theorem mergeFairFire : Statement .mergeFairFire := event rfl
theorem carryTrigger : Statement .carryTrigger := event rfl
theorem carryBackEdge : Statement .carryBackEdge := event rfl
theorem invFire : Statement .invFire := event rfl
theorem mrd : Statement .mrd := event rfl
theorem mwr : Statement .mwr := event rfl
theorem macc : Statement .macc := event rfl
theorem ringPush : Statement .ringPush := event rfl
theorem ringPop : Statement .ringPop := event rfl
theorem repeatRound : Statement .repeatRound := event rfl
theorem cacheBankAccess : Statement .cacheBankAccess := event rfl
theorem eorMark : Statement .eorMark := event rfl
theorem cfgMark : Statement .cfgMark := event rfl
theorem wswMark : Statement .wswMark := event rfl
theorem modMark : Statement .modMark := event rfl
theorem flsMark : Statement .flsMark := event rfl
theorem savMark : Statement .savMark := event rfl
theorem rstMark : Statement .rstMark := event rfl
theorem swpMark : Statement .swpMark := event rfl
theorem tscMark : Statement .tscMark := event rfl
theorem fenMark : Statement .fenMark := event rfl
theorem qscMark : Statement .qscMark := event rfl
theorem brkMark : Statement .brkMark := event rfl
theorem alignTimeout : Statement .alignTimeout := event rfl
theorem streamStart : Statement .streamStart := event rfl
theorem loadUnit : Statement .loadUnit := event rfl
theorem storeUnit : Statement .storeUnit := event rfl
theorem idxUnit : Statement .idxUnit := event rfl
theorem scatUnit : Statement .scatUnit := event rfl
theorem landingPop : Statement .landingPop := event rfl
theorem streamRetire : Statement .streamRetire := event rfl
theorem copyUnit : Statement .copyUnit := event rfl
theorem gatherUnit : Statement .gatherUnit := event rfl
theorem coreResume : Statement .coreResume := event rfl
theorem coreAbandon : Statement .coreAbandon := event rfl
theorem supplyLoss : Statement .supplyLoss := event rfl
theorem tick : Statement .tick := event rfl

end Sys2Proof.Laws.EncodingRoundTrip
end

