-- ==== Sys2Proof/Safety.lean ====
section
/-! DEFINITION. The terms that claims use: what an instruction may change, when it does not wait, and the invariants of the machine. -/

set_option Elab.async false

namespace Sys2Proof.Machine

/-! ## Waiting -/

/-- None of the registers that an instruction names awaits a result (R316). -/
def State.ready (s : State) (rs : List Reg) : Prop := ∀ r ∈ rs, s.isPending r = false

/-- No access that a fence waits for is still on its way (R331). -/
def State.unfenced (s : State) : Prop :=
  s.waitsFor s.ctl.acqWait = false ∧ s.waitsFor s.ctl.relWait = false ∧ s.waitsFor s.ctl.fullWait = false

/-! ## Frames -/

/-- The general registers after a write of `v` to register `d`: s0 reads as zero (R238). -/
def State.regsWith (s : State) (d : Reg) (v : Word) : Reg → Word := fun n => if n = 0 then 0 else if n = d then v else s.reg n

/-- The core whose turn it is has the general registers `f` and the pc `p`; every special register and trap register, whatever else the
control core holds, its fabric and every other core are as before. -/
def State.ctlWrote (s t : State) (f : Reg → Word) (p : Word) : Prop :=
  (∀ n, t.reg n = f n) ∧ t.pc = p ∧ { t.cr with s := s.cr.s, pc := s.pc } = s.cr ∧ { t.ctl with r := s.cr } = s.ctl ∧
  { t.core s.me with ctl := s.ctl } = s.core s.me ∧ (∀ k, k ≠ s.me → t.core k = s.core k)

/-- Nothing but cores differs: memory is as before, byte by byte, and so is all that lies outside the cores. -/
def State.onlyCores (s t : State) : Prop := { t with cores := s.cores } = s ∧ (∀ a, t.byte a = s.byte a)

/-- A machine that differs from `s` in the control core whose turn it is and in nothing else. -/
def State.onlyCtl (s t : State) : Prop :=
  (∀ k, k ≠ s.me → t.core k = s.core k) ∧ { t.core s.me with ctl := s.ctl } = s.core s.me ∧ s.onlyCores t

/-- The effect of an instruction that only computes: general register `d` holds `v` where it is not s0, which reads as zero; the pc is `p`;
every other general register, every special register and trap register, and everything else of the machine are as before. -/
def State.wrote (s t : State) (d : Reg) (v p : Word) : Prop := s.ctlWrote t (s.regsWith d v) p ∧ s.onlyCores t

/-- The bytes `bs` stand at `key`, every byte outside them reads as before, and nothing beyond cores and memory differs. -/
def State.storedAt (s t : State) (key : Nat) (bs : List Byte) : Prop :=
  t.bytes key bs.length = bs ∧ (∀ a, a < key ∨ key + bs.length ≤ a → t.byte a = s.byte a) ∧
  { t with cores := s.cores, m := s.m } = s ∧ { t.m with mem := s.m.mem } = s.m

/-- The effect of a trap on the core whose turn it is: the trap registers hold the cause, the value and the pc given, every other register
and everything else of the machine are as before but for the mode of running, the pc and INTRAP, which are given too (R353 to R355). -/
def State.trapped (s t : State) (cause : Nat) (val pc : Word) (run : RunMode) (inTrap : Bool) (p : Word) : Prop :=
  t.cr.trapCause = BitVec.ofNat 8 cause ∧ t.cr.trapVal = val ∧ t.cr.trapPc = pc ∧ t.ctl.run = run ∧ t.cr.inTrap = inTrap ∧ t.pc = p ∧
  (∀ n, t.reg n = s.reg n) ∧
  { t.cr with trapCause := s.cr.trapCause, trapVal := s.cr.trapVal, trapPc := s.cr.trapPc, inTrap := s.cr.inTrap, pc := s.pc } = s.cr ∧
  { t.ctl with r := s.cr, run := s.ctl.run, wait := s.ctl.wait } = s.ctl ∧ s.onlyCtl t

/-- What a fault of the instruction in progress does: a user core stops on its trap (R354); die firmware outside a handler continues at
0x0040 with INTRAP set, and inside one restarts its die (R355). -/
def State.faulted (s t : State) (cause : Nat) (val : Word) : Prop :=
  if !s.firmware then s.trapped t cause val s.pc .stopped s.cr.inTrap s.pc
  else if !s.cr.inTrap then s.trapped t cause val s.pc s.ctl.run true 0x40
  else t = s.dieRestart (BitVec.ofNat 3 (s.me / 16))

/-- Only the fabric of core `k`, packets on the network and their traffic counters differ: every control core and occupant, every other core,
all outstanding accesses, memory and everything else of the machine are as before. -/
def State.fabricOnly (s t : State) (k : Nat) : Prop :=
  { t with cores := s.cores, swap := s.swap, net := s.net } = s ∧ (∀ j, t.ctlAt j = s.ctlAt j) ∧ (∀ j, (t.core j).occ = (s.core j).occ) ∧
  (∀ j, j ≠ k → t.core j = s.core j) ∧ t.net.accesses = s.net.accesses ∧ (∀ a, t.byte a = s.byte a)

/-! ## Micro-ops -/

/-- The firing in progress issues a micro-op with a destination, and an output it writes has room (R363, R366). -/
def State.issuesTo (s : State) (out : Option (BitVec 2)) : Prop :=
  match out with
  | none => s.nnode.release = none
  | some o => (s.nsite.nodeRlen s.nj = false ∨ s.nnode.release.isSome) ∧ s.ntile.o.getD o.toNat none = none

/-- What follows a micro-op that has written its result: the node goes on at its next slot, and what is ready in its core moves. -/
def State.wroteMicro (s : State) (d : Dst) (keep : Bool) (r : Res) : State := ((s.writeDst d keep r).nextSlot).settle s.nk

/-! ## Descriptors -/

/-- A descriptor of `n` bytes at `va` reads as `bs`, and `t` is the state once it is read: it is aligned, not in the data memory, translates,
no access of the core to its place is on its way, and its home answers every line of it (R337). -/
def State.describes (s : State) (va : Word) (n : Nat) (bs : List Byte) (t : State) : Prop :=
  va.toNat % n = 0 ∧ 65536 ≤ va.toNat ∧
  ∃ l a s1, s.translate (reticleOf s.me) (s.asnOf s.me) va .read = (.at l a, s1) ∧ s1.sameGranule (.ctl s1.cur) l n = [] ∧
    (s1.yieldLine s1.me l.key).fetchAll (.ctl s1.cur) (s1.asnOf s1.me) false (linePieces l va n a) = (some (.ok bs), t)

/-! ## Invariants -/

/-- The memory keeps its canonical form. -/
def State.MemOk (s : State) : Prop := Memory.wf s.m.mem = true

/-- Every core runs in the mode of its place: hub cores in firmware mode, the others in user mode (R241). -/
def State.ModeOk (s : State) : Prop := ∀ k, (s.ctlAt k).r.firmware = isHub k

end Sys2Proof.Machine
end

