-- ==== Sys2Proof/Certificates/Slice0/Obligations.lean ====
section
/-! DEFINITION. The claims about the machine, one `Obligations.<Name>` each, with the terms they are stated in. -/

set_option Elab.async false

open Sys2Proof Sys2Proof.Machine

/-! ## Results of the computing instructions -/

/-- Instructions of two sources with the value that the spec's tables give for operands x and y (R318). -/
def Sys2Proof.Machine.aluResults (d a b : Reg) (k : BitVec 2) (x y : Word) : List (Instr × Word) :=
  [(.add d a b, x + y), (.sub d a b, x - y), (.and d a b, x &&& y), (.or d a b, x ||| y), (.xor d a b, x ^^^ y),
   (.shl d a b, x <<< (y.toNat % 64)), (.shr d a b, x >>> (y.toNat % 64)), (.sra d a b, x.sshiftRight (y.toNat % 64)),
   (.slt d a b, if x.toInt < y.toInt then 1 else 0), (.sltu d a b, if x.toNat < y.toNat then 1 else 0),
   (.min d a b, BitVec.ofInt 64 (Min.min x.toInt y.toInt)), (.max d a b, BitVec.ofInt 64 (Max.max x.toInt y.toInt)),
   (.minu d a b, BitVec.ofNat 64 (Min.min x.toNat y.toNat)), (.maxu d a b, BitVec.ofNat 64 (Max.max x.toNat y.toNat)),
   (.mul d a b, BitVec.ofNat 64 (x.toNat * y.toNat)), (.mulh d a b, BitVec.ofInt 64 (x.toInt * y.toInt / 2 ^ 64)),
   (.mulhu d a b, BitVec.ofNat 64 (x.toNat * y.toNat / 2 ^ 64)), (.lea d a b k, x + y <<< k.toNat)]

/-- The dividing instructions with their corners (R318). -/
def Sys2Proof.Machine.divResults (d a b : Reg) (x y : Word) : List (Instr × Word) :=
  let q : Word :=
    if y = 0 then BitVec.allOnes 64 else if x = 0x8000000000000000 ∧ y.toInt = -1 then x else BitVec.ofInt 64 (x.toInt.tdiv y.toInt)
  [(.div d a b, q),
   (.rem d a b, if y = 0 then x else if x = 0x8000000000000000 ∧ y.toInt = -1 then 0 else BitVec.ofInt 64 (x.toInt - y.toInt * q.toInt)),
   (.divu d a b, if y = 0 then BitVec.allOnes 64 else BitVec.ofNat 64 (x.toNat / y.toNat)),
   (.remu d a b, if y = 0 then x else BitVec.ofNat 64 (x.toNat % y.toNat))]

/-- The immediate forms with their values for operand x (R319). -/
def Sys2Proof.Machine.immResults (d a : Reg) (i : BitVec 16) (n : BitVec 6) (x : Word) : List (Instr × Word) :=
  [(.addi d a i, x + i.signExtend 64), (.andi d a i, x &&& i.setWidth 64), (.ori d a i, x ||| i.setWidth 64),
   (.xori d a i, x ^^^ i.setWidth 64), (.slti d a i, if x.toInt < (i.signExtend 64).toInt then 1 else 0),
   (.sltiu d a i, if x.toNat < (i.signExtend 64).toNat then 1 else 0),
   (.shli d a n, x <<< n.toNat), (.shri d a n, x >>> n.toNat), (.srai d a n, x.sshiftRight n.toNat)]

/-- The two-operand operations of the floating-point unit with the code of their result for FP32 codes x and y (R321, R322). -/
def Sys2Proof.Machine.fpResults (d a b : Reg) (c : FCond) (m : Rm) (x y : Nat) : List (Instr × Nat) :=
  [(.fadd d a b m, roundFV .f32 ovNone m (fvAdd m (fpVal .f32 x) (fpVal .f32 y))),
   (.fsub d a b m, roundFV .f32 ovNone m (fvAdd m (fpVal .f32 x) (fvNeg (fpVal .f32 y)))),
   (.fmul d a b m, roundFV .f32 ovNone m (fvMul (fpVal .f32 x) (fpVal .f32 y))),
   (.fdiv d a b m, fpDiv .f32 m (fpVal .f32 x) (fpVal .f32 y)),
   (.fmin d a b m, fpMinMax .f32 false x y), (.fmax d a b m, fpMinMax .f32 true x y),
   (.fcmp d a b c m, if fcmpCond c x y then 1 else 0)]

/-- R318, R319: what each operation of the ALU group of two sources writes, the quotients and remainders with their corners, and what each
immediate form writes, with their frame; the word 0x08000000 is the no-operation. -/
def Obligations.AluResults : Prop :=
  ∀ (s : State) (d a b : Reg) (k : BitVec 2) (i : BitVec 16) (n : BitVec 6),
    (s.ready [d, a, b] → ∀ c ∈ aluResults d a b k (s.reg a) (s.reg b) ++ divResults d a b (s.reg a) (s.reg b),
      ∃ t, exec c.1 s = .next t ∧ s.wrote t d c.2 (s.pc + 4)) ∧
    (s.ready [d, a] → ∀ c ∈ immResults d a i n (s.reg a), ∃ t, exec c.1 s = .next t ∧ s.wrote t d c.2 (s.pc + 4)) ∧
    (s.ready [0] → decode 0x08000000 = some (.addi 0 0 0) ∧ ∃ t, exec (.addi 0 0 0) s = .next t ∧ s.wrote t 0 0 (s.pc + 4))

/-- R318: CLZ, CTZ, POPC and BSWAP by what their results say of the bits and bytes of the operand. -/
def Obligations.BitCountResults : Prop :=
  ∀ (s : State) (d a : Reg), s.ready [d, a] →
    (∃ t v, exec (.clz d a) s = .next t ∧ s.wrote t d v (s.pc + 4) ∧ v.toNat ≤ 64 ∧
      (∀ i, 64 - v.toNat ≤ i → (s.reg a).getLsbD i = false) ∧ (v.toNat < 64 → (s.reg a).getLsbD (63 - v.toNat) = true)) ∧
    (∃ t v, exec (.ctz d a) s = .next t ∧ s.wrote t d v (s.pc + 4) ∧ v.toNat ≤ 64 ∧
      (∀ i, i < v.toNat → (s.reg a).getLsbD i = false) ∧ (v.toNat < 64 → (s.reg a).getLsbD v.toNat = true)) ∧
    (∃ t v, exec (.popc d a) s = .next t ∧ s.wrote t d v (s.pc + 4) ∧
      v.toNat = ((List.range 64).filter (fun i => (s.reg a).getLsbD i)).length) ∧
    (∃ t v, exec (.bswap d a) s = .next t ∧ s.wrote t d v (s.pc + 4) ∧
      ∀ i < 8, v.extractLsb' (8 * i) 8 = (s.reg a).extractLsb' (8 * (7 - i)) 8)

/-- R320: LIZ writes the immediate at its position over zeros; LIK replaces those bits, keeps every other, and waits while its register is
pending; the rule's four words put its constant together. -/
def Obligations.ConstantPieces : Prop :=
  ∀ (s : State) (d : Reg) (p : BitVec 2) (i : BitVec 16),
    (s.ready [d] →
      (∃ t v, exec (.liz d p i) s = .next t ∧ s.wrote t d v (s.pc + 4) ∧
        ∀ j < 64, v.getLsbD j = (decide (16 * p.toNat ≤ j) && decide (j < 16 * p.toNat + 16) && i.getLsbD (j - 16 * p.toNat))) ∧
      (∃ t v, exec (.lik d p i) s = .next t ∧ s.wrote t d v (s.pc + 4) ∧
        ∀ j < 64, v.getLsbD j =
          if 16 * p.toNat ≤ j ∧ j < 16 * p.toNat + 16 then i.getLsbD (j - 16 * p.toNat) else (s.reg d).getLsbD j)) ∧
    (s.isPending d = true → exec (.lik d p i) s = .next s) ∧
    (s.ready [5] → ∃ t1 t2 t3 t4, exec (.liz 5 0 0xCDEF) s = .next t1 ∧ exec (.lik 5 1 0x89AB) t1 = .next t2 ∧
      exec (.lik 5 2 0x4567) t2 = .next t3 ∧ exec (.lik 5 3 0x0123) t3 = .next t4 ∧ t4.reg 5 = 0x0123456789ABCDEF)

/-- R321, R322: the floating-point operations read the low 32 bits of their operands and write an FP32 code, or FCMP's 0 or 1, with
zeros above. -/
def Obligations.FloatResults : Prop :=
  ∀ (s : State) (d a b : Reg) (c : FCond) (m : Rm), s.ready [d, a, b] →
    ∀ e ∈ fpResults d a b c m ((s.reg a).toNat % 2 ^ 32) ((s.reg b).toNat % 2 ^ 32),
      ∃ t, exec e.1 s = .next t ∧ s.wrote t d (BitVec.ofNat 64 (e.2 % 2 ^ 32)) (s.pc + 4)

/-- R321 to R324: FSQRT, FCLASS, SCALEX and FCVT; FCLASS sets exactly one bit, below 10. -/
def Obligations.FloatUnary : Prop :=
  ∀ (s : State) (d a : Reg) (m : Rm), s.ready [d, a] →
    (∃ t, exec (.fsqrt d a m) s = .next t ∧
      s.wrote t d (BitVec.ofNat 64 (fpSqrt .f32 m (fpVal .f32 ((s.reg a).toNat % 2 ^ 32)) % 2 ^ 32)) (s.pc + 4)) ∧
    (∃ t n, exec (.fclass d a m) s = .next t ∧ n < 10 ∧ s.wrote t d (BitVec.ofNat 64 (2 ^ n)) (s.pc + 4)) ∧
    (∀ f, ∃ t, exec (.scalex d a f m) s = .next t ∧
      s.wrote t d (BitVec.ofNat 64 (scaleXCode ((s.reg a).toNat % 2 ^ 32) f)) (s.pc + 4)) ∧
    (∀ src dst, ∃ t, exec (.fcvt d a src dst m) s = .next t ∧
      s.wrote t d (BitVec.ofNat 64 (convBits 64 src dst ovNone m (s.reg a).toNat)) (s.pc + 4))

/-- Conditional branches with whether they are taken for operands x and y (R332). -/
def Sys2Proof.Machine.branchResults (a b : Reg) (off : BitVec 16) (x y : Word) : List (Instr × Bool) :=
  [(.beq a b off, decide (x = y)), (.bne a b off, decide (x ≠ y)), (.blt a b off, decide (x.toInt < y.toInt)),
   (.bge a b off, decide (y.toInt ≤ x.toInt)), (.bltu a b off, decide (x.toNat < y.toNat)), (.bgeu a b off, decide (y.toNat ≤ x.toNat))]

/-- R332, R333: a taken branch continues at the pc plus four times its signed offset, an untaken one at the next word, and a branch waits while an
operand is pending; JAL and JALR write pc + 4 to the link register and continue at their target, JALR's from the old value of its operand with bits
[1:0] cleared. -/
def Obligations.BranchesAndJumps : Prop :=
  (∀ (s : State) (a b : Reg) (off : BitVec 16), s.ready [a, b] →
    ∀ c ∈ branchResults a b off (s.reg a) (s.reg b),
      ∃ t, exec c.1 s = .next t ∧ s.wrote t 0 0 (if c.2 then s.pc + 4 * off.signExtend 64 else s.pc + 4)) ∧
  (∀ (s : State) (a b : Reg) (off : BitVec 16), s.isPending a = true ∨ s.isPending b = true →
    ∀ c ∈ branchResults a b off (s.reg a) (s.reg b), exec c.1 s = .next s) ∧
  (∀ (s : State) (d a : Reg) (off : BitVec 21) (i : BitVec 16),
    (s.ready [d] → ∃ t, exec (.jal d off) s = .next t ∧ s.wrote t d (s.pc + 4) (s.pc + 4 * off.signExtend 64)) ∧
    (s.ready [d, a] → ∃ t p, exec (.jalr d a i) s = .next t ∧ s.wrote t d (s.pc + 4) p ∧
      p.toNat = (s.reg a + i.signExtend 64).toNat / 4 * 4))

/-! ## Memory of the control core -/

/-- An order that data memory takes: plain, or release and acquire at a scope, which has no effect there (R239). -/
def Sys2Proof.Machine.dataOrder (o : Ord) : Prop := o = .plain ∨ ∃ sc, o = .sync sc

/-- An address of `n` bytes in the data memory, aligned: bits [63:16] are zero (R238). -/
def Sys2Proof.Machine.inDataMemory (ea : Word) (n : Nat) : Prop := ea.toNat % n = 0 ∧ ea.toNat + n ≤ 65536

/-- R325, R238: LD and LDX from the data memory write the bytes at the effective address, zero-extended, and change nothing else. What an
acquire fence still has to do to the core's banks comes first. -/
def Obligations.DataMemoryLoads : Prop :=
  ∀ (s : State) (d base : Reg) (o : Ord) (z : Sz) (f9 : BitVec 9) (f7 : BitVec 7), s.ready [d, base] → s.unfenced → dataOrder o →
    (inDataMemory (s.reg base + f9.signExtend 64 * BitVec.ofNat 64 z.bytes) z.bytes → ∃ t, exec (.ld d base o z f9) s = .next t ∧
      s.fenceAction.wrote t d
        (BitVec.ofNat 64 (leNat (s.fenceAction.bytes
          (dmemKey s.me (s.reg base + f9.signExtend 64 * BitVec.ofNat 64 z.bytes).toNat) z.bytes))) (s.pc + 4)) ∧
    (inDataMemory (s.reg base + f7.signExtend 64 * BitVec.ofNat 64 z.bytes) z.bytes → ∃ t, exec (.ldx d base o z .g f7) s = .next t ∧
      s.fenceAction.wrote t d
        (BitVec.ofNat 64 (leNat (s.fenceAction.bytes
          (dmemKey s.me (s.reg base + f7.signExtend 64 * BitVec.ofNat 64 z.bytes).toNat) z.bytes))) (s.pc + 4))

/-- R325, R238: ST and STX to the data memory store the low bytes of the register at the effective address, low byte first; every other
byte of memory and every register but the pc are as before. -/
def Obligations.DataMemoryStores : Prop :=
  ∀ (s : State) (v base : Reg) (o : Ord) (z : Sz) (f9 : BitVec 9) (f7 : BitVec 7), s.ready [v, base] → s.unfenced → dataOrder o →
    (inDataMemory (s.reg base + f9.signExtend 64 * BitVec.ofNat 64 z.bytes) z.bytes → ∃ t, exec (.st v base o z f9) s = .next t ∧
      s.fenceAction.ctlWrote t s.reg (s.pc + 4) ∧
      s.fenceAction.storedAt t (dmemKey s.me (s.reg base + f9.signExtend 64 * BitVec.ofNat 64 z.bytes).toNat)
        (leBytes z.bytes (s.reg v).toNat)) ∧
    (inDataMemory (s.reg base + f7.signExtend 64 * BitVec.ofNat 64 z.bytes) z.bytes → ∃ t, exec (.stx v base o z .g f7) s = .next t ∧
      s.fenceAction.ctlWrote t s.reg (s.pc + 4) ∧
      s.fenceAction.storedAt t (dmemKey s.me (s.reg base + f7.signExtend 64 * BitVec.ofNat 64 z.bytes).toNat)
        (leBytes z.bytes (s.reg v).toNat))

/-- A number of `w` bits as a signed integer (R2). -/
def Sys2Proof.Machine.signedOf (w x : Nat) : Int := if x < 2 ^ (w - 1) then x else x - 2 ^ w

/-- The atomics of a size with the value they write for an old value and an operand (R182). -/
def Sys2Proof.Machine.amoResults (d base : Reg) (o : Ord) (dword : Bool) (off : BitVec 6) (old v : Nat) : List (Instr × Nat) :=
  let w := if dword then 64 else 32
  [(.amoAdd d base o dword off, (old + v) % 2 ^ w), (.amoAnd d base o dword off, old &&& v), (.amoOr d base o dword off, old ||| v),
   (.amoXor d base o dword off, old ^^^ v),
   (.amoMin d base o dword off, if signedOf w v < signedOf w old then v else old),
   (.amoMax d base o dword off, if signedOf w old < signedOf w v then v else old),
   (.amoMinu d base o dword off, Min.min old v), (.amoMaxu d base o dword off, Max.max old v), (.amoXchg d base o dword off, v)]

/-- The two floating-point atomics, of words only (R182). -/
def Sys2Proof.Machine.amoFloatResults (d base : Reg) (o : Ord) (off : BitVec 6) (old v : Nat) : List (Instr × Nat) :=
  [(.amoFadd d base o off, roundFV .f32 ovNone .rne (fvAdd .rne (fpVal .f32 old) (fpVal .f32 v))),
   (.amoFabsmax d base o off,
    if fpVal .f32 old = .nan ∨ fpVal .f32 v = .nan then 0x7FC00000 else Max.max (old % 2 ^ 31) (v % 2 ^ 31))]

/-- The effect of an atomic that performs in the data memory: the register holds what stood there, and the new value stands there now. -/
def Sys2Proof.Machine.atomicDone (s t : State) (d : Reg) (key n : Nat) (new : Nat) : Prop :=
  s.ctlWrote t (s.regsWith d (BitVec.ofNat 64 (leNat (s.bytes key n)))) (s.pc + 4) ∧ s.storedAt t key (leBytes n new)

/-- R182, R329: an AMO on the data memory writes the new value of its table row and returns the old one, zero-extended. -/
def Obligations.DataMemoryAtomics : Prop :=
  ∀ (s : State) (d base : Reg) (o : Ord) (dword : Bool) (off : BitVec 6), s.ready [d, base] → s.unfenced → dataOrder o →
    (inDataMemory (s.reg base + off.signExtend 64 * BitVec.ofNat 64 (szOf dword).bytes) (szOf dword).bytes →
      ∀ c ∈ amoResults d base o dword off
          (leNat (s.fenceAction.bytes (dmemKey s.me (s.reg base + off.signExtend 64 * BitVec.ofNat 64 (szOf dword).bytes).toNat)
            (szOf dword).bytes))
          ((s.reg d).toNat % 2 ^ (8 * (szOf dword).bytes)),
        ∃ t, exec c.1 s = .next t ∧
          atomicDone s.fenceAction t d (dmemKey s.me (s.reg base + off.signExtend 64 * BitVec.ofNat 64 (szOf dword).bytes).toNat)
            (szOf dword).bytes c.2) ∧
    (inDataMemory (s.reg base + off.signExtend 64 * 4) 4 →
      ∀ c ∈ amoFloatResults d base o off
          (leNat (s.fenceAction.bytes (dmemKey s.me (s.reg base + off.signExtend 64 * 4).toNat) 4)) ((s.reg d).toNat % 2 ^ 32),
        ∃ t, exec c.1 s = .next t ∧
          atomicDone s.fenceAction t d (dmemKey s.me (s.reg base + off.signExtend 64 * 4).toNat) 4 c.2)

/-- R183, R330: CAS and CAS16 on the data memory write the new value only where the old one is what they expect, and return the old one
either way, CAS16 in two registers. -/
def Obligations.DataMemoryCas : Prop :=
  ∀ (s : State) (d base n : Reg) (o : Ord) (dword : Bool) (off : BitVec 5), s.unfenced → dataOrder o →
    (s.ready [d, base, n] →
      let z := (szOf dword).bytes
      let ea := s.reg base + off.signExtend 64 * BitVec.ofNat 64 z
      let key := dmemKey s.me ea.toNat
      let old := leNat (s.fenceAction.bytes key z)
      inDataMemory ea z → ∃ t, exec (.cas d base o n dword off) s = .next t ∧
        s.fenceAction.ctlWrote t (s.regsWith d (BitVec.ofNat 64 old)) (s.pc + 4) ∧
        (if old = (s.reg d).toNat % 2 ^ (8 * z) then s.fenceAction.storedAt t key (leBytes z (s.reg n).toNat)
         else s.fenceAction.onlyCores t)) ∧
    (s.ready [d, d + 1, base, n, n + 1] →
      let ea := s.reg base + off.signExtend 64 * 16
      let key := dmemKey s.me ea.toNat
      let old := s.fenceAction.bytes key 16
      inDataMemory ea 16 → ∃ t, exec (.cas16 d base o n off) s = .next t ∧
        s.fenceAction.ctlWrote t
          (fun r => if r = 0 then 0 else if r = d + 1 then BitVec.ofNat 64 (leNat (old.drop 8))
            else if r = d then BitVec.ofNat 64 (leNat (old.take 8)) else s.reg r) (s.pc + 4) ∧
        (if leNat old = (s.reg d).toNat + (s.reg (d + 1)).toNat * 2 ^ 64 then
          s.fenceAction.storedAt t key (leBytes 8 (s.reg n).toNat ++ leBytes 8 (s.reg (n + 1)).toNat)
         else s.fenceAction.onlyCores t))

/-- The memory instructions of the control core, with what each asks of memory (R325 to R330). -/
def Sys2Proof.Machine.memoryForms (s : State) (d base n : Reg) (o : Ord) (z : Sz) (sp : Sp) (dw : Bool) (f9 : BitVec 9) (f7 : BitVec 7)
    (f6 : BitVec 6) (f5 : BitVec 5) : List (Instr × List Reg × ReqOp × Option Sp × Word × Nat × List Byte × List Byte × Dest) :=
  let at_ : Word → Nat → Word := fun off size => s.reg base + off * BitVec.ofNat 64 size
  let x := (szOf dw).bytes
  let amo : BitVec 4 → ReqOp × Option Sp × Word × Nat × List Byte × List Byte × Dest := fun k =>
    (.amo k, atomicSpace (at_ (f6.signExtend 64) x), at_ (f6.signExtend 64) x, x, leBytes x (s.reg d).toNat, [], .reg d (szOf dw))
  let amoW : BitVec 4 → ReqOp × Option Sp × Word × Nat × List Byte × List Byte × Dest := fun k =>
    (.amo k, atomicSpace (at_ (f6.signExtend 64) 4), at_ (f6.signExtend 64) 4, 4, leBytes 4 (s.reg d).toNat, [], .reg d .w)
  [(.ld d base o z f9, [d, base], .read, some .g, at_ (f9.signExtend 64) z.bytes, z.bytes, [], [], .reg d z),
   (.ldx d base o z sp f7, [d, base], .read, some sp, at_ (f7.signExtend 64) z.bytes, z.bytes, [], [], .reg d z),
   (.st d base o z f9, [d, base], .write, some .g, at_ (f9.signExtend 64) z.bytes, z.bytes, leBytes z.bytes (s.reg d).toNat, [], .store),
   (.stx d base o z sp f7, [d, base], .write, some sp, at_ (f7.signExtend 64) z.bytes, z.bytes, leBytes z.bytes (s.reg d).toNat, [], .store),
   (.amoAdd d base o dw f6, [d, base], amo 0), (.amoAnd d base o dw f6, [d, base], amo 1), (.amoOr d base o dw f6, [d, base], amo 2),
   (.amoXor d base o dw f6, [d, base], amo 3), (.amoMin d base o dw f6, [d, base], amo 4), (.amoMax d base o dw f6, [d, base], amo 5),
   (.amoMinu d base o dw f6, [d, base], amo 6), (.amoMaxu d base o dw f6, [d, base], amo 7), (.amoXchg d base o dw f6, [d, base], amo 8),
   (.amoFadd d base o f6, [d, base], amoW 9), (.amoFabsmax d base o f6, [d, base], amoW 10),
   (.cas d base o n dw f5, [d, base, n], .cas, atomicSpace (at_ (f5.signExtend 64) x), at_ (f5.signExtend 64) x, x,
    leBytes x (s.reg n).toNat, leBytes x (s.reg d).toNat, .reg d (szOf dw)),
   (.cas16 d base o n f5, [d, d + 1, base, n, n + 1], .cas16, atomicSpace (at_ (f5.signExtend 64) 16), at_ (f5.signExtend 64) 16, 16,
    leBytes 8 (s.reg n).toNat ++ leBytes 8 (s.reg (n + 1)).toNat, leBytes 8 (s.reg d).toNat ++ leBytes 8 (s.reg (d + 1)).toNat, .pair d)]

/-- A memory operation as its checks see it: atomics access their address with bits [63:62] cleared (R328). -/
def Sys2Proof.Machine.memOpOf (o : Ord) (op : ReqOp) (sp : Sp) (named : Word) (size : Nat) (data expect : List Byte) (dest : Dest) : MemOp :=
  let atomic : Bool := match op with
    | .read => false
    | .write => false
    | _ => true
  { op := op, sp := sp, ea := if atomic then atomicAddr named else named, named := named, size := size, ord := o, data := data,
    expect := expect, dest := dest }

/-- R317, R327, R329: an access outside the data memory that its checks let pass and that no bank line serves leaves as one request to its
home: the access is outstanding with its operation, place, data and destination, the core goes on at the next word, and no general register
changes before the answer. -/
def Obligations.FarAccesses : Prop :=
  ∀ (s : State) (d base n : Reg) (o : Ord) (z : Sz) (sp : Sp) (dw : Bool) (f9 : BitVec 9) (f7 : BitVec 7) (f6 : BitVec 6) (f5 : BitVec 5),
    s.unfenced →
    ∀ c ∈ memoryForms s d base n o z sp dw f9 f7 f6 f5, ∀ (space : Sp) (l : Loc) (a : Attr) (s2 : State),
      s.ready c.2.1 → c.2.2.2.1 = some space →
      let m := memOpOf o c.2.2.1 space c.2.2.2.2.1 c.2.2.2.2.2.1 c.2.2.2.2.2.2.1 c.2.2.2.2.2.2.2.1 c.2.2.2.2.2.2.2.2
      (space = .g ∨ dataOrder o) → m.ea.toNat % m.size = 0 → m.page0 = false → s.countFull m = false →
      s.fenceAction.bankServes m = none → s.fenceAction.place s.me space m.ea m.size m.acc = (.at l a, s2) →
      ∃ t x, exec c.1 s = .next t ∧ t.net.accesses = s2.net.accesses ++ [x] ∧ x.id = s2.net.nextId ∧ x.agent = .ctl s2.cur ∧
        x.op = m.op ∧ x.loc = l ∧ x.size = m.size ∧ x.data = m.data ∧ x.expect = m.expect ∧ x.dest = m.dest ∧
        (∀ r, t.reg r = s2.reg r) ∧ t.pc = s2.pc + 4 ∧ (∃ p ∈ t.net.packets, p.access = x.id ∧ p.kind = m.op.kind ∧ p.payload = m.data)

/-- R208, R325, R328: a misaligned access, an atomic whose address names no space, and one whose address does not translate fault before they
have any effect, with the cause and the address given. -/
def Obligations.AccessFaults : Prop :=
  ∀ (s : State) (d base n : Reg) (o : Ord) (z : Sz) (sp : Sp) (dw : Bool) (f9 : BitVec 9) (f7 : BitVec 7) (f6 : BitVec 6) (f5 : BitVec 5),
    s.unfenced →
    ∀ c ∈ memoryForms s d base n o z sp dw f9 f7 f6 f5, s.ready c.2.1 →
      (c.2.2.2.1 = none → ∃ t, exec c.1 s = .next t ∧ s.faulted t 0x01 0) ∧
      ∀ space, c.2.2.2.1 = some space → (space = .g ∨ dataOrder o) →
        let m := memOpOf o c.2.2.1 space c.2.2.2.2.1 c.2.2.2.2.2.1 c.2.2.2.2.2.2.1 c.2.2.2.2.2.2.2.1 c.2.2.2.2.2.2.2.2
        (m.ea.toNat % m.size ≠ 0 → (m.page0 = true → o ≠ .sc) →
          ∃ t, exec c.1 s = .next t ∧ s.faulted t (if m.atomic then 0x12 else 0x03) m.named) ∧
        (m.ea.toNat % m.size = 0 → m.page0 = false → s.countFull m = false → s.fenceAction.bankServes m = none →
          ∀ cause s2, s.fenceAction.place s.me space m.ea m.size m.acc = (.fault cause, s2) →
            ∃ t, exec c.1 s = .next t ∧ s2.faulted t cause m.named)

/-- What an access of an order that its bank serves does to the core's banks besides: an acquire drops its lines (R170). -/
def Sys2Proof.Machine.State.acquired (s : State) (o : Ord) : State :=
  match o with
  | .sync sc => s.acquireBanks s.me sc
  | _ => s

/-- What a store of an order that its bank serves does to the core's banks besides: behind a release, what they hold dirty comes before later writes
(R170, R175; log entry 117, DEDUCED). -/
def Sys2Proof.Machine.State.releasedBy (s : State) (o : Ord) : State :=
  match o with
  | .sync sc => s.releaseBanks s.me sc
  | _ => s

/-- R40, R166, R168, R176: a load or store that a bank line may serve, and that the bank does serve, completes there, where no error has struck
what it needs: the load's register holds the line's bytes; the store's bytes are in the line and dirty, a unit that they cover whole is good
again, and no request leaves. A delivered copy serves its core's reads whatever the bank would do (the free value of assumption 5). An error
is logged, and the access faults. -/
def Obligations.BankAccesses : Prop :=
  ∀ (s : State) (d base : Reg) (o : Ord) (z : Sz) (off : BitVec 9) (b : BankLine), s.ready [d, base] → s.unfenced → dataOrder o →
    s.ctl.acqScope = none →
    let ea := s.reg base + off.signExtend 64 * BitVec.ofNat 64 z.bytes
    let at_ := ea.toNat % 128
    let bs := leBytes z.bytes (s.reg d).toNat
    ea.toNat % z.bytes = 0 → 65536 ≤ ea.toNat →
    (s.lcnt s.me < 63 → s.bankServes (memOpOf o .read .g ea z.bytes [] [] (.reg d z)) = some b →
      Config.bankHit s.draws = true ∨ s.fromCopy s.me ea.toNat b = true →
      (b.stops at_ z.bytes false = false → ∃ t, exec (.ld d base o z off) s = .next t ∧
        ((s.drawn.bankTouch b).acquired o).wrote t d (BitVec.ofNat 64 (leNat (((lineBytes b.data).drop at_).take z.bytes))) (s.pc + 4)) ∧
      (b.stops at_ z.bytes false = true → ∃ t, exec (.ld d base o z off) s = .next t ∧ (s.drawn.logBank b at_).faulted t 0x0A ea)) ∧
    (s.scnt s.me < 63 → Config.bankHit s.draws = true → s.bankServes (memOpOf o .write .g ea z.bytes bs [] .store) = some b →
      (b.stops at_ z.bytes true = false → ∃ t, exec (.st d base o z off) s = .next t ∧ s.drawn.ctlWrote t s.reg (s.pc + 4) ∧
        t.m.mem = s.m.mem ∧ t.net = s.net ∧
        t.m.banks = (({ s with m := { s.m with banks := s.m.banks.map (fun c => if c = b then
          { b with data := linePatch b.data at_ bs, dirty := b.dirty ||| BitVec.ofNat 128 ((2 ^ z.bytes - 1) * 2 ^ at_),
                   bad := b.bad &&& ~~~(BitVec.ofNat 16 (maskOf (unitsWhole at_ z.bytes))) } else c) } } : State).releasedBy o).m.banks) ∧
      (b.stops at_ z.bytes true = true → ∃ t, exec (.st d base o z off) s = .next t ∧ (s.drawn.logBank b at_).faulted t 0x0A ea))

/-- R331: each FENCE completes at once and holds later accesses by the lists it extends; an acquire names the loads and atomics of the core
that are outstanding, a release and a full fence every outstanding access and delivery. -/
def Obligations.Fences : Prop :=
  ∀ (s : State) (sc : Scope),
    (∃ t, exec (.fenceAcq sc) s = .next t ∧ t.pc = s.pc + 4 ∧ (∀ r, t.reg r = s.reg r) ∧
      t.ctl.acqWait = s.ctl.acqWait ++ s.fenceIds false ∧ t.ctl.relWait = s.ctl.relWait ∧ t.ctl.fullWait = s.ctl.fullWait ∧
      t.ctl.acqScope = widerScope s.ctl.acqScope sc ∧ s.onlyCores t) ∧
    (∃ t, exec (.fenceRel sc) s = .next t ∧ t.pc = s.pc + 4 ∧ (∀ r, t.reg r = s.reg r) ∧
      t.ctl.relWait = s.ctl.relWait ++ s.openIds (.ctl s.cur) ∧ t.ctl.acqWait = s.ctl.acqWait ∧ t.ctl.fullWait = s.ctl.fullWait ∧
      t.m = (s.releaseBanks s.me sc).m) ∧
    (∃ t, exec (.fenceAr sc) s = .next t ∧ t.pc = s.pc + 4 ∧ (∀ r, t.reg r = s.reg r) ∧
      t.ctl.relWait = s.ctl.relWait ++ s.openIds (.ctl s.cur) ∧ t.ctl.acqWait = s.ctl.acqWait ++ s.fenceIds false ∧
      t.ctl.fullWait = s.ctl.fullWait ∧ t.m = (s.releaseBanks s.me sc).m) ∧
    (∃ t, exec (.fenceFull sc) s = .next t ∧ t.pc = s.pc + 4 ∧ (∀ r, t.reg r = s.reg r) ∧
      t.ctl.relWait = s.ctl.relWait ++ s.openIds (.ctl s.cur) ∧ t.ctl.acqWait = s.ctl.acqWait ++ s.fenceIds false ∧
      t.ctl.fullWait = s.ctl.fullWait ++ s.openIds (.ctl s.cur) ∧ t.m = (s.releaseBanks s.me sc).m)

/-! ## Waiting, traps and system registers -/

/-- The instructions that name registers, with the registers each names (R291, R316). -/
def Sys2Proof.Machine.namedRegs : Instr → List Reg
  | .add d a b | .sub d a b | .and d a b | .or d a b | .xor d a b | .shl d a b | .shr d a b | .sra d a b | .slt d a b | .sltu d a b
  | .min d a b | .max d a b | .minu d a b | .maxu d a b | .mul d a b | .mulh d a b | .mulhu d a b | .div d a b | .divu d a b
  | .rem d a b | .remu d a b | .lea d a b _ | .fadd d a b _ | .fsub d a b _ | .fmul d a b _ | .fdiv d a b _ | .fmin d a b _
  | .fmax d a b _ | .fcmp d a b _ _ => [d, a, b]
  | .clz d a | .ctz d a | .popc d a | .bswap d a | .addi d a _ | .andi d a _ | .ori d a _ | .xori d a _ | .slti d a _ | .sltiu d a _
  | .shli d a _ | .shri d a _ | .srai d a _ | .fsqrt d a _ | .fcvt d a _ _ _ | .fclass d a _ | .scalex d a _ _ | .jalr d a _
  | .sprint d a _ _ _ _ => [d, a]
  | .liz d _ _ | .lik d _ _ | .jal d _ | .cfgreq d _ | .sprintLsn d _ _ | .tstamp d | .mfs d _ | .wfe d _ => [d]
  | .ld d base _ _ _ | .st d base _ _ _ | .ldx d base _ _ _ _ | .stx d base _ _ _ _ | .amoAdd d base _ _ _ | .amoAnd d base _ _ _
  | .amoOr d base _ _ _ | .amoXor d base _ _ _ | .amoMin d base _ _ _ | .amoMax d base _ _ _ | .amoMinu d base _ _ _
  | .amoMaxu d base _ _ _ | .amoXchg d base _ _ _ | .amoFadd d base _ _ | .amoFabsmax d base _ _ => [d, base]
  | .cas d base _ n _ _ => [d, base, n]
  | .cas16 d base _ n _ => [d, d + 1, base, n, n + 1]
  | .beq a b _ | .bne a b _ | .blt a b _ | .bge a b _ | .bltu a b _ | .bgeu a b _ => [a, b]
  | .stream a _ | .gather a | .copyMem a | .copyMc a | .ckpt a _ | .trap a _ => [a]
  | .mark x a _ _ | .markEor x a _ | .send x a _ _ | .tinv x a | .tinvAll x a | .bar x a _ _ _ => [x, a]
  | .mts x _ => [x]
  | _ => []

/-- R316: an instruction that names a register awaiting the result of an earlier one waits at issue, and nothing changes. -/
def Obligations.PendingWaits : Prop :=
  ∀ (i : Instr) (s : State), (∃ r ∈ namedRegs i, s.isPending r = true) → exec i s = .next s

/-- R355 to R357, R361: SYSC and BKPT take their traps behind the instruction, with their immediates as the trap value; a cell's SYSC 0 ends
its program; TRAP traps where its operand is not zero and otherwise goes on. In firmware mode RTE of a handler continues at TRAPPC with INTRAP
clear and HALT stops the core; RTE outside a handler is ILLEGAL, and both are PRIV in user mode. In a handler of die firmware each of the three traps
begins a restart of its die instead, which resets the hub core's control core and pauses dispatch (R96, R97: the third within 1 s becomes a warm
reset). -/
def Obligations.TrapsAndReturns : Prop :=
  ∀ (s : State) (i : BitVec 16) (a : Reg),
    (s.firmware = false →
      (∃ t, exec (.sysc i) s = .next t ∧
        s.trapped t 0x0F (i.setWidth 64) (s.pc + 4) (if i = 0 then .ended else .stopped) s.cr.inTrap s.pc) ∧
      (∃ t, exec (.bkpt i) s = .next t ∧ s.trapped t 0x0E (i.setWidth 64) (s.pc + 4) .stopped s.cr.inTrap s.pc) ∧
      (s.ready [a] → s.reg a ≠ 0 → ∃ t, exec (.trap a i) s = .next t ∧
        s.trapped t 0x0F (0x10000 + i.setWidth 64) (s.pc + 4) .stopped s.cr.inTrap s.pc)) ∧
    (s.firmware = true → s.cr.inTrap = false →
      (∃ t, exec (.sysc i) s = .next t ∧ s.trapped t 0x0F (i.setWidth 64) (s.pc + 4) s.ctl.run true 0x40) ∧
      (∃ t, exec (.bkpt i) s = .next t ∧ s.trapped t 0x0E (i.setWidth 64) (s.pc + 4) s.ctl.run true 0x40) ∧
      (s.ready [a] → s.reg a ≠ 0 → ∃ t, exec (.trap a i) s = .next t ∧
        s.trapped t 0x0F (0x10000 + i.setWidth 64) (s.pc + 4) s.ctl.run true 0x40)) ∧
    (s.firmware = true → s.cr.inTrap = true →
      (exec (.sysc i) s = .next (s.dieRestart (BitVec.ofNat 3 (s.me / 16))) ∧ exec (.bkpt i) s = .next (s.dieRestart (BitVec.ofNat 3 (s.me / 16))) ∧
        (s.ready [a] → s.reg a ≠ 0 → exec (.trap a i) s = .next (s.dieRestart (BitVec.ofNat 3 (s.me / 16))))) ∧
      ((s.boot.restarts.filter (fun r => r.1 == BitVec.ofNat 3 (s.me / 16) && decide (s.time.cycle < r.2 + 2000000000))).length < 2 →
        let t := s.dieRestart (BitVec.ofNat 3 (s.me / 16))
        t.ctlAt (s.me / 16 * 16) = Ctl.reset true ∧ t.boot.restarting.getLsbD (s.me / 16) = true ∧ t.sched.paused = true)) ∧
    (s.ready [a] → s.reg a = 0 → ∃ t, exec (.trap a i) s = .next t ∧ s.wrote t 0 0 (s.pc + 4)) ∧
    (s.firmware = true → s.cr.inTrap = true → ∃ t, exec .rte s = .next t ∧ t.cr = { s.cr with inTrap := false, pc := s.cr.trapPc } ∧
      { t.ctl with r := s.cr } = s.ctl ∧ s.onlyCtl t) ∧
    (s.firmware = true → s.cr.inTrap = false → ∃ t, exec .rte s = .next t ∧ s.faulted t 0x01 0) ∧
    (s.firmware = false → ∃ t, exec .rte s = .next t ∧ s.faulted t 0x02 0) ∧
    (s.firmware = true → ∃ t, exec .halt s = .next t ∧ t.ctl = { s.ctl with run := .halted } ∧ s.onlyCtl t) ∧
    (s.firmware = false → ∃ t, exec .halt s = .next t ∧ s.faulted t 0x02 0)

/-- The system registers that MFS reads as they stand, with their values; PTPNS, which latches the seconds, is not among them (R303). -/
def Sys2Proof.Machine.sysRegs (s : State) : List (BitVec 12 × Word) :=
  let occ := (s.core s.me).occ
  [(0x000, match occ with | some o => o.cell.setWidth 64 | none => 0), (0x001, BitVec.ofNat 64 (s.me % 16)),
   (0x002, BitVec.ofNat 64 (s.me / 16)), (0x003, match occ with | some o => o.queue.setWidth 64 | none => 0),
   (0x004, BitVec.ofNat 64 ((if s.cr.firmware then 1 else 0) + (if s.cr.inTrap then 2 else 0) +
      (if (s.thr (s.me / 16)).toNat < 16 then 4 else 0))),
   (0x021, s.cr.ptpSec.setWidth 64), (0x030, s.waitcnt s.me), (0x031, s.cr.swapCnt), (0x040, BitVec.ofNat 64 s.plane.frame),
   (0x041, s.cr.spTarget), (0x042, s.cr.spGrant.setWidth 64)]

/-- The system registers that only firmware mode reads (R303). -/
def Sys2Proof.Machine.privRegs (s : State) : List (BitVec 12 × Word) :=
  [(0x010, s.cr.trapCause.setWidth 64), (0x011, s.cr.trapPc), (0x012, s.cr.trapVal), (0x100, s.cr.fwDog.setWidth 64)]

/-- R65, R303, R350, R358: MFS reads each system register; the trap registers and FWDOG are PRIV in user mode; a number that names no register
is ILLEGAL. A read of the time, by MFS of PTPNS or by TSTAMP, latches the seconds of the same time into PTPSEC; TSTAMP writes nanoseconds
and fraction, PTPNS nanoseconds and fraction below bit 48. The cycles that have passed are free (assumption 4). -/
def Obligations.SystemRegisterReads : Prop :=
  ∀ (s : State) (d : Reg), s.ready [d] →
    (∀ c ∈ sysRegs s, ∃ t, exec (.mfs d c.1) s = .next t ∧ s.wrote t d c.2 (s.pc + 4)) ∧
    (∀ c ∈ privRegs s,
      (s.firmware = true → ∃ t, exec (.mfs d c.1) s = .next t ∧ s.wrote t d c.2 (s.pc + 4)) ∧
      (s.firmware = false → ∃ t, exec (.mfs d c.1) s = .next t ∧ s.faulted t 0x02 0)) ∧
    (∀ r, r ∉ (sysRegs s).map Prod.fst → r ∉ (privRegs s).map Prod.fst → r ≠ 0x020 →
      ∃ t, exec (.mfs d r) s = .next t ∧ s.faulted t 0x01 0) ∧
    (∃ t, exec (.tstamp d) s = .next t ∧
      (∀ n, t.reg n = s.regsWith d (BitVec.ofNat 64 ((t.timeOf (reticleOf s.me)).toNat % 2 ^ 64)) n) ∧
      t.cr.ptpSec = BitVec.ofNat 48 ((t.timeOf (reticleOf s.me)).toNat / 2 ^ 48) ∧ t.pc = s.pc + 4 ∧ t.m = s.m ∧
      s.time.cycle ≤ t.time.cycle) ∧
    (∃ t, exec (.mfs d 0x020) s = .next t ∧
      (∀ n, t.reg n = s.regsWith d (BitVec.ofNat 64 ((t.timeOf (reticleOf s.me)).toNat % 2 ^ 48)) n) ∧
      t.cr.ptpSec = BitVec.ofNat 48 ((t.timeOf (reticleOf s.me)).toNat / 2 ^ 48) ∧ t.pc = s.pc + 4 ∧ t.m = s.m)

/-- R303, R359: MTS writes SPTARGET in either mode, and in firmware mode the trap registers, SPGRANT and FWDOG, whose countdown starts;
a firmware write of a read-only register has no effect; in user mode a write of any other register is PRIV, and a number that names no register
is ILLEGAL. -/
def Obligations.WriteSystemRegister : Prop :=
  ∀ (s : State) (x : Reg), s.ready [x] →
    let v := s.reg x
    let wrote : State → CtlRegs → Prop := fun t r =>
      t.cr = { r with pc := s.pc + 4 } ∧ { t.ctl with r := s.cr, dogEnd := s.ctl.dogEnd } = s.ctl ∧ s.onlyCtl t
    (∃ t, exec (.mts x 0x041) s = .next t ∧ wrote t { s.cr with spTarget := v } ∧ t.ctl.dogEnd = s.ctl.dogEnd) ∧
    (s.firmware = true →
      (∃ t, exec (.mts x 0x010) s = .next t ∧ wrote t { s.cr with trapCause := v.setWidth 8 } ∧ t.ctl.dogEnd = s.ctl.dogEnd) ∧
      (∃ t, exec (.mts x 0x011) s = .next t ∧ wrote t { s.cr with trapPc := v } ∧ t.ctl.dogEnd = s.ctl.dogEnd) ∧
      (∃ t, exec (.mts x 0x012) s = .next t ∧ wrote t { s.cr with trapVal := v } ∧ t.ctl.dogEnd = s.ctl.dogEnd) ∧
      (∃ t, exec (.mts x 0x042) s = .next t ∧ wrote t { s.cr with spGrant := v.setWidth 16 } ∧ t.ctl.dogEnd = s.ctl.dogEnd) ∧
      (∃ t, exec (.mts x 0x100) s = .next t ∧ wrote t { s.cr with fwDog := v.setWidth 32 } ∧
        t.ctl.dogEnd = s.time.cycle + 2000 * (v.toNat % 2 ^ 32)) ∧
      (∀ r ∈ ([0x000, 0x001, 0x002, 0x003, 0x004, 0x020, 0x021, 0x030, 0x031, 0x040] : List (BitVec 12)),
        ∃ t, exec (.mts x r) s = .next t ∧ s.wrote t 0 0 (s.pc + 4))) ∧
    (s.firmware = false → ∀ r ∈ ((sysRegs s).map Prod.fst ++ (privRegs s).map Prod.fst ++ [0x020]), r ≠ 0x041 →
      ∃ t, exec (.mts x r) s = .next t ∧ s.faulted t 0x02 0) ∧
    (∀ r, r ∉ (sysRegs s).map Prod.fst → r ∉ (privRegs s).map Prod.fst → r ≠ 0x020 →
      ∃ t, exec (.mts x r) s = .next t ∧ s.faulted t 0x01 0)

/-- R342, R360: WAIT goes on once no count exceeds its limit and stalls before; WFE takes the pending events that it lists, clears them and
returns them, stalls while none is pending, and is ILLEGAL for a mask of zero or of unassigned bits. -/
def Obligations.Waits : Prop :=
  ∀ (s : State),
    (∀ l sc c t : BitVec 6,
      (s.lcnt s.me ≤ l.toNat ∧ s.scnt s.me ≤ sc.toNat ∧ s.ccnt s.me ≤ c.toNat ∧ s.tcnt s.me ≤ t.toNat →
        ∃ u : State, exec (.wait l sc c t) s = .next u ∧ s.wrote u 0 0 (s.pc + 4)) ∧
      (l.toNat < s.lcnt s.me ∨ sc.toNat < s.scnt s.me ∨ c.toNat < s.ccnt s.me ∨ t.toNat < s.tcnt s.me →
        exec (.wait l sc c t) s = .next s)) ∧
    (∀ (d : Reg) (m : BitVec 16), s.ready [d] →
      (m.toNat < 64 → s.cr.evPend &&& m.setWidth 6 ≠ 0 → ∃ t, exec (.wfe d m) s = .next t ∧
        (∀ n, t.reg n = s.regsWith d ((s.cr.evPend &&& m.setWidth 6).setWidth 64) n) ∧
        t.cr.evPend = s.cr.evPend &&& ~~~(m.setWidth 6) ∧ t.pc = s.pc + 4 ∧
        { t.cr with s := s.cr.s, pc := s.pc, evPend := s.cr.evPend } = s.cr ∧ s.onlyCtl t) ∧
      (m ≠ 0 → m.toNat < 64 → s.cr.evPend &&& m.setWidth 6 = 0 → exec (.wfe d m) s = .next s) ∧
      (m = 0 ∨ 64 ≤ m.toNat → ∃ t, exec (.wfe d m) s = .next t ∧ s.faulted t 0x01 0))

/-! ## Streams, marks, engines and requests of the control core -/

/-- R180, R336, R338: STREAM reads its parameter block and, where the block passes its checks, appends the stream to the port's queue, counts one
tile operation and goes on, once the core's banks have written back what they hold dirty; it stalls while the port's queue or the count is full, and
a port that its cell does not use is WAIT_RANGE. -/
def Obligations.StreamIssue : Prop :=
  ∀ (s : State) (a : Reg) (n : BitVec 4), s.ready [a] →
    (s.portUsed s.me n.toNat = false → ∃ t, exec (.stream a n) s = .next t ∧ s.faulted t 0x14 0) ∧
    (s.portUsed s.me n.toNat = true → (63 ≤ s.tcnt s.me ∨ 4 ≤ (s.port s.me n.toNat).queued) → exec (.stream a n) s = .next s) ∧
    (s.portUsed s.me n.toNat = true → s.tcnt s.me < 63 → (s.port s.me n.toNat).queued < 4 →
      ∀ bs t0, s.describes (s.reg a) 64 bs t0 → spbFault (BitVec.ofNat 512 (leNat bs)) = none →
        t0.pktFault t0.me (BitVec.ofNat 512 (leNat bs)) = none →
        ∃ t x, exec (.stream a n) s = .next t ∧
          (t.port s.me n.toNat).items = (t0.port s.me n.toNat).items ++ [.stream x] ∧ x.spb = BitVec.ofNat 512 (leNat bs) ∧
          x.started = false ∧ x.gate = none ∧ x.unit = 0 ∧ t.tcnt s.me = t0.tcnt s.me + 1 ∧ t.pc = t0.pc + 4 ∧
          (∀ r, t.reg r = t0.reg r) ∧ (t0.cleanLines t0.me).onlyCores { t with net := t0.net })

/-- R344: a BAR that gates nothing waits at its port beside at most three others, its window opening with the stream issued last; an EOR of
its level or above that already lies in that window satisfies it at once, which sets BARSAT; one that gates a stream also queues the stream,
which its satisfaction starts. -/
def Obligations.BarrierIssue : Prop :=
  ∀ (s : State) (c a : Reg) (n : BitVec 4) (m : BitVec 2) (l : BitVec 3), s.ready [c, a] →
    s.portUsed s.me n.toNat = true → s.tcnt s.me < 63 → s.ctl.bars.length < 4 → (∀ b ∈ s.ctl.bars, b.port ≠ n) →
    let p := s.port s.me n.toNat
    let hit := 0 < p.issued ∧ p.issued ≤ p.startedNo ∧ ∃ e, p.winEor = some e ∧ l.toNat ≤ e.toNat
    ((m = 0 ∧ a = 0 ∨ m = 2 ∧ s.reg c = 0 ∨ m = 3 ∧ s.reg c ≠ 0) →
      (¬ hit → ∃ t b, exec (.bar c a n m l) s = .next t ∧ t.ctl.bars = s.ctl.bars ++ [b] ∧ b.port = n ∧ b.level = l ∧ b.gated = none ∧
        b.window = p.issued ∧ b.hit = false ∧ t.tcnt s.me = s.tcnt s.me + 1 ∧ t.pc = s.pc + 4 ∧ (∀ r, t.reg r = s.reg r) ∧ t.m = s.m) ∧
      (hit → (∀ b ∈ s.ctl.tops, b.1 < s.net.nextId) → (∀ b ∈ s.ctl.bars, b.op < s.net.nextId) →
        ∃ t, exec (.bar c a n m l) s = .next t ∧ t.ctl.bars = s.ctl.bars ∧ t.cr.evPend.getLsbD 1 = true ∧
          t.tcnt s.me = s.tcnt s.me ∧ t.pc = s.pc + 4 ∧ (∀ r, t.reg r = s.reg r) ∧ t.m = s.m)) ∧
    ((m = 1 ∨ m = 2 ∧ s.reg c ≠ 0 ∨ m = 3 ∧ s.reg c = 0) → p.queued < 4 →
      ∀ bs t0, s.describes (s.reg a) 64 bs t0 → spbFault (BitVec.ofNat 512 (leNat bs)) = none →
        t0.pktFault t0.me (BitVec.ofNat 512 (leNat bs)) = none → (t0.core s.me).ports = (s.core s.me).ports → ¬ hit →
        (∀ b ∈ t0.ctl.bars, b.port ≠ n) →
        ∃ t b x, exec (.bar c a n m l) s = .next t ∧ t.ctl.bars = t0.ctl.bars ++ [b] ∧ b.port = n ∧ b.level = l ∧
          b.gated = some (BitVec.ofNat 512 (leNat bs)) ∧ (t.port s.me n.toNat).items = p.items ++ [.stream x] ∧
          x.spb = BitVec.ofNat 512 (leNat bs) ∧ x.gate = some b.op ∧ x.started = false ∧ t.pc = t0.pc + 4)

/-- R255, R343: MARK places one mark at each port of its mask, behind everything there but gated streams that have not started, and counts
one tile operation; CFG, RST and QSC are PRIV in user mode, and an empty mask is ILLEGAL. -/
def Obligations.MarkIssue : Prop :=
  ∀ (s : State) (x a : Reg) (k : BitVec 4) (i : BitVec 12) (l : BitVec 3), s.ready [x, a] →
    ∀ c ∈ [(Instr.mark x a k i, k.toNat, 0, i.toNat), (Instr.markEor x a l, 0, l.toNat, 0)],
      let mask := (s.reg a).toNat % 65536
      let pl := (s.reg x).toNat
      (mask = 0 → ∃ t, exec c.1 s = .next t ∧ s.faulted t 0x01 0) ∧
      (mask ≠ 0 → markPayloadOk c.2.1 pl = true → (c.2.1 = 5 → pl % 2 ^ 32 = 0) → s.firmware = false →
        (c.2.1 = 1 ∨ c.2.1 = 6 ∨ c.2.1 = 10) → ∃ t, exec c.1 s = .next t ∧ s.faulted t 0x02 0) ∧
      (s.markFault c.2.1 mask pl = none → s.tcnt s.me < 63 →
        ∃ t, exec c.1 s = .next t ∧ t.pc = s.pc + 4 ∧ (∀ r, t.reg r = s.reg r) ∧ t.tcnt s.me = s.tcnt s.me + 1 ∧ t.m = s.m ∧
          ∀ n < 16, (t.port s.me n).items =
            if mask.testBit n then
              placeMark (s.port s.me n).items (.mark (mkMark c.2.1 c.2.2.1 c.2.2.2 (markOrigin s.me 16) pl) s.net.nextId false)
            else (s.port s.me n).items)

/-- R348, R349: SEND takes 128 bytes of the data memory as a token on the binding of its class, costs a credit, and stalls without one; CMASK
sets or clears the class's bit of the port's mask. -/
def Obligations.SendAndMask : Prop :=
  ∀ (s : State),
    (∀ (x a : Reg) (n c : BitVec 4), s.ready [x, a] → (s.reg x).toNat < 32768 → (s.reg x).toNat % 2 = 0 → (s.reg x).toNat / 2 % 16 < 12 →
      (s.reg a).toNat % 128 = 0 → (s.reg a).toNat + 128 ≤ 65536 → ∀ b, s.bindingOf s.me n.toNat c.toNat = some b →
        let tok : Token := ⟨lineOf (s.bytes (dmemKey s.me (s.reg a).toNat) 128), (s.reg x).setWidth 16⟩
        (s.sendBinding s.me n.toNat b tok = none → exec (.send x a n c) s = .next s) ∧
        (∀ u, s.sendBinding s.me n.toNat b tok = some u → ∃ t, exec (.send x a n c) s = .next t ∧
          t.pc = s.pc + 4 ∧ (∀ r, t.reg r = s.reg r) ∧ t.m = s.m ∧ (t.port s.me n.toNat).credits.getD b 0 + 1 = (s.port s.me n.toNat).credits.getD b 0 ∧
          ∃ p ∈ t.net.packets, p.id = s.net.nextId ∧ p.cls = 2 ∧ p.token = tok)) ∧
    (∀ (n c : BitVec 4) (on : Bool), ∃ t, exec (.cmask n on c) s = .next t ∧ t.pc = s.pc + 4 ∧ (∀ r, t.reg r = s.reg r) ∧ t.m = s.m ∧
      t.ctl = { s.ctl with r := { s.cr with pc := s.pc + 4 } } ∧
      (t.port s.me n.toNat).mask =
        if on then (s.port s.me n.toNat).mask ||| BitVec.ofNat 16 (2 ^ c.toNat)
        else (s.port s.me n.toNat).mask &&& ~~~(BitVec.ofNat 16 (2 ^ c.toNat)))

/-- R180, R335, R339 to R341: GATHER and COPY hand their descriptor to the lowest free slot of the reticle's engine, COPY.MC keeps it for its core,
and the core's banks write back what earlier stores have left there;
each counts one engine operation, stalls while the count is full, and a descriptor that breaks its layout is BOUNDS. -/
def Obligations.EngineIssue : Prop :=
  ∀ (s : State) (a : Reg), s.ready [a] →
    (∀ c ∈ [(Instr.gather a, EngKind.gather, badGather), (Instr.copyMem a, EngKind.copy, badCopy)],
      ∀ slot, s.freeSlot (c.2.1 == .copy) (reticleOf s.me) = some slot →
        (63 ≤ s.ccnt s.me → exec c.1 s = .next s) ∧
        (s.ccnt s.me < 63 → ∀ bs t0, s.describes (s.reg a) 64 bs t0 →
          (c.2.2 bs = true → ∃ t, exec c.1 s = .next t ∧ t0.faulted t 0x06 (s.reg a)) ∧
          (c.2.2 bs = false → ∃ t e, exec c.1 s = .next t ∧ t.engOp (c.2.1 == .copy) (reticleOf s.me) slot = some e ∧ e.kind = c.2.1 ∧
            e.desc = bs ∧ e.core = some t0.cur ∧ e.unit = 0 ∧ e.fault.valid = false ∧ t.ccnt s.me = t0.ccnt s.me + 1 ∧ t.pc = t0.pc + 4 ∧
            (∀ r, t.reg r = t0.reg r) ∧ t.m = (t0.cleanLines t0.me).m))) ∧
    (63 ≤ s.ccnt s.me → exec (.copyMc a) s = .next s) ∧
    (s.ccnt s.me < 63 → ∀ bs t0, s.describes (s.reg a) 64 bs t0 → badMulti t0.me bs = false → ∀ l at_,
      t0.vaultCheck t0.me t0.firmware
        (BitVec.ofNat 64 ((t0.me / 16) * 2 ^ 33 + (t0.me % 16) * 2 ^ 29 + fieldAt bs 0x10 8)) (fieldAt bs 8 8) .write = .at l at_ →
      ∃ t e, exec (.copyMc a) s = .next t ∧ t.multi t0.net.nextId = some e ∧ e.kind = .multicast ∧ e.desc = bs ∧ e.unit = 0 ∧
        t.ccnt s.me = t0.ccnt s.me + 1 ∧ t.pc = t0.pc + 4 ∧ (∀ r, t.reg r = t0.reg r) ∧ t.m = (t0.cleanLines t0.me).m)

/-- R351, R362: CKPT is ILLEGAL in firmware mode and for kind 3; in user mode it reads its area's first page and requests a checkpoint of the
core's task: a request that is accepted and joins none is a new job with the request's area and kind. While die firmware restarts the request is held
and the core goes on. -/
def Obligations.CheckpointIssue : Prop :=
  ∀ (s : State) (a : Reg) (kind : BitVec 2), s.ready [a] →
    (s.firmware = true ∨ kind = 3 → ∃ t, exec (.ckpt a kind) s = .next t ∧ s.faulted t 0x01 0) ∧
    (s.firmware = false → kind ≠ 3 → ∀ bs t0, s.describes (s.reg a) 4096 bs t0 →
      (∀ task, t0.elapse.taskOf t0.me = some task → t0.elapse.fwReady = false →
        ∃ t x, exec (.ckpt a kind) s = .next t ∧ t.ckpt.asked = t0.ckpt.asked ++ [x] ∧ x.1 = task.uid ∧ x.2.1 = s.reg a ∧ x.2.2.1 = kind ∧
          t.pc = t0.pc + 4) ∧
      (∀ task root s1, t0.elapse.taskOf t0.me = some task → t0.elapse.fwReady = true → t0.elapse.rootOf (t0.elapse.queue task.queue.toNat).asn = some root →
        t0.elapse.requestFails task root (t0.elapse.queue task.queue.toNat).asn (s.reg a).toNat kind = (false, s1) →
        s1.jobsOf task.uid = [] → (s1.ctlAt s.me).r = s.cr → s1.cur = s.cur →
        ∃ t j, exec (.ckpt a kind) s = .next t ∧ j ∈ t.ckpt.jobs ∧ j.task = task.uid ∧ j.area = s.reg a ∧ j.kind = kind ∧ j.cut = false ∧
          t.pc = s.pc + 4))

/-- R352, R210: TINV and its .all form are PRIV in user mode; in firmware mode they issue one invalidation of the address space and range
their operands give, and the core waits for its report. -/
def Obligations.InvalidateIssue : Prop :=
  ∀ (s : State) (x a : Reg), s.ready [x, a] →
    (s.firmware = false → (∃ t, exec (.tinv x a) s = .next t ∧ s.faulted t 0x02 0) ∧ (∃ t, exec (.tinvAll x a) s = .next t ∧ s.faulted t 0x02 0)) ∧
    (s.firmware = true → (s.reg x).toNat < 2 ^ 48 → (s.reg a).toNat % 65536 = 0 → 0 < (s.reg x).toNat / 65536 →
      (s.reg a).toNat / 65536 + (s.reg x).toNat / 65536 ≤ 2 ^ 36 →
      ∃ t v, exec (.tinv x a) s = .next t ∧ t.x.invals = s.x.invals ++ [v] ∧ v.asn = (s.reg x).setWidth 16 ∧
        v.first = (s.reg a).toNat / 65536 ∧ v.count = (s.reg x).toNat / 65536 ∧ v.core = some s.cur ∧ t.ctl.wait = .tinv v.k ∧ t.pc = s.pc ∧
        (∀ r, t.reg r = s.reg r)) ∧
    (s.firmware = true → (s.reg x).toNat < 65536 → s.reg a = 0 →
      ∃ t v, exec (.tinvAll x a) s = .next t ∧ t.x.invals = s.x.invals ++ [v] ∧ v.asn = (s.reg x).setWidth 16 ∧ v.count = 0 ∧
        v.core = some s.cur ∧ t.ctl.wait = .tinv v.k ∧ t.pc = s.pc ∧ (∀ r, t.reg r = s.reg r))

/-- R97, R128, R346, R362: CFGREQ is ILLEGAL in firmware mode; for a region that does not exist or is not loaded on demand it returns status 2, for
one that runs status 1 with its die in bits [15:8], which it waits for while die firmware restarts; otherwise it asks the pool for the region's load,
unless that is on its way, and waits. -/
def Obligations.RegionRequests : Prop :=
  ∀ (s : State) (d : Reg) (r : BitVec 3), s.ready [d] →
    (s.firmware = true → ∃ t, exec (.cfgreq d r) s = .next t ∧ s.faulted t 0x01 0) ∧
    (s.firmware = false → ∀ task, s.taskOf s.me = some task →
      (task.regions[r.toNat]? = none ∨ (∃ g, task.regions[r.toNat]? = some g ∧ g.onDemand = false) →
        (s.fwReady = true → ∃ t, exec (.cfgreq d r) s = .next t ∧ s.wrote t d 2 (s.pc + 4)) ∧ (s.fwReady = false → exec (.cfgreq d r) s = .next s)) ∧
      (∀ g, task.regions[r.toNat]? = some g → g.onDemand = true → g.released = true →
        (s.fwReady = true → ∃ t, exec (.cfgreq d r) s = .next t ∧ s.wrote t d (BitVec.ofNat 64 (1 + g.die.toNat * 256)) (s.pc + 4)) ∧
        (s.fwReady = false → exec (.cfgreq d r) s = .next s)) ∧
      (∀ g, task.regions[r.toNat]? = some g → g.onDemand = true → g.released = false →
        ∃ t, exec (.cfgreq d r) s = .next t ∧ t.ctl.wait = .cfgreq d r ∧ t.pc = s.pc ∧ (∀ n, t.reg n = s.reg n) ∧
          (g.placed = true → t.sched.requests = s.sched.requests) ∧
          (g.placed = false → ∃ q ∈ t.sched.requests, q.1 = task.uid ∧ q.2.1 = r)))

/-- R71 to R73, R76, R78, R79, R87: SPRINT and SPRINT.LSN arm the core's port of their channel and wait, taking SPTARGET and clearing it;
without a grant in user mode they take PERM, on a failed channel SPRINT_DEAD; SPRINT of identifier 0 is ILLEGAL. Each completes: for a frame that
has started it is LATE, and its register holds the result word and SPTARGET is clear as it goes on; else the next frame takes it, and at that
frame's latch the register of a lone contender holds WON, and a listener's HEARD where another core contends with what it listens for. -/
def Obligations.SprintIssue : Prop :=
  ∀ (s : State) (d a : Reg) (c : BitVec 4) (retry : Bool) (x : BitVec 2) (id : BitVec 8), s.ready [d, a] →
    (∃ t, exec (.sprint d a c retry x 0) s = .next t ∧ s.faulted t 0x01 0) ∧
    ∀ i ∈ [(Instr.sprint d a c retry x id, false, retry, sprintKey x.toNat (s.reg a).toNat), (Instr.sprintLsn d c id, true, false, 0)],
      (id ≠ 0 ∨ i.2.1 = true) →
      (s.firmware = false → s.cr.spGrant.getLsbD c.toNat = false → ∃ t, exec i.1 s = .next t ∧ s.faulted t 0x05 0) ∧
      ((s.firmware = true ∨ s.cr.spGrant.getLsbD c.toNat = true) → s.chanUsable c.toNat = false →
        ∃ t, exec i.1 s = .next t ∧ s.faulted t 0x11 0) ∧
      ((s.firmware = true ∨ s.cr.spGrant.getLsbD c.toNat = true) → s.chanUsable c.toNat = true → s.cr.spTarget = 0 →
        tabFind s.plane.ports (16 * s.me + c.toNat) = none →
        ∃ t p, exec i.1 s = .next t ∧ t.ctl.wait = .sprint d c 0 ∧ t.cr = s.cr ∧ t.pc = s.pc ∧
          tabFind t.plane.ports (16 * s.me + c.toNat) = some p ∧ p.who = .ctl ∧ p.listen = i.2.1 ∧ p.id = id ∧ p.retry = i.2.2.1 ∧
          p.key = i.2.2.2 ∧ p.entered = false ∧ p.first = (t.time.cycle + 1) / 128 + 1 ∧ t.m = s.m) ∧
      ((s.firmware = true ∨ s.cr.spGrant.getLsbD c.toNat = true) → s.chanUsable c.toNat = true → s.cr.spTarget ≠ 0 →
        s.cr.spTarget.toNat ≤ (s.time.cycle + 1) / 128 → tabFind s.plane.ports (16 * s.me + c.toNat) = none →
        ∃ t, exec i.1 s = .next t ∧ t.ctl.wait = .none ∧ t.pc = s.pc + 4 ∧ t.cr.spTarget = 0 ∧ t.m = s.m ∧
          (∀ n, t.reg n = s.regsWith d (resultWord ((t.time.cycle + 1) / 128) 4 c.toNat ⟨0, 0, 0⟩) n)) ∧
      ((s.firmware = true ∨ s.cr.spGrant.getLsbD c.toNat = true) → s.chanUsable c.toNat = true → s.cr.spTarget = 0 →
        s.plane.queued = [] → s.plane.latched = false → 128 * s.plane.frame ≤ s.time.cycle → s.time.cycle < 128 * s.plane.frame + 106 →
        s.plane.high = 0 →
        (i.2.1 = false → s.plane.ports = [] →
          ∃ t t1 t2, exec i.1 s = .next t ∧ exec .frameStart t = .next t1 ∧ exec .sprintResultLatch t1 = .next t2 ∧ t2.ctl.wait = .none ∧
            t2.pc = s.pc + 4 ∧
            ∀ n, t2.reg n = s.regsWith d (resultWord (s.plane.frame + 1) 0 c.toNat ⟨id, i.2.2.2, s.me⟩) n) ∧
        (∀ j b, i.2.1 = true → j ≠ s.me → s.plane.ports = [(16 * j + c.toNat, b)] → b.listen = false → b.entered = false →
          b.first ≤ s.plane.frame + 1 → b.who = .ctl → (id = 0 ∨ id = b.id) →
          ∃ t t1 t2, exec i.1 s = .next t ∧ exec .frameStart t = .next t1 ∧ exec .sprintResultLatch t1 = .next t2 ∧ t2.ctl.wait = .none ∧
            t2.pc = s.pc + 4 ∧
            ∀ n, t2.reg n = s.regsWith d (resultWord (s.plane.frame + 1) 3 c.toNat ⟨b.id, b.key, j⟩) n))

/-! ## Micro-ops of the C tiles -/

/-- A micro-op with its destination, whether PRED keeps lanes, and its result. -/
abbrev Sys2Proof.Machine.MicroRow := Instr × Dst × Bool × Res

/-- Every micro-op of a list, where its destination has room, writes its result there and its node goes on at the next slot (R363, R365). -/
def Sys2Proof.Machine.microsWrite (s : State) (rows : List MicroRow) : Prop :=
  ∀ c ∈ rows, s.issuesTo (dstOut c.2.1) → exec c.1 s = .next (s.wroteMicro c.2.1 c.2.2.1 c.2.2.2)

/-- The result of a function of FP32 lanes, or with bf16x2 of each BF16 half of a lane (R369, R370). -/
def Sys2Proof.Machine.fpRes (s : State) (srcs : List Src) (x2 : Bool) (f : Fmt → List Nat → Nat) : Res :=
  mkRes (maskOfOpnds (srcs.map s.source)) (if x2 then 4 else 3) (fun n =>
    let xs := srcs.map (fun a => (s.source a).lane n)
    if x2 then f .bf16 (xs.map (· % 65536)) % 65536 + f .bf16 (xs.map (· / 65536 % 65536)) % 65536 * 65536 else f .f32 xs)

/-- The floating-point micro-ops with their results (R369). -/
def Sys2Proof.Machine.fpMicros (s : State) (d : Dst) (a b c : Src) (x2 p : Bool) (m : Mode) : List MicroRow :=
  let r := s.rounding m
  let v : Fmt → List Nat → Nat → FV := fun f xs i => fpVal f (xs.getD i 0)
  let one : (Fmt → FV → Nat) → Res := fun g => fpRes s [a] x2 (fun f xs => g f (v f xs 0))
  let two : (FV → FV → FV) → Res := fun g => fpRes s [a, b] x2 (fun f xs => roundFV f ovNone r (g (v f xs 0) (v f xs 1)))
  [(.vadd d a b x2 p m, d, p, two (fvAdd r)), (.vsub d a b x2 p m, d, p, two (fun x y => fvAdd r x (fvNeg y))),
   (.vmul d a b x2 p m, d, p, two fvMul),
   (.vfma d a b c x2 p m, d, p, fpRes s [a, b, c] x2 (fun f xs => roundFV f ovNone r (fvAdd r (fvMul (v f xs 0) (v f xs 1)) (v f xs 2)))),
   (.vmin d a b x2 p m, d, p, fpRes s [a, b] x2 (fun f xs => fpMinMax f false (xs.getD 0 0) (xs.getD 1 0))),
   (.vmax d a b x2 p m, d, p, fpRes s [a, b] x2 (fun f xs => fpMinMax f true (xs.getD 0 0) (xs.getD 1 0))),
   (.vabs d a x2 p m, d, p, fpRes s [a] x2 (fun f xs => fpAbs f (xs.getD 0 0))),
   (.vneg d a x2 p m, d, p, fpRes s [a] x2 (fun f xs => fpNeg f (xs.getD 0 0))),
   (.vrcp d a x2 p m, d, p, one (fun f x => fpDiv f r (.fin false 1 0) x)), (.vrsq d a x2 p m, d, p, one (fun f x => fpRsqrt f r x)),
   (.vsqrt d a x2 p m, d, p, one (fun f x => fpSqrt f r x)), (.vexp2 d a x2 p m, d, p, one (fun f x => fpExp2 f r x)),
   (.vlog2 d a x2 p m, d, p, one (fun f x => fpLog2 f r x)),
   (.vrint d a x2 p m, d, p, fpRes s [a] x2 (fun f xs => fpRint f r (xs.getD 0 0)))]

/-- R369, R370: each floating-point micro-op writes its rounded result, as FP32 lanes or BF16 halves. -/
def Obligations.MicroFloat : Prop :=
  ∀ (s : State) (d : Dst) (a b c : Src) (x2 p : Bool) (m : Mode), microsWrite s (fpMicros s d a b c x2 p m)

/-- The integer micro-ops on lanes of 32 bits with their results (R371). -/
def Sys2Proof.Machine.intMicros (s : State) (d : Dst) (a b : Src) (p sat : Bool) : List MicroRow :=
  let lane : Src → Nat → BitVec 32 := fun a n => BitVec.ofNat 32 ((s.source a).lane n)
  let two : (BitVec 32 → BitVec 32 → BitVec 32) → Res := fun f =>
    mkRes (maskOfOpnds [s.source a, s.source b]) 2 (fun n => (f (lane a n) (lane b n)).toNat)
  let one : (BitVec 32 → Nat) → Res := fun f => mkRes (maskOfOpnds [s.source a]) 2 (fun n => f (lane a n))
  let fit : Int → BitVec 32 := fun v =>
    BitVec.ofInt 32 (if sat then (if v < -2147483648 then -2147483648 else if 2147483647 < v then 2147483647 else v) else v)
  [(.viadd d a b p sat, d, p, two (fun x y => fit (x.toInt + y.toInt))), (.visub d a b p sat, d, p, two (fun x y => fit (x.toInt - y.toInt))),
   (.vimul d a b p sat, d, p, two (fun x y => fit (x.toInt * y.toInt))),
   (.vimulh d a b p, d, p, two (fun x y => BitVec.ofInt 32 (x.toInt * y.toInt / 2 ^ 32))),
   (.vand d a b p, d, p, two (fun x y => x &&& y)), (.vor d a b p, d, p, two (fun x y => x ||| y)), (.vxor d a b p, d, p, two (fun x y => x ^^^ y)),
   (.vshl d a b p, d, p, two (fun x y => x <<< (y.toNat % 32))), (.vshr d a b p, d, p, two (fun x y => x >>> (y.toNat % 32))),
   (.vsra d a b p, d, p, two (fun x y => x.sshiftRight (y.toNat % 32))),
   (.vimin d a b p, d, p, two (fun x y => if x.toInt ≤ y.toInt then x else y)),
   (.vimax d a b p, d, p, two (fun x y => if x.toInt ≤ y.toInt then y else x)),
   (.vclz d a p, d, p, one (fun x => if x = 0 then 32 else 31 - Nat.log2 x.toNat)),
   (.vpopc d a p, d, p, one (fun x => ((List.range 32).filter (fun i => x.getLsbD i)).length))]

/-- R371: each integer micro-op writes its result, wrapped to 32 bits or with .sat clamped to them; none faults. -/
def Obligations.MicroInteger : Prop :=
  ∀ (s : State) (d : Dst) (a b : Src) (p sat : Bool), microsWrite s (intMicros s d a b p sat)

/-- The condition of a VCMP over two lanes (R372). -/
def Sys2Proof.Machine.cmpHolds (t : CmpType) (c : BitVec 2) (x y : Nat) : Bool :=
  let o := fvCmp (fpVal .f32 x) (fpVal .f32 y)
  let i : Nat → Int := fun v => (BitVec.ofNat 32 v).toInt
  match t with
  | .f32 => if c = 0 then o == some .eq else if c = 1 then o == some .lt else if c = 2 then o == some .lt || o == some .eq else o == none
  | .i32 => if c = 0 then x == y else if c = 1 then decide (i x < i y) else if c = 2 then decide (i x ≤ i y) else x != y
  | .u32 => if c = 0 then x == y else if c = 1 then decide (x < y) else if c = 2 then decide (x ≤ y) else x != y

/-- Combine of R374 over the values of participating lanes; the identity stands only where there are none. -/
def Sys2Proof.Machine.combine (f : RedOp) (r : Rm) (vs : List Nat) : Nat :=
  let i : List Int := vs.map (fun v => (BitVec.ofNat 32 v).toInt)
  match f with
  | .fadd => roundFV .f32 ovNone r (fvSum r (vs.map (fpVal .f32)))
  | .fmax => vs.foldl (fpMinMax .f32 true) 0xFF800000
  | .fmin => vs.foldl (fpMinMax .f32 false) 0x7F800000
  | .iadd => vs.sum % 2 ^ 32
  | .imax => (BitVec.ofInt 32 (i.foldl Max.max (-2147483648))).toNat
  | .imin => (BitVec.ofInt 32 (i.foldl Min.min 2147483647)).toNat
  | .and => vs.foldl (· &&& ·) 0xFFFFFFFF
  | .or => vs.foldl (· ||| ·) 0
  | .xor => vs.foldl (· ^^^ ·) 0
  | .umax => vs.foldl Max.max 0

/-- The lanes below `k` of an operand that participate (R374). -/
def Sys2Proof.Machine.partLanes (s : State) (x : Opnd) (p : Bool) (k : Nat) : List Nat :=
  (List.range k).filter (fun n => x.mask.getLsbD (n / 8) && (!p || s.ntile.p.getLsbD n))

/-- A lane that is selected from an operand: zero where its group is invalid (R373, R378). -/
def Sys2Proof.Machine.chosenLane (x : Opnd) (n : Nat) : Nat := if x.mask.getLsbD (n / 8) then x.lane n else 0

/-- Micro-ops that compare, select, permute and reduce, with their results (R372 to R374). -/
def Sys2Proof.Machine.moveMicros (s : State) (d : Dst) (a b : Src) (t : CmpType) (c : BitVec 2) (f : RedOp) (p : Bool) (m : Mode) :
    List MicroRow :=
  let x := s.source a
  let y := s.source b
  let both := maskOfOpnds [x, y]
  let fmt : Nat := match f with
    | .fadd | .fmax | .fmin => 3
    | .iadd | .imax | .imin => 2
    | .and | .or | .xor | .umax => 1
  [(.vcmp d a b t c p, d, p, mkRes both 1 (fun n => if cmpHolds t c (x.lane n) (y.lane n) then 1 else 0)),
   (.vsel d a b, d, false, mkRes both x.fmt.toNat (fun n => if s.ntile.p.getLsbD n then chosenLane x n else y.lane n)),
   (.vperm d a b p, d, p, mkRes both x.fmt.toNat (fun n => chosenLane x (y.lane n % 32))),
   (.vbcast d a b p, d, p, mkRes both x.fmt.toNat (fun _ => chosenLane x (y.lane 0 % 32))),
   (.vmov d a p, d, p, mkRes (maskOfOpnds [x]) x.fmt.toNat (chosenLane x)),
   (.vidx d p, d, p, mkRes 15 1 (fun n => (32 * s.nnode.fcnt.toNat + n) % 2 ^ 32)),
   (.vred d a f p m, d, false, mkRes 15 fmt (fun _ => combine f (s.rounding m) ((partLanes s x p 32).map x.lane))),
   (.vscan d a f p m, d, false, mkRes x.mask fmt (fun n => combine f (s.rounding m) ((partLanes s x p (n + 1)).map x.lane)))]

/-- R372 to R374: compares write 1 or 0, the moving operations the lanes they select, and VRED and VSCAN the combination of the
participating lanes, with no effect of PRED on which lanes they write. -/
def Obligations.MicroMoves : Prop :=
  ∀ (s : State) (d : Dst) (a b : Src) (t : CmpType) (c : BitVec 2) (f : RedOp) (p : Bool) (m : Mode),
    microsWrite s (moveMicros s d a b t c f p m)

/-- Micro-ops that convert, scale, pack and rearrange, with their results (R375 to R377, R379 to R381). -/
def Sys2Proof.Machine.dataMicros (s : State) (d : Dst) (o : BitVec 2) (a b : Src) (g h : Fmt) (w : PackW) (signed bytes p : Bool) (m : Mode) :
    List MicroRow :=
  let x := s.source a
  let y := s.source b
  let both := maskOfOpnds [x, y]
  let r := s.rounding m
  let k : Nat := match w with
    | .w16 => 16
    | .w8 => 8
    | .w4 => 4
  let nz := (partLanes s x p 32).filter (fun n => x.lane n != 0)
  let bits1024 : Nat := (List.range 32).foldr (fun n v => v * 2 ^ 32 + x.lane n % 2 ^ 32) 0
  [(.vcvt d a g h p m, d, p, mkRes (maskOfOpnds [x]) (fmtCode h) (fun n => convBits 32 g h (ovOf s.nnode.mode) r (x.lane n))),
   (.vqnt d a b g p m, d, p, mkRes both (fmtCode g) (fun n =>
      convTo 32 g (ovOf s.nnode.mode) r (if y.lane n % 256 = 255 then .nan else fvScale (fpVal .f32 (x.lane n)) (127 - (y.lane n % 256 : Nat))))),
   (.vdq d a b g p m, d, p, mkRes both 3 (fun n =>
      roundFV .f32 ovNone r (if y.lane n % 256 = 255 then .nan else fvScale (elemVal g (x.lane n)) ((y.lane n % 256 : Nat) - 127)))),
   (.vscale d a b p m, d, p, mkRes both 3 (fun n =>
      if x.lane n % 2 ^ 31 = 0 ∨ x.lane n % 2 ^ 31 = 0x7F800000 then x.lane n
      else roundFV .f32 ovNone r (fvScale (fpVal .f32 (x.lane n)) (clampInt (-1000) 1000 (BitVec.ofNat 32 (y.lane n)).toInt)))),
   (.vpack d a b w p, d, p, mkRes (match w with | .w16 => 15 | .w8 => 3 | .w4 => 1) x.fmt.toNat (fun n =>
      ((List.range (32 / k)).map (fun i =>
        let j := 32 / k * n + i
        (if j < 32 then x.lane j % 2 ^ k else if j < 64 then y.lane (j - 32) % 2 ^ k else 0) * 2 ^ (k * i))).sum)),
   (.vunpk d a b signed w p, d, p, mkRes both x.fmt.toNat (fun n =>
      let e := bits1024 / 2 ^ (k * (y.lane 0 + n)) % 2 ^ k
      if signed ∧ 2 ^ (k - 1) ≤ e then 2 ^ 32 - 2 ^ k + e else e)),
   (.cnt d a p, d, false, mkRes 15 1 (fun n => (nz.filter (· ≤ n)).length)),
   (.crc64 d a b, d, false, mkRes 1 1 (fun n =>
      (crc64xz (BitVec.ofNat 64 (y.lane 0 + y.lane 1 * 2 ^ 32)) x.groupBytes).toNat / 2 ^ (32 * n) % 2 ^ 32)),
   (.vtrn d a bytes p, d, p, if bytes then
        mkRes x.mask x.fmt.toNat (fun n => ((List.range 4).map (fun q =>
          x.lane (8 * (n / 8) + (4 * (n % 8) + q) % 8) / 2 ^ (8 * ((4 * (n % 8) + q) / 8)) % 256 * 2 ^ (8 * q))).sum)
      else mkRes 15 x.fmt.toNat (fun n => x.lane (n % 4 * 8 + n / 4))),
   (.zpkD d a p, d, false, mkRes (BitVec.ofNat 4 (2 ^ ((nz.length + 7) / 8) - 1)) x.fmt.toNat (fun n => (nz.map x.lane).getD n 0)),
   (.zpkM d a p, d, false, mkRes 15 1 (fun _ => (nz.map (2 ^ ·)).sum)),
   (.zup d a b p, d, p, mkRes 15 x.fmt.toNat (fun n =>
      if (y.lane 0).testBit n then x.lane ((List.range n).filter (fun i => (y.lane 0).testBit i)).length else 0)),
   (.emit o a b g p, .o o, p, mkRes (BitVec.ofNat 4 ((s.source b).lane 0 % 16)) (fmtCode g) x.lane)]

/-- R375 to R377, R379 to R381: conversion, scaling, packing, counting, CRC, transposition, sparse packing and EMIT write the results of
their tables. VSCALE is stated with its exponent clamped to ±1000, where every finite operand has overflowed or vanished. -/
def Obligations.MicroData : Prop :=
  ∀ (s : State) (d : Dst) (o : BitVec 2) (a b : Src) (g h : Fmt) (w : PackW) (signed bytes p : Bool) (m : Mode),
    microsWrite s (dataMicros s d o a b g h w signed bytes p m)

/-- A result word as a token: lane 0 its low half, lane 1 its high half (R382). -/
def Sys2Proof.Machine.wordRes (w : Word) : Res := mkRes 1 1 (fun n => if n < 2 then w.toNat / 2 ^ (32 * n) % 2 ^ 32 else 0)

/-- R367, R378, R382, R383: SEQ emits one token in each turn until its count; CONTEND and RQST hold issue until their result word has come
and then write it; CONTEND arms its core's port once and stops its node on identifier 0; RQST asks for its region once and takes its result at
once where the region is present or does not exist. -/
def Obligations.MicroHeld : Prop :=
  ∀ (s : State),
    (∀ (d : BitVec 2) (a b c : Src) (first : Bool), s.issuesTo (some d) →
      let count := chosenLane (s.source a) 0
      let j := s.nnode.step
      let lane : Nat → Nat := fun n =>
        if first then (if j = 0 then (s.source b).lane n else (s.source b).lane n ||| (s.source c).lane n)
        else ((s.source b).lane n + j * (s.source c).lane n) % 2 ^ 32
      let t := s.writeDst (.o d) false (mkRes 15 1 lane)
      (count ≤ j → exec (.seq d a b c first) s = .next (s.nextSlot.settle s.nk)) ∧
      (j + 1 = count → exec (.seq d a b c first) s = .next (t.nextSlot.settle s.nk)) ∧
      (j + 1 < count → exec (.seq d a b c first) s = .next ((t.setNnode { t.nnode with step := j + 1 }).settle s.nk))) ∧
    (∀ (d : Dst) (a b : Src) (c : BitVec 4) (retry : Bool) (x : BitVec 2), s.issuesTo (dstOut d) →
      (∀ w, s.nnode.result = some w → exec (.contend d a b c retry x) s = .next (s.wroteMicro d false (wordRes w)) ∧
        exec (.rqst d a) s = .next (s.wroteMicro d false (wordRes w))) ∧
      (s.nnode.result = none → s.nnode.armed = true → exec (.contend d a b c retry x) s = .next (s.settle s.nk) ∧
        exec (.rqst d a) s = .next (s.settle s.nk)) ∧
      (s.nnode.result = none → s.nnode.armed = false →
        ((s.source b).lane 0 % 256 = 0 →
          exec (.contend d a b c retry x) s = .next ((s.stopPart s.nk s.ni s.nj 0x01).settle s.nk)) ∧
        ((s.source b).lane 0 % 256 ≠ 0 → s.armFault s.nk c.toNat = none → tabFind s.plane.ports (16 * s.nk + c.toNat) = none →
          ∃ t p, exec (.contend d a b c retry x) s = .next t ∧ tabFind t.plane.ports (16 * s.nk + c.toNat) = some p ∧
            p.who = .node s.curNode ∧ p.listen = false ∧ p.id = BitVec.ofNat 8 ((s.source b).lane 0) ∧ p.retry = retry ∧
            p.key = sprintKey x.toNat ((s.source a).lane 0) ∧ p.target = 0 ∧ p.entered = false ∧ p.first = (t.time.cycle + 1) / 128 + 1 ∧
            ((t.site s.nk s.ni).ct.node s.nj).armed = true ∧ t.m = s.m) ∧
        (s.taskOf s.nk = none →
          s.fwReady = true → ∃ t, exec (.rqst d a) s = .next t ∧ ((t.site s.nk s.ni).ct.node s.nj).result = some 2 ∧ s.fabricOnly t s.nk) ∧
        (s.fwReady = false → (∀ task g, s.taskOf s.nk = some task → task.regions[(s.source a).lane 0 % 8]? = some g →
          g.onDemand = true → g.released = true) → exec (.rqst d a) s = .next (s.settle s.nk)) ∧
        (∀ task, s.taskOf s.nk = some task →
          let region := (s.source a).lane 0 % 8
          (s.fwReady = true → task.regions[region]? = none ∨ (∃ g, task.regions[region]? = some g ∧ g.onDemand = false) →
            ∃ t, exec (.rqst d a) s = .next t ∧ ((t.site s.nk s.ni).ct.node s.nj).result = some 2 ∧ s.fabricOnly t s.nk) ∧
          (∀ g, s.fwReady = true → task.regions[region]? = some g → g.onDemand = true → g.released = true →
            ∃ t, exec (.rqst d a) s = .next t ∧ s.fabricOnly t s.nk ∧
              ((t.site s.nk s.ni).ct.node s.nj).result = some (BitVec.ofNat 64 (1 + g.die.toNat * 256))) ∧
          (∀ g, task.regions[region]? = some g → g.onDemand = true → g.released = false →
            ∃ t, exec (.rqst d a) s = .next t ∧ ((t.site s.nk s.ni).ct.node s.nj).armed = true ∧
              (g.placed = true → t.sched.requests = s.sched.requests) ∧
              (g.placed = false → ∃ q ∈ t.sched.requests, q.1 = task.uid ∧ q.2.1.toNat = region)))))

/-- R387 to R392: MMA and MLDB act by the control token at their input b, and go on at once where it names another operation; an acting MMA
takes one A token into its row in each turn and stops on a mark; an acting MLDB writes the standby buffer; MOUT emits one row in each turn,
EV plus OD rounded to its format. -/
def Obligations.MicroMatrix : Prop :=
  ∀ (s : State),
    (s.nnode.release = none → ∀ (a b : BitVec 2) (bf af : Fmt) (bsc asc : Bool) (f : LdbMode) (c : Token),
      s.head s.nk s.ni (48 + b.toNat) = some c →
      (c.lane 1 % 4 ≠ 2 → exec (.mma a b bf af bsc asc) s = .next (s.nextSlot.settle s.nk)) ∧
      (c.lane 1 % 4 = 2 → mxK c = 0 →
        let mx := if mxAcc c then s.ntile.mx else (List.range (mxM c)).foldl (fun x i => x.clearRow ((mxRb c + i) % 64)) s.ntile.mx
        exec (.mma a b bf af bsc asc) s = .next (((s.setNtile { s.ntile with mx := mx }).nextSlot).settle s.nk)) ∧
      (c.lane 1 % 4 ≠ 1 → exec (.mldb a b f) s = .next (s.nextSlot.settle s.nk)) ∧
      (c.lane 1 % 4 = 2 ∧ mxK c ≠ 0 ∨ c.lane 1 % 4 = 1 → s.head s.nk s.ni (48 + a.toNat) = none →
        exec (if c.lane 1 % 4 = 2 then .mma a b bf af bsc asc else .mldb a b f) s = .next (s.settle s.nk)) ∧
      (∀ x, s.head s.nk s.ni (48 + a.toNat) = some x → x.isMark = true → (c.lane 1 % 4 = 2 ∧ mxK c ≠ 0 ∨ c.lane 1 % 4 = 1) →
        exec (if c.lane 1 % 4 = 2 then .mma a b bf af bsc asc else .mldb a b f) s = .next ((s.stopNode 0x07).settle s.nk)) ∧
      (∀ x, s.head s.nk s.ni (48 + a.toNat) = some x → x.isMark = false →
        (c.lane 1 % 4 = 1 →
          let mx := { s.ntile.mx with standby := ldbWrite f s.ntile.mx.standby c x }
          exec (.mldb a b f) s = .next ((((s.setNtile { s.ntile with mx := mx }).takeData (48 + a.toNat) x).nextSlot).settle s.nk)) ∧
        (c.lane 1 % 4 = 2 → mxK c ≠ 0 →
          let per := (mxK c + mxKa af asc - 1) / mxKa af asc
          let row := (mxRb c + s.nnode.step / per) % 64
          let mx := (if s.nnode.step % per = 0 ∧ mxAcc c = false then s.ntile.mx.clearRow row else s.ntile.mx).take bf af bsc asc row
            (mxN c) (mxK c) (s.nnode.step % per) x
          let t := (s.setNtile { s.ntile with mx := mx }).takeData (48 + a.toNat) x
          exec (.mma a b bf af bsc asc) s =
            .next ((if s.nnode.step + 1 < mxM c * per then t.setNnode { t.nnode with step := s.nnode.step + 1 } else t.nextSlot).settle
              s.nk)))) ∧
    (∀ (d : BitVec 2) (rows base : BitVec 4) (f : Fmt) (m : Mode), s.issuesTo (some d) →
      let row := (4 * base.toNat + s.nnode.step) % 64
      let lane : Tab Line → Nat → FV := fun l j => fpVal .f32 (laneOf (tabLine l row) j)
      let sum : Nat → Nat := fun j => roundFV .f32 ovNone .rne (fvAdd .rne (lane s.ntile.mx.ev j) (lane s.ntile.mx.od j))
      let t := s.writeDst (.o d) false
        (mkRes 15 (fmtCode f) (fun j => roundFV f (ovOf s.nnode.mode) (s.rounding m) (fpVal .f32 (sum j))))
      exec (.mout d rows base f m) s =
        .next ((if s.nnode.step + 1 < 4 * (rows.toNat + 1) then t.setNnode { t.nnode with step := s.nnode.step + 1 } else t.nextSlot).settle
          s.nk))

/-- The output that a micro-op writes, none where it has another destination or none; none for an instruction that is no micro-op. -/
def Sys2Proof.Machine.microOut : Instr → Option (Option (BitVec 2))
  | .vadd d .. | .vsub d .. | .vmul d .. | .vfma d .. | .vmin d .. | .vmax d .. | .vabs d .. | .vneg d .. | .vrcp d .. | .vrsq d ..
  | .vsqrt d .. | .vexp2 d .. | .vlog2 d .. | .vrint d .. | .viadd d .. | .visub d .. | .vimul d .. | .vimulh d .. | .vand d .. | .vor d ..
  | .vxor d .. | .vshl d .. | .vshr d .. | .vsra d .. | .vimin d .. | .vimax d .. | .vclz d .. | .vpopc d .. | .vcmp d .. | .vsel d ..
  | .vperm d .. | .vbcast d .. | .vred d .. | .vscan d .. | .vmov d .. | .vidx d .. | .vcvt d .. | .vqnt d .. | .vdq d .. | .vpack d ..
  | .vunpk d .. | .vscale d .. | .cnt d .. | .contend d .. | .crc64 d .. | .vtrn d .. | .zpkD d .. | .zpkM d .. | .zup d .. | .rqst d .. =>
    some (dstOut d)
  | .mout d .. | .seq d .. | .emit d .. => some (some d)
  | .mma .. | .mldb .. => some none
  | _ => none

/-- R363, R365, R366: in a firing that is no release, a node with RLEN skips what writes an output; in a release firing a node skips what writes
none; a micro-op whose output is still taken waits; and what a micro-op changes, where it neither arms a port, asks for a region nor meets a
mark, is its core's fabric and the network alone. In its tile, a written register takes the lanes, mask and format, and with PRED keeps its lanes
where p is 0; p takes 1 where a lane of the mask is not zero, and with PRED keeps its bits where p is 0; nothing but the destination changes among
registers, p and matrix unit, and a write to an output changes none of them. -/
def Obligations.MicroRules : Prop :=
  (∀ (s : State) (i : Instr) (o : Option (BitVec 2)), microOut i = some o →
    (∀ n, o = some n → s.nsite.nodeRlen s.nj = true → s.nnode.release = none → exec i s = .next (s.nextSlot.settle s.nk)) ∧
    (o = none → s.nnode.release.isSome = true → exec i s = .next (s.nextSlot.settle s.nk)) ∧
    (∀ n, o = some n → (s.nsite.nodeRlen s.nj = false ∨ s.nnode.release.isSome = true) → s.ntile.o.getD n.toNat none ≠ none →
      exec i s = .next (s.settle s.nk)) ∧
    ((∀ d a b c r x, i ≠ .contend d a b c r x) → (∀ d a, i ≠ .rqst d a) → (∀ a b f g p q, i ≠ .mma a b f g p q) →
      (∀ a b f, i ≠ .mldb a b f) → ∃ t, exec i s = .next t ∧ s.fabricOnly t s.nk)) ∧
  (∀ (s : State) (d : Dst) (keep : Bool) (mask : BitVec 4) (fmt : Nat) (f : Nat → Nat),
    s.ntile.v.length = 8 →
    let t := ((s.wroteMicro d keep (mkRes mask fmt f)).site s.nk s.ni).ct
    let on : Nat → Bool := fun n => !keep || s.ntile.p.getLsbD n
    let new : Nat → Nat := fun n => if mask.getLsbD (n / 8) then f n % 2 ^ 32 else 0
    t.mx = s.ntile.mx ∧
    (∀ r, d = .v r →
      (∀ n < 32, laneOf ((t.v.getD r.toNat (0, 0, 0)).1) n = if on n then new n else laneOf ((s.ntile.v.getD r.toNat (0, 0, 0)).1) n) ∧
      (t.v.getD r.toNat (0, 0, 0)).2 = (mask, BitVec.ofNat 4 fmt) ∧ (∀ n, n ≠ r.toNat → t.v.getD n (0, 0, 0) = s.ntile.v.getD n (0, 0, 0)) ∧
      t.p = s.ntile.p) ∧
    (d = .p → (∀ n < 32, t.p.getLsbD n = if on n then mask.getLsbD (n / 8) && new n != 0 else s.ntile.p.getLsbD n) ∧ t.v = s.ntile.v) ∧
    (∀ o, d = .o o → t.v = s.ntile.v ∧ t.p = s.ntile.p))

/-! ## Boot, measurement and resets -/

/-- Boot has halted with a code, or stands at a stage (R94). -/
def Sys2Proof.Machine.haltedWith (t : State) (c : BitVec 8) : Prop := t.boot.stage = 0xF ∧ t.boot.code = c

/-- What a cold reset leaves (R88, R92): all but host memory, the owner store, the boot counter and the model's own counters as after reset. -/
def Sys2Proof.Machine.coldReset (s t : State) (supply : Bool) : Prop :=
  t.boot = { State.reset.boot with supply := supply, bootCount := s.boot.bootCount, bankA := s.boot.bankA, bankB := s.boot.bankB,
                                   useB := s.boot.useB } ∧
  t.cores = [] ∧ t.plane = State.reset.plane ∧ t.mon = State.reset.mon ∧ t.time = State.reset.time ∧ t.host = State.reset.host ∧
  t.sched = State.reset.sched ∧ t.swap = State.reset.swap ∧ t.ckpt = State.reset.ckpt ∧ t.x = State.reset.x ∧ t.net = State.reset.net ∧
  t.links = State.reset.links ∧ t.m.banks = [] ∧ t.m.poison = [] ∧ t.m.full = [] ∧
  (∀ a, t.byte a = if 2 ^ 50 ≤ a ∧ a < 2 ^ 51 then s.byte a else 0)

/-- What boot steps 2 to 4 leave (R88): the boot counter counts, the table and the interleave registers are written, the host link is up, MR0 and
MR4 are extended, and boot goes on at the lowest live Ethernet port or halts without one. -/
def Sys2Proof.Machine.tableWritten (s t : State) (test : SelfTest) : Prop :=
  t.boot.bootCount = s.boot.bootCount + 1 ∧ t.boot.dtValid = true ∧ t.boot.test = test ∧ t.host.linkUp = true ∧
  t.boot.mr.getD 4 0 = sha384 (digestBytes (s.boot.mr.getD 4 0) ++ digestBytes test.shapeDigest) ∧
  ((∀ n < 16, test.ethLive n = false) → haltedWith t 0x20) ∧
  (∀ n < 16, test.ethLive n = true → (∀ j < n, test.ethLive j = false) →
    t.boot.stage = 2 ∧ t.boot.netPort = n ∧ t.boot.netTry = 0 ∧ t.boot.netAddr = none)

/-- R16, R88 to R93, and where COLD_RESET, SUPPLY_LOSS, SELF_TEST_DONE, HOST_LINK_RETRAIN, DHCPV6_REPLY, TFTP_IMAGE_RECEIVED, BOOT_ATTEMPT_TIMEOUT,
HUB_CORE_READY and HUB_READY_TIMEOUT complete: cold reset and loss of the supply; the end of self-test with its halts; the host link's retraining;
an address and an attempt's end of the network; the checks of an image in their order, and the start of every live hub core; the hub cores' reports
and the time they have. -/
def Obligations.BootEvents : Prop :=
  ∀ (s : State),
    (∃ t, exec .coldReset s = .next t ∧ coldReset s t true) ∧
    (∃ t, exec .supplyLoss s = .next t ∧ coldReset s t false) ∧
    (∀ t0, s.boot.stage = 0 → s.boot.tested = false → s.input.test = some t0 → s.boot.mr.length = 8 →
      ∃ t, exec .selfTestDone s = .next t ∧ t.boot.tested = true ∧
        (t0.dieLive 0 = false → haltedWith t 0x10) ∧
        (t0.dieLive 0 = true → t0.baseLive 0 = false → haltedWith t 0x11) ∧
        (t0.dieLive 0 = true → t0.baseLive 0 = true → t0.baseLive 3 = false → haltedWith t 0x13) ∧
        (t0.dieLive 0 = true → t0.baseLive 0 = true → t0.baseLive 3 = true → t0.stacks = [] → haltedWith t 0x12) ∧
        (t0.settled.halt = none → t0.hostLinkUp = true → tableWritten s t t0.settled) ∧
        (t0.settled.halt = none → t0.hostLinkUp = false → t.boot.stage = 0 ∧ t.boot.test = t0.settled)) ∧
    (s.boot.stage = 0 → s.boot.tested = true → s.boot.since + 2000000000 ≤ s.time.cycle → s.boot.mr.length = 8 →
      ∃ t, exec .hostLinkRetrain s = .next t ∧ (s.input.flag = true → tableWritten s t s.boot.test) ∧
        (s.input.flag = false → t = { s with boot := { s.boot with since := s.time.cycle } })) ∧
    (s.boot.stage = 2 → s.time.cycle < s.boot.since + 20000000000 → s.input.bytes.take 7 = [0x74, 0x66, 0x74, 0x70, 0x3A, 0x2F, 0x2F] →
      exec .dhcpv6Reply s =
        .next { s with boot := { s.boot with netAddr := some s.input.addr, netUrl := s.input.bytes, netAsk := 1428 } }) ∧
    (s.boot.stage = 2 → s.boot.since + 20000000000 ≤ s.time.cycle →
      exec .dhcpv6Reply s = .next s ∧ exec .tftpImageReceived s = .next s) ∧
    (s.boot.stage = 2 → s.boot.since + 20000000000 ≤ s.time.cycle →
      ∃ t, exec .bootAttemptTimeout s = .next t ∧ t.boot.netAddr = none ∧ t.boot.since = s.time.cycle ∧
        (s.boot.netTry < 2 → t.boot.netTry = s.boot.netTry + 1 ∧ t.boot.netPort = s.boot.netPort ∧ t.boot.stage = 2) ∧
        (2 ≤ s.boot.netTry → ∀ n < 16, s.boot.netPort < n → s.boot.test.ethLive n = true →
          (∀ j < n, s.boot.netPort < j → s.boot.test.ethLive j = false) → t.boot.netPort = n ∧ t.boot.netTry = 0 ∧ t.boot.stage = 2) ∧
        (2 ≤ s.boot.netTry → (∀ n < 16, s.boot.netPort < n → s.boot.test.ethLive n = false) →
          haltedWith t (if s.boot.netAddr = none then 0x21 else 0x22))) ∧
    (s.boot.stage = 2 → s.time.cycle < s.boot.since + 20000000000 → s.boot.netAddr ≠ none →
      let h := s.input.bytes.take 1024
      let body := s.input.bytes.drop 1024
      let k := s.boot.bank
      let token := part h 0x200 512
      let flagged := fieldAt h 6 2 ≠ 0
      let owner := if flagged then keyOf (part token 0x20 97) else k.owner
      let svn := if flagged then max k.svnMin.toNat (fieldAt token 0x18 8) % 2 ^ 64 else k.svnMin.toNat
      let d := sha384 (h.take 0x48)
      ∃ t, exec .tftpImageReceived s = .next t ∧
        (if imageFormatOk h body = false ∨ sha384 body ≠ BitVec.ofNat 384 (beNat (part h 0x18 48)) then haltedWith t 0x30
         else if flagged ∧ tokenOk k token = false then haltedWith t 0x34
         else if verifies Config.rootKey d (part h 0x48 96) = false then haltedWith t 0x31
         else if verifies owner d (part h 0xA8 96) = false then haltedWith t 0x32
         else if fieldAt h 8 4 < svn then haltedWith t 0x33
         else t.boot.stage = 4 ∧ t.boot.ready = 0 ∧ (∀ i < 8, s.boot.test.dieLive i = true →
           (t.ctlAt (16 * i)).run = .running ∧ (t.ctlAt (16 * i)).r.pc = 0 ∧ (t.ctlAt (16 * i)).r.firmware = true))) ∧
    (s.boot.stage = 4 → s.boot.test.dieLive s.input.die.toNat = true → s.boot.since + 200000000 ≤ s.time.cycle →
      ∃ t, exec .hubCoreReady s = .next t ∧ haltedWith t 0x40) ∧
    (s.boot.stage = 4 → s.boot.test.dieLive s.input.die.toNat = true → s.time.cycle < s.boot.since + 200000000 →
      ∃ t, exec .hubCoreReady s = .next t ∧ t.boot.ready = s.boot.ready ||| BitVec.ofNat 8 (2 ^ s.input.die.toNat) ∧ t.m = s.m ∧
        t.cores = s.cores ∧
        ((∀ d < 8, s.boot.test.dieLive d = true → d = s.input.die.toNat ∨ s.boot.ready.getLsbD d = true) →
          t.boot.stage = 5 ∧ t.host.msix = s.host.msix ++ [1024]) ∧
        ((∃ d < 8, s.boot.test.dieLive d = true ∧ d ≠ s.input.die.toNat ∧ s.boot.ready.getLsbD d = false) → t.boot.stage = 4)) ∧
    (s.boot.stage = 4 → s.boot.since + 200000000 ≤ s.time.cycle → ∃ t, exec .hubReadyTimeout s = .next t ∧ haltedWith t 0x40)

/-- R95, and where GET_VERSION, GET_CAPABILITIES, NEGOTIATE_ALGORITHMS, GET_DIGESTS, GET_CERTIFICATE, CHALLENGE and GET_MEASUREMENTS complete: each
SPDM request is answered in the order of the exchange, and with an error before what it builds on: versions, capabilities, algorithms, digests, the
certificate, and signatures of the derived key over the nonce and, of GET_MEASUREMENTS, MR0 to MR7. Codes, order and what the signatures cover are
the model's choice (assumption 75, PRESUMED). Nothing but the answers changes. -/
def Obligations.SpdmEvents : Prop :=
  ∀ (s : State), s.host.linkUp = true →
    let sign : List Byte → List Byte := fun bs => Config.sign s.draws (sha384 (leBytes 32 s.input.nonce.toNat ++ bs))
    let digest := digestBytes (sha384 Config.certChain)
    let mrs := (s.boot.mr.map digestBytes).flatten
    ∀ c ∈ ([(.getVersion, 0, 1, 0x04, [0x12]), (.getCapabilities, 1, 2, 0x61, [0x16]), (.negotiateAlgorithms, 2, 3, 0x63, [0x80, 0x02]),
        (.getDigests, 3, 3, 0x01, digest), (.getCertificate, 3, 3, 0x02, Config.certChain), (.challenge, 3, 3, 0x03, sign digest),
        (.getMeasurements, 3, 3, 0x60, mrs ++ sign mrs)] : List (Instr × Nat × Nat × BitVec 8 × List Byte)),
      ∃ t, exec c.1 s = .next t ∧ { t with mon := s.mon, draws := s.draws } = s ∧
        { t.mon with spdm := s.mon.spdm, spdmStage := s.mon.spdmStage } = s.mon ∧
        (s.mon.spdmStage.toNat < c.2.1 → t.mon.spdm = s.mon.spdm ++ [⟨0x7F, [4]⟩] ∧ t.mon.spdmStage = s.mon.spdmStage) ∧
        (c.2.1 ≤ s.mon.spdmStage.toNat → t.mon.spdm = s.mon.spdm ++ [⟨c.2.2.2.1, c.2.2.2.2⟩] ∧
          (c.2.1 < 3 → t.mon.spdmStage.toNat = c.2.2.1) ∧ (c.2.1 = 3 → t.mon.spdmStage = s.mon.spdmStage))

/-- The hub core of a die runs die firmware from code address 0 in firmware mode (R93). -/
def Sys2Proof.Machine.hubStarted (t : State) (d : Nat) : Prop :=
  (t.ctlAt (16 * d)).run = .running ∧ (t.ctlAt (16 * d)).r.pc = 0 ∧ (t.ctlAt (16 * d)).r.firmware = true ∧
  (t.ctlAt (16 * d)).r.inTrap = false

/-- R94, R96 to R99, R359, R360, and where WARM, WARM_RESET, WARM_RESET_DONE, DIE_FIRMWARE_RESTART, FWDOG_EXPIRY, FIRMWARE_RESTART_DONE,
THERMAL_THROTTLE, THERMAL_UNTHROTTLE, THERMAL_TRIP, REGISTER_WRITE and TICK complete: a host's request for a warm reset, the reset and its end; die
firmware restarts by request and by the watchdog, with the escalation of a third one within a second, and their end; the thermal throttle, its end
and the thermal trip; register writes; and the tick of a reticle's time. The model's choices are HELD on every waiting record at the end of a restart
(assumption 76) and the ATU that a warm reset empties (assumption 131). -/
def Obligations.ResetEvents : Prop :=
  ∀ (s : State),
    let d := s.input.die
    let k := s.input.core.ix
    let temp := s.input.temp
    (s.boot.stage = 5 → s.host.linkUp = true → s.input.word.getLsbD 0 = true →
      exec .warm s = .next { s with boot := { s.boot with warmReq := true } }) ∧
    (s.boot.stage = 5 → s.boot.warming = false → s.boot.warmReq = true →
      ∃ t, exec .warmReset s = .next t ∧ t.boot = { s.boot with warming := true, warmReq := false, restarting := 0, maxTemp := 0 } ∧ t.cores = [] ∧
        t.host.queues = [] ∧ t.host.tails = [] ∧ t.host.records = [] ∧ t.host.qtBase = s.host.qtBase ∧ t.sched.tasks = [] ∧
        t.plane.frame = s.plane.frame ∧ t.plane.ports = [] ∧ t.time = s.time ∧ t.m.banks = [] ∧ t.m.full = s.m.full ∧ t.x.atu = [] ∧
        t.x.copies = [] ∧ t.x.gathers = [] ∧ t.mon.thr = [] ∧ (∀ e ∈ t.links.eth, e.2.flows = []) ∧
        (∀ e ∈ s.m.deferred, (∃ x, s.findAccess e.access = some x ∧ x.agent.far = true) → e ∈ t.m.deferred) ∧ (s.m.banks = [] → t.m.ecc = s.m.ecc ∧ ∀ a, t.byte a = s.byte a)) ∧
    (s.boot.warming = true → ∃ t, exec .warmResetDone s = .next t ∧ t.boot.warming = false ∧ 1025 ∈ t.host.msix ∧
      (∀ i < 8, s.boot.test.dieLive i = true → hubStarted t i)) ∧
    (∀ i ∈ [Instr.dieFirmwareRestart, Instr.fwdogExpiry], s.fwRuns d.toNat = true → s.MemOk →
      (i = .fwdogExpiry → (s.ctlAt (16 * d.toNat)).r.fwDog ≠ 0 ∧ (s.ctlAt (16 * d.toNat)).dogEnd ≤ s.time.cycle) →
      ∃ t, exec i s = .next t ∧
        ((s.boot.restarts.filter (fun r => r.1 == d && decide (s.time.cycle < r.2 + 2000000000))).length < 2 →
          t.boot.restarting = s.boot.restarting ||| BitVec.ofNat 8 (2 ^ d.toNat) ∧ t.sched.paused = true ∧
          t.ctlAt (16 * d.toNat) = Ctl.reset true ∧ t.boot.restarts = s.boot.restarts ++ [(d, s.time.cycle)] ∧
          (∀ a < 65536, t.byte (codeKey (16 * d.toNat) a) = s.byte (Loc.key (.vault (16 * d.toNat) (0x2FF0000 + a)))) ∧
          (∀ j, j ≠ 16 * d.toNat → t.core j = s.core j)) ∧
        (2 ≤ (s.boot.restarts.filter (fun r => r.1 == d && decide (s.time.cycle < r.2 + 2000000000))).length →
          t.boot.warming = true ∧ t.cores = [] ∧ t.boot.restarts = [])) ∧
    (s.boot.restarting.getLsbD d.toNat = true →
      ∃ t, exec .firmwareRestartDone s = .next t ∧ hubStarted t d.toNat ∧ t.m = s.m ∧
        t.boot.restarting = s.boot.restarting &&& ~~~(BitVec.ofNat 8 (2 ^ d.toNat)) ∧
        (t.sched.paused = true ↔ ∃ j < 8, j ≠ d.toNat ∧ s.boot.restarting.getLsbD j = true) ∧
        t.host.records = s.host.records.map (fun r => { r with flags := r.flags ||| 16 }) ∧
        ∀ q, (t.queue q).cmds = (s.queue q).cmds.map (fun c => if s.waitsRecord c then { c with held := true } else c)) ∧
    (1760 ≤ temp.toInt → temp.toInt < 2000 → s.boot.test.coreLive k = true →
      ∃ t, exec .thermalThrottle s = .next t ∧ (∀ j, j = k / 16 → t.thr j = 4) ∧ (∀ j, j ≠ k / 16 → t.thr j = s.thr j) ∧
        tabGet 0 t.mon.temp k = temp ∧ t.mon.tvalid = s.mon.tvalid ||| BitVec.ofNat 128 (2 ^ k) ∧ t.cores = s.cores ∧ t.m = s.m) ∧
    (temp.toInt < 1600 → s.boot.test.coreLive k = true →
      ∃ t, exec .thermalUnthrottle s = .next t ∧ tabGet 0 t.mon.temp k = temp ∧ t.cores = s.cores ∧ t.m = s.m ∧
        ((∀ e ∈ t.mon.temp, e.1 / 16 = k / 16 → e.2.toInt < 1600) →
          t.mon.forced = s.mon.forced &&& ~~~(BitVec.ofNat 8 (2 ^ (k / 16)))) ∧
        ((∃ e ∈ t.mon.temp, e.1 / 16 = k / 16 ∧ 1600 ≤ e.2.toInt) → t.mon.forced = s.mon.forced)) ∧
    (2000 ≤ temp.toInt → s.boot.test.coreLive k = true → ∃ t, exec .thermalTrip s = .next t ∧ coldReset s t true) ∧
    (s.input.reg.window = .bar2 → exec .registerWrite s = .next s) ∧
    (s.input.reg.window = .vsec → s.host.linkUp = true → s.input.reg.off = 0x18 → s.input.reg.size = 8 →
      exec .registerWrite s =
        .next { s with host := { s.host with qtBase := BitVec.ofNat 64 (s.input.reg.value.toNat / 4096 * 4096) } }) ∧
    (s.input.reg.window = .firmware → s.fwRuns d.toNat = true → s.fwActs d.toNat = true → s.input.reg.size = 8 →
      (∀ j < 8, s.input.reg.off = BitVec.ofNat 32 (0x2000500 + 8 * j) → ∃ t, exec .registerWrite s = .next t ∧
        (1 ≤ s.input.reg.value.toNat % 32 → s.input.reg.value.toNat % 32 ≤ 16 →
          tabGet 16 t.mon.thr j = s.input.reg.value.setWidth 5) ∧
        (s.input.reg.value.toNat % 32 = 0 ∨ 16 < s.input.reg.value.toNat % 32 → tabGet 16 t.mon.thr j = tabGet 16 s.mon.thr j) ∧
        t.m = s.m ∧ t.cores = s.cores)) ∧
    (∃ t, exec .tick s = .next t ∧ t.m = s.m ∧
      let r := s.input.reticle.toNat
      let now := t.time.now.getD r 0 / (1000 * 2 ^ 48)
      ∀ c < 128, (t.ctlAt c).r.evPend =
        if s.time.ticks.getD r 0 < now ∧ c / 32 = r ∧ s.boot.test.coreLive c = true then (s.ctlAt c).r.evPend ||| 0x20
        else (s.ctlAt c).r.evPend)

/-! ## Command queues -/

/-- The input names a started command with code `op` of a queue that works, and die firmware may act on it (R106, R107, R111, R112, R420). -/
def Sys2Proof.Machine.commandRuns (s : State) (op : Nat) (c : Cmd) : Prop :=
  s.cmdAt s.input.queue.toNat s.input.num = some c ∧ c.started = true ∧ c.op = op ∧ s.fwReady = true ∧ s.recordRoom = true ∧
  (s.queue s.input.queue.toNat).st = .active ∧ (s.queue s.input.queue.toNat).resetBy = []

/-- A command leaves its queue with one record (R110). -/
def Sys2Proof.Machine.completes (s t : State) (q : Nat) (c : Cmd) (status cause : Nat) (va : Word) : Prop :=
  (∀ d ∈ (t.queue q).cmds, d.n ≠ c.n) ∧
  ∃ r, t.host.records = s.host.records ++ [r] ∧ r.queue = BitVec.ofNat 10 q ∧ r.id = c.cmId ∧ r.status = BitVec.ofNat 8 status ∧
    r.cause = BitVec.ofNat 8 cause ∧ r.va = va ∧ r.launchT = c.time ∧ r.msi = c.notify ∧
    r.flags = c.lastFlags ||| (if c.held then 16 else 0)

/-- A command of its queue, as it goes on. -/
def Sys2Proof.Machine.goesOn (t : State) (q : Nat) (c d : Cmd) : Prop :=
  d ∈ (t.queue q).cmds ∧ d.n = c.n ∧ d.bytes = c.bytes ∧ d.started = true

/-- A fatal event of a command: one record is written for it, and its queue stops and keeps the other commands until its work has drained
(R112). -/
def Sys2Proof.Machine.fatalTo (s t : State) (q : Nat) (c : Cmd) (cause : Nat) (va : Word) : Prop :=
  (t.queue q).st = .faulting ∧ (t.queue q).cmds.map Cmd.n = ((s.queue q).cmds.filter (fun d => d.n != c.n)).map Cmd.n ∧
  (∃ r ∈ t.host.records, r.queue = BitVec.ofNat 10 q ∧ r.id = c.cmId ∧ r.status = 1 ∧ r.cause = BitVec.ofNat 8 cause ∧ r.va = va)

/-- A DISCARDED record of a command, with what a COPY has copied (R110, R111). -/
def Sys2Proof.Machine.discarded (t : State) (q : Nat) (c : Cmd) : Prop :=
  ∃ r ∈ t.host.records, r.queue = BitVec.ofNat 10 q ∧ r.id = c.cmId ∧ r.status = 2 ∧ r.va = (if c.op = 4 then BitVec.ofNat 64 c.left else 0)

/-- R44, R100 to R104, R107, R210, and where SUBMISSION_WRITE, QUEUE_LOAD, COMMAND_CONSUME and COMMAND_START complete: a submission write records a
greater tail, and one that overruns the ring faults the queue; a loaded entry makes its queue active or refused and is told in the queue table,
once nothing uses a translation of its address space; a consumed command takes its number, moves QE_HEAD on, and completes at once where it is
defective, starts where nothing holds it, and waits otherwise; a held command starts once nothing holds it. A STOP or a QRESET acts as it starts,
which CommandEvents and TaskEvents state. That a load writes QE_HEAD 0 and QE_ERR 0 into the queue table is the model's (assumption 62). -/
def Obligations.QueueEvents : Prop :=
  ∀ (s : State),
    (s.input.num % 8 = 0 → s.input.size = 8 → s.input.num < 0x2000 → s.boot.warming = false → (s.queue (s.input.num / 8)).resetBy = [] →
      s.tail (s.input.num / 8) < s.input.word.toNat →
      let q := s.input.num / 8
      let overruns := s.fwReady = true ∧ (s.queue q).st = .active ∧ (s.queue q).head + 2 ^ (s.queue q).sqLog.toNat < s.input.word.toNat
      ∃ t, exec .submissionWrite s = .next t ∧ t.tail q = s.input.word.toNat ∧
        (¬ overruns → { t with host := { t.host with tails := s.host.tails } } = s ∧ ∀ j, j ≠ q → t.tail j = s.tail j) ∧
        (overruns → (t.queue q).st = .faulting ∧ ∃ r ∈ t.host.records, r.queue = BitVec.ofNat 10 q ∧ r.status = 5 ∧
          r.id = BitVec.allOnes 32 ∧ r.task = BitVec.allOnes 16)) ∧
    (s.input.num % 8 = 0 → s.input.size = 8 → s.input.num < 0x2000 → s.input.word.toNat ≤ s.tail (s.input.num / 8) →
      exec .submissionWrite s = .next s) ∧
    (let q := s.input.queue.toNat
      let e := s.input.bytes
      let asn : BitVec 16 := BitVec.ofNat 16 (fieldAt e 0x14 2)
      s.fwReady = true → ((s.queue q).st = .idle ∨ (s.queue q).st = .refused) → (s.queue q).resetBy = [] → s.tail q ≠ 0 →
      (∀ r ∈ s.host.records, r.queue.toNat ≠ q) →
      (s.entryErr e = 0 → s.usesRange asn 0 0 = true → exec .queueLoad s = .next s) ∧
      ((s.entryErr e = 0 → s.usesRange asn 0 0 = false) → ∃ t, exec .queueLoad s = .next t ∧ t.cores = s.cores ∧
        ((byteAt e 0x13).getLsbD 0 = false → (t.queue q).st = .refused ∧ (t.queue q).err = 1) ∧
        (s.entryErr e ≠ 0 → (t.queue q).st = .refused ∧ (t.queue q).err = BitVec.ofNat 8 (s.entryErr e) ∧ t.tail q = 0 ∧
          t.bytes (s.entryKey q + 0x38) 2 = [3, BitVec.ofNat 8 (s.entryErr e)]) ∧
        (s.entryErr e = 0 → (t.queue q).st = .active ∧ (t.queue q).sqBase = BitVec.ofNat 64 (fieldAt e 0 8) ∧
          (t.queue q).cqBase = BitVec.ofNat 64 (fieldAt e 8 8) ∧ (t.queue q).sqLog = BitVec.ofNat 8 (fieldAt e 0x10 1) ∧
          (t.queue q).cqLog = BitVec.ofNat 8 (fieldAt e 0x11 1) ∧ (t.queue q).prio = BitVec.ofNat 3 (fieldAt e 0x12 1) ∧
          (t.queue q).intEn = (byteAt e 0x12).getLsbD 7 ∧ (t.queue q).asn = asn ∧
          (t.queue q).ptRoot = BitVec.ofNat 64 (fieldAt e 0x18 8) ∧ (t.queue q).save = BitVec.ofNat 64 (fieldAt e 0x20 8) ∧
          (t.queue q).head = 0 ∧ (t.queue q).written = 0 ∧ (t.queue q).cmds = [] ∧ t.bytes (s.entryKey q + 0x30) 8 = List.replicate 8 0 ∧
          t.bytes (s.entryKey q + 0x38) 2 = [1, 0]))) ∧
    (let q := s.input.queue.toNat
      let x := s.queue q
      s.fwReady = true → x.st = .active → x.resetBy = [] → x.head < s.tail q → s.tail q ≤ x.head + 2 ^ x.sqLog.toNat →
      s.recordRoom = true → s.input.bytes.length = 64 → (∀ d ∈ x.cmds, d.n < x.head) →
      let c : Cmd :=
        { n := x.head, bytes := s.input.bytes, started := false, time := s.elapse.timeOf 0, deadline := 0, access := none, slot := none, left := 0,
          held := false }
      let acts := c.op = 7 ∨ c.op = 8
      ∃ t, exec .commandConsume s = .next t ∧
        ∀ s1, (s.elapse.lacksRecords x.asn c = (true, s1) → t = s1) ∧
          (s.elapse.lacksRecords x.asn c = (false, s1) → (¬ acts → (t.queue q).head = x.head + 1 ∧
              t.bytes (s1.entryKey q + 0x30) 8 = leBytes 8 (x.head + 1)) ∧
            (c.defect = true → completes s1 t q c 4 0 0 ∧ (t.queue q).cmds = x.cmds) ∧
            (c.defect = false → ¬ acts → x.mayStart c = true →
              ∃ d, goesOn t q c d ∧ d.access = none ∧
                d.deadline = if c.op = 3 ∧ fieldAt c.bytes 0x20 8 ≠ 0 then t.time.cycle + 2000 * fieldAt c.bytes 0x20 8 else 0) ∧
            (c.defect = false → acts → x.mayStart c = true →
              t = ((s1.setQueue q { x with head := x.head + 1, cmds := x.cmds ++ [c] }).tellHead q (x.head + 1)).beginCmd q c) ∧
            (c.defect = false → x.mayStart c = false → (t.queue q).cmds = x.cmds ++ [c]))) ∧
    (let q := s.input.queue.toNat
      let x := s.queue q
      ∀ c, (c.barrier = false ∧ c.op ≠ 2 ∨ ∀ d ∈ x.cmds, c.n ≤ d.n) →
        (∀ d ∈ x.cmds, d.n < c.n → d.started = true ∧ d.op ≠ 3 ∧ (d.op ≠ 7 ∧ d.op ≠ 8 ∨ d.left ≠ 0)) → x.mayStart c = true) ∧
    (let q := s.input.queue.toNat
      let x := s.queue q
      ∀ c, s.cmdAt q s.input.num = some c → c.started = false → s.fwReady = true → s.recordRoom = true → x.st = .active → x.resetBy = [] →
        (x.mayStart c = true → c.op ≠ 7 → c.op ≠ 8 →
          ∃ t d, exec .commandStart s = .next t ∧ goesOn t q c d ∧ d.time = t.timeOf 0 ∧ t.m = s.m) ∧
        (x.mayStart c = true → exec .commandStart s = .next (s.elapse.beginCmd q c)) ∧
        (x.mayStart c = false → exec .commandStart s = .next s))

/-- R106, R107, R110 to R112, R420, and where SIGNAL, WAIT_COMMAND, WAIT_TIMEOUT, COPY_COMMAND, QRESET, QRESET_REPORT and COMPLETION_RECORD
complete: SIGNAL's release store or AMO.ADD and WAIT's read leave as one access and complete with its answer, or fault their queue; WAIT reads
again until its condition holds, and its timeout is FAULT with WATCHDOG; a COPY command takes a slot of reticle 0's copy engine and completes with
the operation; QRESET stops its target and waits for its report, which follows the DISCARDED records of the target's commands; a record is written
to its ring with the phase bit, lowers its successors' counters, and frees the target that it reports; and a faulting queue whose work has drained
is faulted, with its DISCARDED records. -/
def Obligations.CommandEvents : Prop :=
  ∀ (s : State),
    let q := s.input.queue.toNat
    (∀ c, commandRuns s 2 c →
      let va : Word := BitVec.ofNat 64 (fieldAt c.bytes 8 8)
      let plain := fieldAt c.bytes 0x19 1 = 0
      (c.access = none → (s.queue q).st = .active → va.toNat % 8 ≠ 0 →
        ∃ t, exec .signal s = .next t ∧ fatalTo s t q c (if plain then 0x03 else 0x12) va) ∧
      (c.access = none → va.toNat % 8 = 0 → 65536 ≤ va.toNat → ∀ l a s1,
        s.elapse.translate 0 (s.queue q).asn va (if plain then .write else .rmw) = (.at l a, s1) → (plain ∨ a.fe = false) →
        ∃ t x d, exec .signal s = .next t ∧ x ∈ t.net.accesses ∧ x.agent = .firmware 0 ∧ x.op = (if plain then .write else .amo 0) ∧
          x.loc = l ∧ x.size = 8 ∧ x.data = (c.bytes.drop 0x10).take 8 ∧ x.done = false ∧ goesOn t q c d ∧ d.access = some x.id) ∧
      (∀ x, s.elapse.cmdAnswer c = some x → c.access.isSome = true →
        (x.err = 0 → ∃ t, exec .signal s = .next t ∧ completes s t q c 0 0 0) ∧
        (x.err ≠ 0 → (s.queue q).st = .active → ∃ t, exec .signal s = .next t ∧ fatalTo s t q c x.err.toNat va))) ∧
    (∀ c, commandRuns s 3 c →
      let va : Word := BitVec.ofNat 64 (fieldAt c.bytes 8 8)
      let want := fieldAt c.bytes 0x10 8
      (c.access = none → va.toNat % 8 = 0 → 65536 ≤ va.toNat → ∀ l a s1, s.elapse.translate 0 (s.queue q).asn va .read = (.at l a, s1) →
        ∃ t x d, exec .waitCommand s = .next t ∧ x ∈ t.net.accesses ∧ x.agent = .firmware 0 ∧ x.op = .read ∧ x.loc = l ∧ x.size = 8 ∧
          x.acquire = some (BitVec.ofNat 3 c.scope) ∧ goesOn t q c d ∧ d.access = some x.id) ∧
      (∀ x, s.elapse.cmdAnswer c = some x → c.access.isSome = true → x.err = 0 →
        let holds := if fieldAt c.bytes 0x19 1 = 0 then want ≤ leNat x.data else leNat x.data = want
        (holds → ∃ t, exec .waitCommand s = .next t ∧ completes s t q c 0 0 0) ∧
        (¬ holds → ∃ t d, exec .waitCommand s = .next t ∧ goesOn t q c d ∧ d.access = none)) ∧
      (c.deadline ≠ 0 → c.deadline ≤ s.time.cycle → ∃ t, exec .waitTimeout s = .next t ∧ completes s t q c 1 0x0D 0)) ∧
    (∀ c, commandRuns s 4 c →
      (c.slot = none → ∀ i, s.elapse.freeSlot true 0 = some i → ∃ t e d, exec .copyCommand s = .next t ∧ t.engOp true 0 i = some e ∧
        e.kind = .copy ∧ e.desc = c.copyDesc ∧ e.cmd = some (s.input.queue, c.n) ∧ e.unit = 0 ∧ goesOn t q c d ∧
        d.slot = some (BitVec.ofNat 6 i)) ∧
      (∀ i e, c.slot = some i → s.elapse.engOp true 0 i.toNat = some e → s.elapse.engDone true 0 i.toNat e = true →
        ∃ t, exec .copyCommand s = .next t ∧ completes s t q c 0 0 (BitVec.ofNat 64 (fieldAt c.bytes 0x18 8)) ∧
          t.engOp true 0 i.toNat = none)) ∧
    (∀ c, commandRuns s 8 c →
      let g := fieldAt c.bytes 8 2
      ((s.queue g).resetBy = [] → ((s.queue g).st = .idle ∨ (s.queue g).st = .refused) →
        ∃ t, exec .qreset s = .next t ∧ completes s t q c 0 0 0 ∧ (t.queue g).st = .idle ∧ (t.queue g).cmds = [] ∧ t.tail g = 0) ∧
      ((s.queue g).resetBy = [] → ((s.queue g).st = .active ∨ (s.queue g).st = .faulting ∨ (s.queue g).st = .faulted) →
        ∃ t, exec .qreset s = .next t ∧ (t.queue g).resetBy = [(s.input.queue, c.n)] ∧ (∀ u ∈ t.sched.tasks, u.queue.toNat ≠ g)) ∧
      ((s.queue g).resetBy ≠ [] → (s.input.queue, c.n) ∉ (s.queue g).resetBy →
        ∃ t, exec .qreset s = .next t ∧ (t.queue g).resetBy = (s.queue g).resetBy ++ [(s.input.queue, c.n)])) ∧
    ((s.queue q).resetBy ≠ [] → s.fwReady = true →
      let s1 := s.elapse.freeDead
      let own : Cmd → Prop := fun c => (s.input.queue, c.n) ∈ (s1.queue q).resetBy
      (s1.drained q = false → exec .qresetReport s = .next s1) ∧
      (s1.drained q = true → (∀ r ∈ s1.host.records, r.queue.toNat ≠ q ∧ r.frees ≠ some s.input.queue) → s1.recordRoom = true →
        ((∃ c ∈ (s1.queue q).cmds, ¬ own c) → ∃ t, exec .qresetReport s = .next t ∧ (∀ c ∈ (t.queue q).cmds, own c) ∧
          (t.queue q).st = (s1.queue q).st ∧ ∀ c ∈ (s1.queue q).cmds, ¬ own c → discarded t q c) ∧
        ((∀ c ∈ (s1.queue q).cmds, own c) →
          (∀ g n c, (s1.queue q).resetBy = [(g, n)] → s1.cmdAt g.toNat n = some c →
            ∃ t r, exec .qresetReport s = .next t ∧ t.host.records = s1.host.records ++ [r] ∧ r.queue = g ∧ r.id = c.cmId ∧ r.status = 0 ∧
              r.frees = some s.input.queue ∧ (t.queue q).st = (s1.queue q).st ∧ (t.queue q).resetBy = (s1.queue q).resetBy) ∧
          ((∀ r ∈ (s1.queue q).resetBy, s1.cmdAt r.1.toNat r.2 = none) →
            ∃ t, exec .qresetReport s = .next t ∧ (t.queue q).st = .idle ∧ (t.queue q).head = 0 ∧ (t.queue q).cmds = [] ∧
              (t.queue q).resetBy = [] ∧ t.tail q = 0)))) ∧
    (∀ r, s.host.records.find? (fun r => r.queue.toNat == q) = some r → s.fwReady = true → (s.queue q).st ≠ .faulting →
      let x := s.queue q
      let n := 2 ^ x.cqLog.toNat
      let key := hostKey (x.cqBase.toNat + 64 * (x.written % n))
      x.written < s.input.num + n →
      (r.frees = none → ∃ t, exec .completionRecord s = .next t ∧ t.host.records = s.host.records.erase r ∧ (t.queue q).written = x.written + 1 ∧
        t.bytes key 64 = r.bytes x (1 - x.written / n % 2) ∧
        t.host.msix = (if x.intEn = true ∨ r.msi = true then s.host.msix ++ [q] else s.host.msix) ∧
        ((r.status = 0 ∨ r.status = 3) → r.succs.Nodup → ∀ u ∈ r.succs, ∀ k, s.findTask u = some k →
          ∃ k', t.findTask u = some k' ∧ k'.deps = k.deps - 1 ∧ (k.deps ≤ 1 → k.st = .waiting → k'.st = .ready)) ∧
        (r.status ≠ 0 → r.status ≠ 3 → t.sched = s.sched)) ∧
      (∀ g, r.frees = some g → ∃ t, exec .completionRecord s = .next t ∧ (t.queue g.toNat).st = .idle ∧ (t.queue g.toNat).head = 0 ∧
        (t.queue g.toNat).cmds = [] ∧ (t.queue g.toNat).resetBy = [] ∧ t.tail g.toNat = 0)) ∧
    (let x := s.queue q;
      x.st = .faulting → x.resetBy = [] → s.freeDead.drained q = true → s.input.num + 2 ^ x.cqLog.toNat ≤ x.written →
      ∃ t, exec .completionRecord s = .next t ∧ (t.queue q).st = .faulted ∧ (t.queue q).cmds = [] ∧ t.bytes (s.entryKey q + 0x38) 2 = [2, 0] ∧
        ∀ c ∈ x.cmds, discarded t q c)

/-- What the dispatch of a candidate finds: the task, where no channel of it is taken, its placement, the mapping, which nothing keeps out, and the
state once the stream parameter blocks are filled in (R79, R120, R122 to R125, R135). -/
def Sys2Proof.Machine.dispatches (s : State) (c : Cand) (u : Task) (p : Placement) (regs : Mapped) (s2 : State) : Prop :=
  let v := s.dispatched u p
  c.region = none ∧ s.findTask c.uid = some u ∧ u.sprint &&& s.heldChannels [] = 0 ∧ s.placeTask u [] = some p ∧
  s.mapPlacement v p p = some regs ∧ s.mappingFree v p regs = true ∧
  State.patchBlocks (s.queue u.queue.toNat).asn (v.binding p) ((s.graphInfo u.graph).patches.filter (fun x => p.any (fun r => r.1 == x.region)))
    (s.cacheFrames v p) = (.done, s2)

/-- R106, R109, R117 to R121, R127 to R132, R134, R260, R346, R354, R356, and where LAUNCH, STOP, POOL_EVALUATION, PREEMPT_TRAP, PREEMPT_QUIESCED,
START_RELEASE, CONFIG_REQUEST_DONE, CONTROL_CORE_REPORT, REGION_COMPLETE, CORE_RESUME and CORE_ABANDON complete: LAUNCH refuses a graph or enters
its tasks with their dependence counts; the pool's candidates stand in the order of R120, an evaluation dispatches a lone candidate that it can
place, whose task then configures its regions, and does nothing while dispatch pauses; a pre-emption's trap, its save, which frees every core of
the task, and its cancellation once every sink has reported; the start release of a loaded task; the answer to a configuration request; a control
core's report, the completion of a region and of its task; STOP, which puts its EOR in front of every source; and what die firmware does with a
stopped core. Each of LAUNCH, STOP, POOL_EVALUATION, PREEMPT_TRAP, PREEMPT_QUIESCED, START_RELEASE, CONFIG_REQUEST_DONE, CONTROL_CORE_REPORT,
REGION_COMPLETE, CORE_RESUME and CORE_ABANDON answers a next state that holds its own effect. -/
def Obligations.TaskEvents : Prop :=
  ∀ (s : State),
    let q := s.input.queue.toNat
    let k := s.input.core.ix
    let ri := s.input.region.toNat
    (∀ c, commandRuns s 1 c → c.left = 0 →
      (∀ e s1, s.elapse.readGraph (s.queue q).asn (fieldAt c.bytes 8 8) = (.error e, s1) →
        ∃ t, exec .launch s = .next t ∧ completes s1 t q c 7 e.1 e.2) ∧
      (∀ ts edges s1 s2, s.elapse.readGraph (s.queue q).asn (fieldAt c.bytes 8 8) = (.ok (ts, edges), s1) → ts.length ≤ s1.poolFree →
        State.writeBounds (s.queue q).asn ts s1 = (.done, s2) →
        ∃ t new, exec .launch s = .next t ∧ t.sched.tasks = s2.sched.tasks ++ new ∧ new.length = ts.length ∧
          ∀ (i : Nat) (u : Task) (g : TaskImage), new[i]? = some u → ts[i]? = some g → u.uid = s2.sched.nextUid + i ∧ u.desc = g.desc ∧
            u.graph = g.graph ∧ u.arg = BitVec.ofNat 64 (fieldAt c.bytes 0x10 8) ∧
            u.deps = (edges.filter (fun e => e.2 == i)).length ∧ u.st = (if u.deps = 0 then .ready else .waiting) ∧
            u.succs = (edges.filter (fun e => e.1 == i)).map (fun e => s2.sched.nextUid + e.2))) ∧
    s.candidates.Pairwise (fun a b => b.before a = false) ∧
    (let s0 := s.elapse.freeDead;
      let s1 := s0.takeAsked
      (s0.fwReady = false ∨ s0.sched.paused = true → exec .poolEvaluation s = .next s0) ∧
      (s0.fwReady = true → s0.sched.paused = false → ∀ c, s1.candidates = [c] →
        (∀ t, s1.tryDispatch c = some t → exec .poolEvaluation s = .next t) ∧
        (s1.tryDispatch c = none → exec .poolEvaluation s = .next (s1.preemptFor c)) ∧
        (∀ u p regs s2, dispatches s1 c u p regs s2 →
          ∃ t u', exec .poolEvaluation s = .next t ∧ t.findTask u.uid = some u' ∧ u'.st = .configuring ∧ u'.dispatchT = s1.clock ∧
            u'.regions.length = u.regions.length ∧
            ∀ r ∈ p, ∃ g, u'.regions[r.1]? = some g ∧ g.placed = true ∧ g.released = false ∧ g.done = false) ∧
        (∀ u p x, c.region = none → s1.findTask c.uid = some u → u.sprint &&& s1.heldChannels [] = 0 → s1.placeTask u [] = some p →
          s1.mapPlacement (s1.dispatched u p) p p = none → s1.recordRoom = true → s1.cmdAt u.queue.toNat u.cmdN = some x →
          (∀ v ∈ s1.sched.tasks, v.queue = u.queue → v.cmdN = u.cmdN → v = u) →
          ∃ t o, exec .poolEvaluation s = .next t ∧ (∀ v ∈ t.sched.tasks, v.uid ≠ u.uid) ∧ o ∈ t.host.records ∧ o.status = 7 ∧ o.id = x.cmId ∧
            o.task = u.index))) ∧
    ((s.ctlAt k).preempt = true → s.fwActs (k / 16) = true →
      let noArms := ∀ a ∈ s.plane.ports ++ s.plane.queued, a.1 / 16 = k → a.2.who = .ctl ∨ a.2.entered = true
      ((s.ctlAt k).run = .running → s.countsOpen k = true → exec .preemptTrap s = .next s) ∧
      (s.plane.queued = [] → s.countsOpen k = false →
        ((s.ctlAt k).run = .running ∧ (s.ctlAt k).wait = .none ∧ (s.ctlAt k).r.firmware = false ∨
          (s.ctlAt k).run = .ended ∨ (s.ctlAt k).run = .halted ∨ (s.ctlAt k).run = .off) →
        ∃ t, exec .preemptTrap s = .next t ∧ ∀ key a n, (key, a) ∈ s.plane.ports → key / 16 = k → a.who = .node n → a.entered = false →
          (key, a) ∉ t.plane.ports ∧ ((t.site k n.site.toNat).ct.node n.slot.toNat).armed = false) ∧
      ((s.ctlAt k).run = .running → (s.ctlAt k).wait = .none → (s.ctlAt k).r.firmware = false → s.countsOpen k = false → noArms →
        ∃ t, exec .preemptTrap s = .next t ∧ (∀ j, j ≠ k → t.core j = s.core j) ∧ t.m = s.m ∧
          t.ctlAt k = { s.ctlAt k with
            run := .stopped, preempt := false
            r := { (s.ctlAt k).r with trapCause := 0, trapVal := 0, trapPc := (s.ctlAt k).r.pc } }) ∧
      ((s.ctlAt k).run = .ended ∨ (s.ctlAt k).run = .halted ∨ (s.ctlAt k).run = .off → noArms →
        exec .preemptTrap s = .next (s.setCtlAt k { s.ctlAt k with preempt := false })) ∧
      ((s.ctlAt k).run = .stopped → exec .preemptTrap s = .next s)) ∧
    (∀ u, s.findTask s.input.num = some u → u.st = .draining → (∀ d ∈ u.dies, s.fwActs d = true) →
      (s.allReported u.uid = true → ∃ t u', exec .preemptQuiesced s = .next t ∧ t.findTask u.uid = some u' ∧ u'.st = .running ∧
        u'.flags = u.flags) ∧
      (s.allReported u.uid = false → ((∃ j ∈ s.taskCores u.uid, s.cellQuiet j = false) ∨ s.addersEmpty u.uid = false) →
        exec .preemptQuiesced s = .next s) ∧
      (s.allReported u.uid = false → (∀ j ∈ s.taskCores u.uid, s.cellQuiet j = true ∧ s.saveBad j = none) → s.addersEmpty u.uid = true →
        let x := s.queue u.queue.toNat
        let s1 := (s.taskCores u.uid).foldl (fun s j => (s.withdraw j).cleanLines j) s
        let saved := (s.taskCores u.uid).filterMap (fun j => ((s1.core j).occ).map (s1.saveCell j))
        let n := min u.saveLen ((saved.map (fun c => 81920 + 128 * (c.units.map (fun v => v.2.length)).sum)).sum)
        let block := ({ s1 with draws := s1.draws + n } : State).fwWrite x.asn ((x.save.toNat + fieldAt u.desc 0x10 8) % 2 ^ 64) (freeBytes s1.draws n)
        (∀ s2, block = (.done, s2) → s2.findTask u.uid = some u → (∀ j ∈ s.taskCores u.uid, (s1.core j).occ = (s.core j).occ) →
          s2.taskCores u.uid = s.taskCores u.uid →
          ∃ t u', exec .preemptQuiesced s = .next t ∧ t.findTask u.uid = some u' ∧ u'.st = .preempted ∧ u'.flags = u.flags ||| 8 ∧
            u'.readyT = u.readyT ∧ u'.saved = saved ∧ ∀ j ∈ s.taskCores u.uid, (t.core j).occ = none ∧ ∀ o, (s.core j).occ = some o →
              ∃ x ∈ u'.saved, x.region = o.region ∧ x.cell = o.cell ∧ x.ctl.r = (s1.ctlAt j).r) ∧
        (∀ c va s2, block = (.fault c va, s2) → (s2.queue u.queue.toNat).st = .active → (s2.queue u.queue.toNat).resetBy = [] →
          ∃ t, exec .preemptQuiesced s = .next t ∧ (t.queue u.queue.toNat).st = .faulting))) ∧
    (∀ u, s.findTask s.input.num = some u → u.st = .configuring → s.fwReady = true → (∀ j ∈ s.taskCores u.uid, s.coreLoaded j = true) →
      ∃ t, exec .startRelease s = .next t ∧ (∃ u', t.findTask u.uid = some u' ∧ u'.st = .running ∧ u'.saved = []) ∧
        ∀ j ∈ s.taskCores u.uid, ∀ o r, (s.core j).occ = some o → u.regions[o.region.toNat]? = some r → r.placed = true →
          (t.core j).occ = some { o with configured := true } ∧
          (u.savedCell o.region.toNat o.cell.toNat = none → (t.ctlAt j).run = .running ∧ (t.ctlAt j).r.pc = 0 ∧
            (t.ctlAt j).r.firmware = false ∧ (t.ctlAt j).r.get 1 = u.arg ∧ (t.ctlAt j).r.spGrant = BitVec.ofNat 16 u.sprint) ∧
          (∀ x, u.savedCell o.region.toNat o.cell.toNat = some x → x.ctl.run ≠ .ended → (t.ctlAt j).run = .running ∧
            (t.ctlAt j).r.pc = x.ctl.r.trapPc ∧ (t.ctlAt j).r.s = x.ctl.r.s)) ∧
    (∀ u r w d n, s.findTask s.input.num = some u → u.regions[ri]? = some r → s.fwReady = true → r.onDemand = true → u.st = .running →
      r.released = false → r.waiters = [(w, none)] → (s.ctlAt w.ix).wait = .cfgreq d n → n.toNat = ri →
      (∀ o, (s.core w.ix).occ = some o → o.region.toNat ≠ ri) →
      let told : State → Word → Prop := fun t v => (t.ctlAt w.ix).wait = .none ∧ (t.ctlAt w.ix).r.get d = (if d = 0 then 0 else v) ∧
        (t.ctlAt w.ix).r.pc = (s.ctlAt w.ix).r.pc + 4
      (r.placed = true → (∀ j ∈ s.taskCores u.uid, s.coreLoaded j = true) →
        ∃ t, exec .configRequestDone s = .next t ∧ told t (BitVec.ofNat 64 (r.die.toNat * 256)) ∧
          ∃ u' r', t.findTask u.uid = some u' ∧ u'.regions[ri]? = some r' ∧ r'.released = true ∧ r'.waiters = []) ∧
      (r.placed = true → (∃ j ∈ s.taskCores u.uid, (∃ o, (s.core j).occ = some o ∧ o.region.toNat = ri) ∧ s.coreLoaded j = false) →
        exec .configRequestDone s = .next s) ∧
      (let ever := (s.placeEver u ri).any (fun p => (s.mapPlacement u (u.placement ++ p) p).isSome);
        (r.placed = false → ever = true → exec .configRequestDone s = .next s) ∧
        (r.placed = false → ever = false → ∃ t, exec .configRequestDone s = .next t ∧ told t 3))) ∧
    ((s.ctlAt k).run = .ended → s.lcnt k = 0 → s.scnt k = 0 → s.ccnt k = 0 → s.tcnt k = 0 → s.claimed k = false →
      ∃ t, exec .controlCoreReport s = .next t ∧ t.ctlAt k = s.ctlAt k ∧ (∀ o, (s.core k).occ = some o → (t.core k).occ = some { o with ctlDone := true }) ∧
        ∀ b ∈ t.m.banks, b.core = k → b.dirty = 0) ∧
    (∀ u r, s.findTask s.input.num = some u → u.regions[ri]? = some r → r.placed = true → r.released = true → r.done = false → r.onDemand = false →
      u.st = .running →
      let cores := (s.taskCores u.uid).filter (fun j => match (s.core j).occ with | some o => o.region.toNat == ri | none => false)
      s.regionReported cores = true → (∀ j ∈ s.jobsOf u.uid, j.cut = true) → (∀ a ∈ s.ckpt.asked, a.1 ≠ u.uid) → s.recordRoom = true →
      ∃ t, exec .regionComplete s = .next t ∧ (∀ j ∈ cores, (t.core j).occ = none) ∧
        ((∃ j x, j ≠ ri ∧ u.regions[j]? = some x ∧ (if x.onDemand then x.placed else !x.done) = true) →
          ∃ u' r', t.findTask u.uid = some u' ∧ u'.regions[ri]? = some r' ∧ r'.done = true ∧ t.host.records = s.host.records) ∧
        ((∀ j x, j ≠ ri → u.regions[j]? = some x → (if x.onDemand then x.placed else !x.done) = false) →
          ∀ c, s.cmdAt u.queue.toNat u.cmdN = some c → t.findTask u.uid = none ∧
            ∃ o, t.host.records = s.host.records ++ [o] ∧ o.queue = u.queue ∧ o.id = c.cmId ∧ o.task = u.index ∧
              o.status = (if u.stopping then 3 else 0) ∧ o.flags = u.flags ||| (if c.left ≤ 1 then 2 else 0) ∧ o.succs = u.succs)) ∧
    (∀ c, commandRuns s 7 c →
      let named := s.namedTasks q (fieldAt c.bytes 8 4) (fieldAt c.bytes 0x0C 2)
      (c.left = 0 → named = [] → ∃ t, exec .stop s = .next t ∧ completes s t q c 4 0 0) ∧
      (∀ u, c.left = 0 → named = [u] → u.st = .running → u.stopping = false → (∀ j ∈ s.taskCores u.uid, s.claimed j = false) →
        ∃ t d u', exec .stop s = .next t ∧ goesOn t q c d ∧ d.left = 1 ∧ u' ∈ t.sched.tasks ∧ u'.uid = u.uid ∧ u'.stopping = true ∧
          ∀ p ∈ s.sources u.uid, s.released p.1 = true → (t.port p.1 p.2).stopped = true ∧
            ∃ op, PortItem.mark (mkMark 0 7 0 (markOrigin p.1 17) 1) op false ∈ (t.port p.1 p.2).items) ∧
      (∀ u g, c.left = 0 → named = [u] → (u.st = .ready ∨ u.st = .waiting) → s.cmdAt q u.cmdN = some g → u.queue.toNat = q →
        ∃ t o, exec .stop s = .next t ∧ (∀ u' ∈ t.sched.tasks, u'.uid ≠ u.uid) ∧ o ∈ t.host.records ∧ o.status = 3 ∧ o.id = g.cmId ∧
          o.task = u.index) ∧
      (c.left ≠ 0 → (∀ u ∈ named, u.stopping = true → u.st = .running) → ∃ t, exec .stop s = .next t ∧ completes s t q c 0 0 0)) ∧
    (s.serves k = true →
      (∃ t, exec .coreResume s = .next t ∧ (∀ j, j ≠ k → t.core j = s.core j) ∧ t.m = s.m ∧ t.ctlAt k = { s.ctlAt k with
        run := .running, r := { (s.ctlAt k).r with pc := s.input.data.getD (s.ctlAt k).r.trapPc } }) ∧
      (∀ o u, (s.core k).occ = some o → s.findTask o.task = some u → (s.queue o.queue.toNat).st = .active →
        (s.queue o.queue.toNat).resetBy = [] → ∃ t, exec .coreAbandon s = .next t ∧ (t.queue o.queue.toNat).st = .faulting ∧
          ∃ r ∈ t.host.records, r.queue = o.queue ∧ r.status = 1 ∧ r.cause = (s.ctlAt k).r.trapCause ∧ r.va = (s.ctlAt k).r.trapVal))

/-! ## The contention plane and residency -/

/-- R67 to R73, R80, R86, R140 to R147, and where FRAME_START, SPRINT_RESULT_LATCH, SWAP_INSTANT, SWAP_DRAIN_DONE, SWAP_INSTALL and ROUTE_UPDATE
complete: a frame starts with the ports armed for it; the winner of a frame is a contender that none outranks, one whose port has been disarmed
since among them, and its agent receives the result in cycle 106; an instant halves the die's sillage, ages its occupants, and claims disjoint
pairs, at most SWMAXP; an exchange drains, installs each occupant on the other core with its memories, and the senders of a moved cell, each told
by a route update, send their flip markers by the old routes. Of the cycles that a step lets pass, the align timers leave out those of a pause
(R251). The model's choices are the timers' count of THR's cycles (assumption 14), the hold of an install (assumption 48) and the route update's
mark (assumption 104). -/
def Obligations.ResidencyEvents : Prop :=
  ∀ (s : State),
    let d := s.input.die.toNat
    let r := s.arbiter d
    (s.plane.latched = true → s.time.cycle ≤ 128 * (s.plane.frame + 1) → Config.idleHigh s.draws &&& s.plane.high = 0 →
      ∃ t, exec .frameStart s = .next t ∧ t.plane.frame = s.plane.frame + 1 ∧ t.plane.latched = false ∧
        t.time.cycle = 128 * (s.plane.frame + 1) ∧ t.plane.failed = s.plane.failed ∧ t.m = s.m ∧
        t.cores = s.cores ∧
        ∀ key a, tabFind s.plane.ports key = some a →
          tabFind t.plane.ports key = some { a with entered := a.entered || decide (a.first ≤ s.plane.frame + 1) }) ∧
    (∀ t, (t.time.cycle ≤ s.time.cycle → s.countTimers t = t) ∧
      (s.time.cycle < t.time.cycle →
        let u := s.countTimers t
        u.m = t.m ∧ u.plane = t.plane ∧ u.time = t.time ∧
        ∀ k, u.ctlAt k = t.ctlAt k ∧ (u.core k).occ = (t.core k).occ ∧ (u.core k).chans = (t.core k).chans ∧
          ∀ n, (s.timerPaused k = true → (u.port k n).blocked =
              (t.port k n).blocked.map (fun b => if b ≤ s.time.cycle then b + (t.time.cycle - s.time.cycle) else b)) ∧
            (s.timerPaused k = false → (s.thr (k / 16)).toNat = 16 → u.port k n = t.port k n))) ∧
    (∀ (p : Plane) (chan key : Nat) (a : Arm), p.winner chan = some (key, a) →
      (key, a) ∈ p.ports ++ p.gone ∧ key % 16 = chan ∧ a.entered = true ∧ a.listen = false ∧
      ∀ x ∈ p.ports ++ p.gone, x.1 % 16 = chan → x.2.entered = true → x.2.listen = false →
        ¬ (a.id < x.2.id ∨ (a.id = x.2.id ∧ a.key < x.2.key) ∨ (a.id = x.2.id ∧ a.key = x.2.key ∧ key / 16 < x.1 / 16))) ∧
    (s.plane.latched = false → s.time.cycle ≤ 128 * s.plane.frame + 106 →
      ∃ t, exec .sprintResultLatch s = .next t ∧ t.plane.latched = true ∧ t.plane.frame = s.plane.frame ∧
        t.time.cycle = 128 * s.plane.frame + 106 ∧ t.m = s.m ∧
        ∀ k c a rd target, s.plane.ports = [(16 * k + c, a)] → s.plane.queued = [] → s.plane.gone = [] → c < 16 → a.entered = true → a.listen = false →
          a.who = .ctl → (s.ctlAt k).wait = .sprint rd (BitVec.ofNat 4 c) target → t.plane.ports = [] ∧ (t.ctlAt k).wait = .none ∧
            (t.ctlAt k).r.pc = (s.ctlAt k).r.pc + 4 ∧
            (t.ctlAt k).r.get rd = (if rd = 0 then 0 else resultWord s.plane.frame 0 c ⟨a.id, a.key, k⟩)) ∧
    (s.plane.latched = true → exec .sprintResultLatch s = .next s) ∧
    (∀ m l, (chooseSwaps m l []).length ≤ m ∧
      (chooseSwaps m l []).Pairwise (fun x y => x.1 ≠ y.1 ∧ x.1 ≠ y.2 ∧ x.2 ≠ y.1 ∧ x.2 ≠ y.2)) ∧
    (r.en = true → s.boot.warming = false → r.next ≤ 128 * s.plane.frame + 127 → 128 * s.plane.frame + 106 ≤ r.next → s.plane.latched = false →
      ∃ t, exec .sprintResultLatch s = .next t ∧ exec .swapInstant s = exec .swapInstant t) ∧
    (r.en = true → s.boot.warming = false → r.next ≤ 128 * s.plane.frame + 127 →
      (s.plane.latched = true ∨ r.next < 128 * s.plane.frame + 106) → s.swapList d r = [] →
      ∃ t, exec .swapInstant s = .next t ∧ (t.arbiter d).inst = r.inst + 1 ∧ (t.arbiter d).next = r.next + 2000 * r.period.toNat ∧
        (t.arbiter d).claimed = r.claimed ∧ t.m = s.m ∧
        (∀ key v, key / 256 = d → tabFind s.swap.sill key = some v → 2 ≤ v.toNat → tabGet 0 t.swap.sill key = BitVec.ofNat 32 (v.toNat / 2)) ∧
        (∀ k o, k / 16 = d → (s.core k).occ = some o → ∃ o', (t.core k).occ = some o' ∧ o'.task = o.task ∧ o'.cell = o.cell ∧
          (o.frozen ≠ 0 → o'.frozen = o.frozen - 1 ∧ o'.age = o.age) ∧ (o.frozen = 0 → o.age ≠ 15 → o'.age = o.age + 1 ∧ o'.frozen = 0) ∧
          (o.frozen = 0 → o.age = 15 → o' = o))) ∧
    (r.en = true → s.boot.warming = false → r.next ≤ 128 * s.plane.frame + 127 →
      (s.plane.latched = true ∨ r.next < 128 * s.plane.frame + 106) → ∀ z a b, a < 16 → b < 16 → s.swapList d r = [(z, a, b)] →
      1 ≤ r.maxP.toNat →
      ∃ t x, exec .swapInstant s = .next t ∧ t.swap.exchanges = s.swap.exchanges ++ [x] ∧ x.die = s.input.die ∧ x.a.toNat = a ∧ x.b.toNat = b ∧
        x.drained = false ∧ x.seq = r.inst.setWidth 16 ∧ (t.arbiter d).claimed = r.claimed ||| BitVec.ofNat 16 (2 ^ a + 2 ^ b)) ∧
    (∀ x, s.exchange = some x →
      (x.drained = false → s.coreDrained x.ka = true → s.coreDrained x.kb = true → ∃ t, exec .swapDrainDone s = .next t ∧
        { x with drained := true } ∈ t.swap.exchanges ∧ (∀ b ∈ t.m.banks, b.core ≠ x.ka ∧ b.core ≠ x.kb) ∧ t.cores = s.cores) ∧
      (s.coreDrained x.ka = false ∨ s.coreDrained x.kb = false → exec .swapDrainDone s = .next s) ∧
      (x.drained = true → s.holdsInstall x.ka = false → s.holdsInstall x.kb = false → x.a ≠ x.b → s.MemOk →
        (∀ p ∈ s.plane.ports, p.1 / 16 ≠ x.ka ∧ p.1 / 16 ≠ x.kb) →
        ∃ t, exec .swapInstall s = .next t ∧ (t.core x.kb).occ = (s.core x.ka).occ ∧ (t.core x.ka).occ = (s.core x.kb).occ ∧
          (t.ctlAt x.kb).r = { (s.ctlAt x.ka).r with
            swapCnt := (s.ctlAt x.ka).r.swapCnt + (if (s.core x.ka).occ.isSome then 1 else 0) } ∧
          (t.ctlAt x.ka).r = { (s.ctlAt x.kb).r with
            swapCnt := (s.ctlAt x.kb).r.swapCnt + (if (s.core x.kb).occ.isSome then 1 else 0) } ∧
          x ∉ t.swap.exchanges ∧ (t.arbiter x.die.toNat).doneCnt = (s.arbiter x.die.toNat).doneCnt + 1 ∧
          t.claimed x.ka = false ∧ t.claimed x.kb = false ∧
          (∀ a < 65536, t.byte (dmemKey x.kb a) = s.byte (dmemKey x.ka a) ∧ t.byte (codeKey x.kb a) = s.byte (codeKey x.ka a)) ∧
          (∀ i < 256, ∀ a < 2 ^ 17, t.byte (Loc.key (.tile x.kb i a)) = s.byte (Loc.key (.tile x.ka i a)))) ∧
      (s.holdsInstall x.ka = true ∨ s.holdsInstall x.kb = true → exec .swapInstall s = .next s)) ∧
    (∀ p k, s.findPacket s.input.num = some p → p.isRoute = true → s.deliverable p = true → nodeCore p.dst = some k →
      ∃ t, exec .routeUpdate s = .next t ∧ t.cores = s.cores ∧ t.m = s.m ∧ (∀ f ∈ t.swap.flips, f.src = k → f.sent = true) ∧
        (∀ f ∈ s.swap.flips, f.src = k → f.sent = false → ∃ q ∈ t.net.packets, q.cls = f.cls ∧ q.kind = 9 ∧ q.rclass = f.rclass ∧
          q.src = coreNode f.oldSrc ∧ q.dst = coreNode f.oldCore ∧ q.addr = BitVec.ofNat 64 (16 * f.region.toNat + f.cell.toNat)))

/-! ## Checkpoints and translation -/

/-- Every request of a job is answered with a status, a cause and an address (R156, R159). -/
def Sys2Proof.Machine.jobAnswered (t : State) (j : Ckpt) (status cause : BitVec 8) (va : Option Word) : Prop :=
  ∀ r ∈ j.records, ∃ o ∈ t.host.records, o.id = r.2.id ∧ o.status = status ∧ o.cause = cause ∧ ∀ v, va = some v → o.va = v

/-- R152, R155 to R159, R163, and where CKPT_COMMAND, CHECKPOINT_CUT, CHECKPOINT_PAGE_COPY, CHECKPOINT_COMMIT and RESTORE complete: a checkpoint's
request is BADCMD without its task, fails with CKPT_ABORT, or becomes a job; at its boundary the cut is taken and the sources go on; each page's
copy leaves the job's list, and COW in its leaf is cleared; the commit waits for the writes of the slot and answers every request; RESTORE checks
the area, the shape and the graph in that order and then enters the restored tasks. -/
def Obligations.CheckpointEvents : Prop :=
  ∀ (s : State),
    let q := s.input.queue.toNat
    (∀ c, commandRuns s 5 c → (∀ j ∈ s.ckpt.jobs, j.queue.toNat = q → ∀ r ∈ j.records, r.1 ≠ c.n + 1) →
      let named := s.namedTasks q (fieldAt c.bytes 8 4) (fieldAt c.bytes 0x0C 2)
      let area : Word := BitVec.ofNat 64 (fieldAt c.bytes 0x10 8)
      let kind := BitVec.ofNat 2 (fieldAt c.bytes 0x18 1)
      (fieldAt c.bytes 0x0C 2 = 0xFFFF ∨ (∀ u ∈ named, u.st ≠ .running ∧ u.st ≠ .draining) →
        ∃ t, exec .ckptCommand s = .next t ∧ completes s t q c 4 0 0) ∧
      (∀ u root, fieldAt c.bytes 0x0C 2 ≠ 0xFFFF → named.find? (fun u => u.st == .running || u.st == .draining) = some u →
        s.rootOf (s.queue q).asn = some root →
        ∀ s1, (s.elapse.requestFails u root (s.queue q).asn area.toNat kind = (true, s1) →
            ∃ t va, exec .ckptCommand s = .next t ∧ completes s1 t q c 1 0x0C va) ∧
          (s.elapse.requestFails u root (s.queue q).asn area.toNat kind = (false, s1) → s1.jobsOf u.uid = [] →
            ∃ t j r, exec .ckptCommand s = .next t ∧ j ∈ t.ckpt.jobs ∧ j.task = u.uid ∧ j.area = area ∧ j.kind = kind ∧ j.cut = false ∧
              j.records = [(c.n + 1, r)] ∧ r.id = c.cmId ∧ (t.queue q).cmds = (s1.queue q).cmds))) ∧
    (∀ u j, s.findTask s.input.num = some u → (s.jobsOf s.input.num).head? = some j → s.fwReady = true → j.cut = false → u.st = .running →
      let e := s.elapse
      let ranges := e.savedRanges j.root u
      let pages := e.savedPages j.root ranges
      (e.atBoundary j pages = false → exec .checkpointCut s = .next e) ∧
      (e.atBoundary j pages = true → ∃ t j', exec .checkpointCut s = .next t ∧ j' ∈ t.ckpt.jobs ∧ j'.task = j.task ∧ j'.area = j.area ∧
        j'.cut = true ∧ j'.cutTime = t.timeOf 0 ∧ j'.ranges = ranges ∧ j'.pages.map (fun p => p.1) = pages.map (fun p => BitVec.ofNat 64 p.1) ∧
        j'.step = u.steps + BitVec.ofNat 64 (e.stepsSunk u.uid) ∧ (∀ p ∈ e.sources u.uid, (t.port p.1 p.2).cutAt = none))) ∧
    (∀ j p, s.ckpt.jobs.find? (fun j => j.cut && !j.abort && j.pages.any (fun p => p.2.2 == s.input.reticle.toNat)) = some j →
      j.pages.find? (fun p => p.2.2 == s.input.reticle.toNat) = some p →
      (∀ s1, s.elapse.startCopy j = (none, s1) → exec .checkpointPageCopy s = .next s1) ∧
      (∀ j1 s1, s.elapse.startCopy j = (some j1, s1) →
        (∀ va, s1.slotError j1 = some va → ∃ t, exec .checkpointPageCopy s = .next t ∧ jobAnswered t j1 1 0x0C (some va)) ∧
        (s1.slotError j1 = none → s1.slotOpen j1 (fun x => x.ea == j1.slotVa) = true → exec .checkpointPageCopy s = .next s1) ∧
        (s1.slotError j1 = none → s1.slotOpen j1 (fun x => x.ea == j1.slotVa) = false →
          ∀ out s2, State.copyBlocks s.input.reticle.toNat j1 (j1.blocksOfPage s1 p.1.toNat p.2.1) s1 = (out, s2) →
            (out = .done → ∃ t, exec .checkpointPageCopy s = .next t ∧ (∀ x ∈ t.ckpt.jobs, x.same j1 = true → p ∉ x.pages) ∧
              t.host.records = s2.host.records ∧
              (s2.m.banks = [] → (∀ x ∈ s2.ckpt.jobs, x.same j1 = true ∨ x.cut = false ∨ ∀ o ∈ x.pages, o.1 ≠ p.1) →
                (∀ o ∈ j1.pages, o = p ∨ o.1 ≠ p.1) → ∀ a e lv, s2.leafPlace p.1.toNat 3 j1.root = some (a, e, lv) → e.testBit 4 = true →
                t.bytes a 8 = leBytes 8 (e - 16))) ∧
            (∀ va, out = .dest va → ∃ t, exec .checkpointPageCopy s = .next t ∧ jobAnswered t j1 1 0x0C (some va)) ∧
            (out = .wait → exec .checkpointPageCopy s = .next s2) ∧
            (∀ cause va, out = .source cause va → exec .checkpointPageCopy s = .next (s2.jobFatal j1 cause va))))) ∧
    (∀ j, (s.jobsOf s.input.num).head? = some j → s.fwReady = true → j.cut = true → j.abort = false → j.pages = [] → s.recordRoom = true →
      (∀ s1, s.elapse.startCopy j = (none, s1) → exec .checkpointCommit s = .next s1) ∧
      (∀ j1 s1, s.elapse.startCopy j = (some j1, s1) →
        (∀ va, s1.slotError j1 = some va → ∃ t, exec .checkpointCommit s = .next t ∧ jobAnswered t j1 1 0x0C (some va)) ∧
        (s1.slotError j1 = none → s1.slotOpen j1 (fun _ => true) = true → exec .checkpointCommit s = .next s1) ∧
        (s1.slotError j1 = none → s1.slotOpen j1 (fun _ => true) = false → s1.manifestSent j1 = true →
          ∃ t, exec .checkpointCommit s = .next t ∧ (∀ x ∈ t.ckpt.jobs, x.same j1 = false) ∧ jobAnswered t j1 0 0 none) ∧
        (s1.slotError j1 = none → s1.slotOpen j1 (fun _ => true) = false → s1.manifestSent j1 = false →
          ∀ out s2, State.fwPutParts (.firmware 0) .fetch 0 j1.asn (pageParts j1.slotVa.toNat 65536)
              (s1.manifest j1 ++ leBytes 8 (crc64xz 0 (s1.manifest j1)).toNat) (s1.slotSettle j1) = (out, s2) →
            (out = .done → s2.manifestSent j1 = false →
              ∃ t, exec .checkpointCommit s = .next t ∧ (∀ x ∈ t.ckpt.jobs, x.same j1 = false) ∧ jobAnswered t j1 0 0 none) ∧
            (out = .done → s2.manifestSent j1 = true → exec .checkpointCommit s = .next s2) ∧
            (∀ c va, out = .fault c va → ∃ t, exec .checkpointCommit s = .next t ∧ jobAnswered t j1 1 0x0C (some va)) ∧
            (out = .stall → exec .checkpointCommit s = .next s2)))) ∧
    (∀ c, commandRuns s 6 c → c.left = 0 → (s.queue q).st = .active →
      let read := s.elapse.readArea (s.queue q).asn (fieldAt c.bytes 8 8)
      (∀ e s1, read = (.error e, s1) → ∃ t, exec .restore s = .next t ∧ fatalTo s t q c e.1 e.2) ∧
      (∀ s1, read = (.ok none, s1) → ∃ t va, exec .restore s = .next t ∧ completes s1 t q c 1 0x0C va) ∧
      (∀ a m0 m1 s1, read = (.ok (some (a, m0, m1)), s1) →
        (newest m0 m1 = none → ∃ t va, exec .restore s = .next t ∧ completes s1 t q c 1 0x0C va) ∧
        ∀ n, newest m0 m1 = some n →
          let m := if n = 0 then m0 else m1
          ((m.drop 0x60).take 36 ≠ s1.boot.test.shapeRecord → ∃ t, exec .restore s = .next t ∧ completes s1 t q c 6 0 0) ∧
          ((m.drop 0x60).take 36 = s1.boot.test.shapeRecord →
            (∀ e s2, s1.readGraph (s.queue q).asn (fieldAt c.bytes 0x10 8) = (.error e, s2) →
              ∃ t, exec .restore s = .next t ∧ completes s2 t q c 7 e.1 e.2) ∧
            (∀ ts edges s2, s1.readGraph (s.queue q).asn (fieldAt c.bytes 0x10 8) = (.ok (ts, edges), s2) →
              ((∀ g, ts[fieldAt m 0x24 2]? = some g → digestBytes (sha384 g.graph) ≠ (m.drop 0x30).take 48) →
                ∃ t, exec .restore s = .next t ∧ completes s2 t q c 7 0 0) ∧
              (∀ g, ts[fieldAt m 0x24 2]? = some g → digestBytes (sha384 g.graph) = (m.drop 0x30).take 48 → ts.length ≤ s2.poolFree →
                exec .restore s =
                  .next (s2.restoreRanges q c (fieldAt c.bytes 8 8 + (if n = 0 then a.slot0 else a.slot1)) m ts edges) ∧
                (manifestRanges m = [] → (∀ g ∈ ts, fieldAt g.desc 0x20 8 = 0) →
                  exec .restore s = .next (s2.enterRestored q c m ts edges))))))) ∧
    (∀ (c : Cmd) (m : List Byte) (ts : List TaskImage) (edges : List (Nat × Nat)),
      let t := s.enterRestored q c m ts edges
      t.sched.tasks.length = s.sched.tasks.length + ts.length ∧
      ∀ u ∈ t.sched.tasks, u.queue.toNat = q → u.cmdN = c.n → u.index.toNat = fieldAt m 0x24 2 →
        u.steps = BitVec.ofNat 64 (fieldAt m 0x10 8) ∧ u.starts = manifestPositions m)

/-- The frame of a translation: the ATU's cache, the order of the pages that checkpoints copy, the log of a table's poisoned unit, and the count
of free values may change. -/
def Sys2Proof.Machine.translates (s t : State) : Prop :=
  t = { s with x := { s.x with atu := t.x.atu }, ckpt := { s.ckpt with jobs := t.ckpt.jobs }, m := { s.m with ecc := t.m.ecc }, draws := t.draws }

/-- R186, R187, R202 to R206, R210, R223, and where FAULT_RESUME, FAULT_ABANDON, ATU_TRANSLATE, DEFERRED_LEAF_SERVICE and
INVALIDATION_COMPLETE complete: RESUME clears the record and takes its agent back to UNIT, with the multicast whose fault the record held;
ABANDON is fatal to the queue in the record's name, which waits for its work to drain; a translation gives a place only as its leaf allows, and
a stall puts the page that is being copied first; the service of a deferred leaf sets V, clears DEFER and resumes the control cores that wait for
the page; an invalidation leaves no entry and no line of its range. -/
def Obligations.FaultEvents : Prop :=
  ∀ (s : State),
    (∀ c n, s.input.fault = .port c n → s.fwActs c.die.toNat = true → (s.port c.ix n.toNat).fault.valid = true →
      (∀ key e, n.toNat = 0 → (key, e) ∈ s.x.multis → e.stoppedAt c.ix = true → e.fault = (s.port c.ix 0).fault →
        ∃ t, exec .faultResume s = .next t ∧ (key, { e with unit := e.fault.unit.toNat, lines := e.lines.filter (fun i => decide (i < e.fault.unit.toNat)), fault := FaultRec.clear }) ∈ t.x.multis) ∧
      (n.toNat ≠ 0 ∨ (∀ e ∈ s.x.multis, e.2.stoppedAt c.ix = false) →
        ∃ t, exec .faultResume s = .next t ∧ (∀ f fs, (s.port c.ix n.toNat).late = f :: fs → (t.port c.ix n.toNat).fault = f) ∧
        ((s.port c.ix n.toNat).late = [] → (t.port c.ix n.toNat).fault.valid = false) ∧ (∀ j, t.ctlAt j = s.ctlAt j) ∧
        (∀ a, t.byte a = s.byte a) ∧
        ∀ g, (s.port c.ix n.toNat).items = [.stream g] → g.started = true → (s.port c.ix n.toNat).fault.cause ≠ 0x0E →
          (s.port c.ix n.toNat).fault.unit.toNat < g.unit →
          (t.port c.ix n.toNat).items = [.stream { g with unit := (s.port c.ix n.toNat).fault.unit.toNat }]) ∧
      (∀ o u, (s.core c.ix).occ = some o → s.findTask o.task = some u → (s.queue o.queue.toNat).st = .active →
        (s.queue o.queue.toNat).resetBy = [] → ∃ t, exec .faultAbandon s = .next t ∧ (t.queue o.queue.toNat).st = .faulting ∧
          ∃ r ∈ t.host.records, r.queue = o.queue ∧ r.status = 1 ∧ r.cause = (s.port c.ix n.toNat).fault.cause ∧
            r.va = (s.port c.ix n.toNat).fault.va)) ∧
    (∀ copy r n e, s.input.fault = (if copy then .copyEng r n else .gatherEng r n) → s.fwActs (2 * r.toNat) = true →
      s.engOp copy r.toNat n.toNat = some e → e.fault.valid = true →
      (∃ t e', exec .faultResume s = .next t ∧ t.engOp copy r.toNat n.toNat = some e' ∧ t.cores = s.cores ∧ t.m = s.m ∧
        e' = { e with unit := e.fault.unit.toNat, index := none, fault := { e.fault with valid := false } }) ∧
      (∀ q k, e.cmd = some (q, k) → (s.queue q.toNat).st = .active → (s.queue q.toNat).resetBy = [] →
        ∃ t, exec .faultAbandon s = .next t ∧ (t.queue q.toNat).st = .faulting ∧
          ∃ o ∈ t.host.records, o.queue = q ∧ o.status = 1 ∧ o.cause = e.fault.cause ∧ o.va = e.fault.va)) ∧
    (let va : Word := s.input.addr.setWidth 64
     ∃ t w, s.translate s.input.reticle.toNat s.input.asn va s.input.acc = (w, t) ∧ exec .atuTranslate s = .next t ∧ translates s t ∧
       (bits va 63 52 ≠ 0 → w = .fault 6) ∧
       (∀ l a, w = .at l a → (s.input.acc ≠ .write → s.input.acc ≠ .feWrite → a.r = true) ∧
         (s.input.acc = .write ∨ s.input.acc = .rmw ∨ s.input.acc = .feWrite → a.w = true ∧ a.cow = false) ∧
         (s.input.acc = .feRead ∨ s.input.acc = .feWrite → a.fe = true) ∧ (s.input.acc = .rmw → a.fe = false)) ∧
       (w = .stall → ∃ j js p ps, t.ckpt.jobs = j :: js ∧ j.cut = true ∧ j.pages = p :: ps ∧ p.1.toNat ≤ va.toNat)) ∧
    (∀ root a e lv, s.fwActs 0 = true → s.rootOf s.input.asn = some root → s.leafPlace s.input.addr.toNat 3 root = some (a, e, lv) →
      deferredLeaf e lv = true → s.m.banks = [] →
      ∃ t, exec .deferredLeafService s = .next t ∧ t.bytes a 8 = leBytes 8 (e - 2 ^ 7 + 1) ∧
        let size := 2 ^ levelBit lv
        ∀ k, (s.ctlAt k).run = .stopped → s.asnOf k = s.input.asn → (s.ctlAt k).r.trapCause = 4 →
          (s.ctlAt k).r.trapVal.toNat / size = s.input.addr.toNat / size →
          (t.ctlAt k).run = .running ∧ (t.ctlAt k).r.pc = (s.ctlAt k).r.trapPc) ∧
    (∀ v, s.x.invals.find? (fun v => v.k == s.input.num) = some v →
      (s.waitsFor v.before = true ∨ s.usesRange v.asn v.first v.count = true → exec .invalidationComplete s = .next s) ∧
      (s.waitsFor v.before = false → s.usesRange v.asn v.first v.count = false →
        ∃ t, exec .invalidationComplete s = .next t ∧ (∀ w ∈ t.x.invals, w.k ≠ v.k) ∧
          (∀ r, ∀ e ∈ tabGet [] t.x.atu r, e.asn = v.asn →
            inRange v.first v.count (e.page * 2 ^ (12 * e.level.toNat)) (2 ^ (12 * e.level.toNat)) = false) ∧
          (∀ b ∈ t.m.banks, b.asn = v.asn → inRange v.first v.count (b.va / 512) 1 = false) ∧
          ∀ c, v.core = some c → (s.ctlAt c.ix).wait = .tinv v.k →
            (t.ctlAt c.ix).wait = .none ∧ (t.ctlAt c.ix).r.pc = (s.ctlAt c.ix).r.pc + 4))

/-! ## The memory network -/

/-- The request that the input names is of a kind and may be served at its home: its packet and its access. -/
def Sys2Proof.Machine.requestAt (s : State) (kind : BitVec 4) (p : Packet) (x : Access) : Prop :=
  s.findPacket s.input.num = some p ∧ p.cls = 0 ∧ p.kind = kind ∧ s.served p = true ∧ s.heldBack p = false ∧ p.badHeader = false ∧
  p.transits = false ∧ s.findAccess p.access = some x ∧ x.loc.outside = false ∧
  ∀ c i o k, x.loc = .tile c i o → nodeCore p.dst = some k → s.forwardTo k p = none

/-- The answer that the input names is of a kind and may be handed over: its packet and its access. -/
def Sys2Proof.Machine.answerAt (s : State) (kind : BitVec 4) (p : Packet) (x : Access) : Prop :=
  s.findPacket s.input.num = some p ∧ p.cls = 1 ∧ p.kind = kind ∧ s.deliverable p = true ∧ p.badHeader = false ∧ p.leaves = false ∧
  s.findAccess p.access = some x

/-- A home has answered an access, which has performed (R214, R317). -/
def Sys2Proof.Machine.answered (s t : State) (x : Access) (kind : BitVec 4) (cause : BitVec 8) (bs : List Byte) : Prop :=
  (∃ r ∈ t.net.packets, r.cls = 1 ∧ r.kind = kind ∧ r.dst = s.agentNode x.agent ∧ r.access = x.id ∧ r.op = cause ∧ r.payload = bs) ∧
  (∀ y ∈ t.net.accesses, y.id = x.id → y.done = true) ∧ t.cores = s.cores

/-- A home has performed a granule of an access, whose others are left: its request stays, and its bytes hold those of the granule. -/
def Sys2Proof.Machine.partLeft (t : State) (p : Packet) (x : Access) (rest : List Nat) (i n : Nat) (bs : List Byte) : Prop :=
  p ∈ t.net.packets ∧ ∃ y ∈ t.net.accesses, y.id = x.id ∧ y.part = rest ∧ y.done = x.done ∧ (y.data.drop i).take n = bs

/-- R40, R166, R182 to R184, R196, R214, R215, R274, and where NET_READ, NET_WRITE, NET_AMO, NET_CAS, NET_CAS16, READ_DATA, WRITE_ACK,
ERROR_RESPONSE, PUB_DELIVERY and CACHE_BANK_ACCESS complete: what a home does with a read, a write, an atomic and a compare and swap, with an access
of several granules, one granule at a time in any order (R165, R181), on a poisoned unit and on an FE page, what data, an acknowledgement and an
error do at a control core, what a delivery does to a bank's line, and how a bank gives up a line or takes one. -/
def Obligations.HomeEvents : Prop :=
  ∀ (s : State) (p : Packet) (x : Access),
    let key := x.loc.key
    let old := s.bytes key x.size
    (x.fePage = false → s.poisonStops x = none → x.splits = false →
      (requestAt s 0 p x → x.op = .read → ∃ t, exec .netRead s = .next t ∧ answered s t x 5 0 old ∧ t.m.mem = s.m.mem) ∧
      (requestAt s 1 p x → x.op = .write → ∃ t, exec .netWrite s = .next t ∧ answered s t x 6 0 [] ∧ t.m.mem = memStore s.m.mem key x.data) ∧
      (∀ o, requestAt s 2 p x → x.op = .amo o → ∃ t, exec .netAmo s = .next t ∧ answered s t x 5 0 old ∧
        t.m.mem = memStore s.m.mem key (leBytes old.length (amoNew o.toNat old.length (leNat old) (leNat x.data)))) ∧
      (requestAt s 3 p x → x.op = .cas → ∃ t, exec .netCas s = .next t ∧ answered s t x 5 0 old ∧
        t.m.mem = if old = x.expect then memStore s.m.mem key x.data else s.m.mem) ∧
      (requestAt s 4 p x → x.op = .cas16 → ∃ t, exec .netCas16 s = .next t ∧ answered s t x 5 0 old ∧
        t.m.mem = if old = x.expect then memStore s.m.mem key x.data else s.m.mem)) ∧
    (s.poisonStops x = none → x.splits = true → (∀ g ∈ x.part, g ∈ granuleKeys key x.size) →
      let gs := if x.part = [] then granuleKeys key x.size else x.part
      let lo := fun g => max key g
      let n := fun g => min (key + x.size) (g + 8) - lo g
      (requestAt s 0 p x → x.op = .read → ∃ t g, exec .netRead s = .next t ∧ g ∈ gs ∧ t.m.mem = s.m.mem ∧
        ((∃ h ∈ gs, h ≠ g) → partLeft t p x (gs.filter (fun h => h != g)) (lo g - key) (n g) (s.bytes (lo g) (n g))) ∧
        ((∀ h ∈ gs, h = g) → ∃ bs, answered s t x 5 0 bs ∧ (bs.drop (lo g - key)).take (n g) = s.bytes (lo g) (n g))) ∧
      (requestAt s 1 p x → x.op = .write → x.data.length = x.size →
        ((∃ g ∈ gs, x.fePage = true ∧ s.isFull g = true) ∧
          (∃ t, exec .netWrite s = .next t ∧ answered s t x 7 0x10 [] ∧ t.m.mem = s.m.mem) ∨
        ∃ t g, exec .netWrite s = .next t ∧ g ∈ gs ∧ (s.m.deferred = [] →
          t.m.mem = memStore s.m.mem (lo g) ((x.data.drop (lo g - key)).take (n g)) ∧ (x.fePage = true → t.isFull g = true)) ∧
        ((∃ h ∈ gs, h ≠ g) → partLeft t p x (gs.filter (fun h => h != g)) (lo g - key) (n g) ((x.data.drop (lo g - key)).take (n g))) ∧
        ((∀ h ∈ gs, h = g) → s.m.deferred = [] → answered s t x 6 0 [])))) ∧
    (∀ u, requestAt s 0 p x → x.op = .read → s.poisonStops x = some u → ∃ t, exec .netRead s = .next t ∧ answered s t x 7 0x0A [] ∧ t.m.mem = s.m.mem) ∧
    (x.fePage = true → s.poisonStops x = none → x.splits = false →
      (requestAt s 0 p x → x.op = .read → x.fe = true →
        (s.isFull key = true → ∃ t, exec .netRead s = .next t ∧ answered s t x 5 0 old ∧ t.isFull key = false) ∧
        (s.isFull key = false → ∃ t d, exec .netRead s = .next t ∧ d ∈ t.m.deferred ∧ d.access = x.id ∧
          t.net.packets = s.net.packets.filter (fun q => q.id != p.id))) ∧
      (requestAt s 1 p x → x.op = .write →
        ((granuleKeys key x.size).any s.isFull = true → ∃ t, exec .netWrite s = .next t ∧ answered s t x 7 0x10 [] ∧ t.m.mem = s.m.mem) ∧
        ((granuleKeys key x.size).any s.isFull = false → s.m.deferred = [] → ∃ t, exec .netWrite s = .next t ∧ answered s t x 6 0 [] ∧
          t.m.mem = memStore s.m.mem key x.data ∧ ∀ g ∈ granuleKeys key x.size, t.isFull g = true))) ∧
    (∀ c, x.agent = .ctl c →
      (∀ d z, answerAt s 5 p x → x.dest = .reg d z → ∃ t, exec .readData s = .next t ∧ (∀ y ∈ t.net.accesses, y.id ≠ x.id) ∧
        (t.ctlAt c.ix).r.get d = (if d = 0 then 0 else bytesWord p.payload) ∧ (t.ctlAt c.ix).r.evPend.getLsbD 0 = true) ∧
      (answerAt s 6 p x → x.dest = .store → ∃ t, exec .writeAck s = .next t ∧ (∀ y ∈ t.net.accesses, y.id ≠ x.id) ∧
        (t.ctlAt c.ix).r.evPend.getLsbD 0 = true ∧ (x.acquire = none → t.m = s.m)) ∧
      (answerAt s 7 p x → x.dest ≠ .fetch → (∀ o i, x.dest ≠ .multi o i) → (s.ctlAt c.ix).late = none → ∃ t, exec .errorResponse s = .next t ∧ (∀ y ∈ t.net.accesses, y.id ≠ x.id) ∧
        (t.ctlAt c.ix).late = some (p.op, x.ea) ∧ (t.ctlAt c.ix).lateOp = x.pc ∧ t.m = s.m)) ∧
    (∀ k, s.findPacket s.input.num = some p → p.isPub = true → s.deliverable p = true → nodeCore p.dst = some k →
      (∀ b, s.bankLine k p.asn p.addr.toNat = some b → ∃ t b', exec .pubDelivery s = .next t ∧ b' ∈ t.m.banks ∧
        b' = { b with data := linePatch b.data (p.addr.toNat % 128) p.payload } ∧ (t.ctlAt k).r.evPend.getLsbD 3 = true ∧
        t.m.mem = s.m.mem) ∧
      (s.bankLine k p.asn p.addr.toNat = none → ∃ t, exec .pubDelivery s = .next t ∧ t.m = s.m ∧ t.cores = s.cores)) ∧
    (let k := s.input.core.ix
     let va : Word := s.input.addr.setWidth 64
     (∀ b, s.bankLine k (s.asnOf k) va.toNat = some b → ∃ t, exec .cacheBankAccess s = .next t ∧ b ∉ t.m.banks ∧ t.cores = s.cores) ∧
     (∀ q a s1, s.bankLine k (s.asnOf k) va.toNat = none → s.bankSites k ≠ [] →
       s.translate (reticleOf k) (s.asnOf k) va .read = (.at (.hbm q) a, s1) → a.cp = 0 → a.fe = false →
       s.poisonedIn (q / 128 * 128) 128 = [] → s.fillSafe k (s.asnOf k) va.toNat (q / 128 * 128) = true →
       ∃ t b, exec .cacheBankAccess s = .next t ∧ b ∈ t.m.banks ∧ b.core = k ∧ b.asn = s.asnOf k ∧ b.va = va.toNat / 128 ∧
         b.pa = q / 128 * 128 ∧ b.dirty = 0 ∧ b.data = lineOf (t.bytes (q / 128 * 128) 128)))

/-- A packet with these fields is on the network. -/
def Sys2Proof.Machine.onNet (t : State) (cls : BitVec 2) (kind : BitVec 4) (dst : Nat) (tag : BitVec 16) : Prop :=
  ∃ r ∈ t.net.packets, r.cls = cls ∧ r.kind = kind ∧ r.dst = dst ∧ r.tag = tag

/-- R59, R147, R148, R177, R213, R217 to R221, R227, and where STREAM_TOKEN, FLIP_MARKER, CREDIT_RETURN, SYS_CONTROL, SC_TOKEN_VISIT, ADDER_FIRE
and DIRECT_LANDING_SEND complete: where no cell moves, a token is held, handled or unbound at its port; a flip marker is forwarded or ends its
hold; a credit and a SYS packet at their receivers; one visit of the SC token, which a stop holds while a response is due; one sum of an adder; and
the token of a direct landing. The model's choices are OP of an adder's packet (assumption 106), the event of a SYS packet (assumption 69), the credit
of an adder's U (assumption 46), and the channels of other packages that a first packet makes known (assumption 122). -/
def Obligations.PacketEvents : Prop :=
  ∀ (s : State) (p : Packet),
    (s.findPacket s.input.num = some p → s.deliverable p = true → p.badHeader = false →
      (∀ k, p.cls = 2 → p.kind = 8 → nodeCore p.dst = some k → s.adderFor p = none → s.swap.flips = [] → s.claimed k = false →
        p.isCut k = false → (s.port k p.dport.toNat).held = [] →
        let n := p.dport.toNat
        let e := s.handler k n p.rclass.toNat
        let d := (nbits e 8 1, 48 + nbits e 10 9)
        ((s.port k n).mask.getLsbD p.rclass.toNat = true → ∃ t, exec .streamToken s = .next t ∧ (t.port k n).held = [{ p with addr := 0 }] ∧
          (t.ctlAt k).r.evPend.getLsbD 2 = true ∧ t.net.packets = s.net.packets.filter (fun q => q.id != p.id)) ∧
        ((s.port k n).mask.getLsbD p.rclass.toNat = false → e % 2 = 1 → s.accepts k p.token d = true →
          ∃ t, exec .streamToken s = .next t ∧ t = ((((s.takePacket p.id).farChannel k p).push k p.token d).returnCredit p).settle k ∧
            onNet t 1 12 p.src (p.channel.setWidth 16)) ∧
        ((s.port k n).mask.getLsbD p.rclass.toNat = false → e % 2 = 0 → (s.site k (portSite n)).frames ≠ [] →
          ∃ t, exec .streamToken s = .next t ∧ onNet t 1 7 p.src (p.channel.setWidth 16) ∧ s.headerOf p ∈ t.net.unbound)) ∧
      (∀ place a u, p.cls = 2 → p.kind = 8 → s.adderFor p = some (place, a, u) → ∃ t b, exec .streamToken s = .next t ∧
        tabFind t.net.adders place = some b ∧ b.l = (if u then a.l else a.l ++ [p]) ∧ b.u = (if u then a.u ++ [p] else a.u)) ∧
      (p.cls = 1 → p.kind = 12 → p.leaves = false →
        (∀ k b, nodeCore p.dst = some k → s.bindingOf k p.dport.toNat p.tag.toNat = some b →
          let q := s.port k p.dport.toNat
          exec .creditReturn s =
            .next (((s.takePacket p.id).setPort k p.dport.toNat { q with credits := q.credits.modify b (· + 1) }).settle k)) ∧
        (∀ c, nodeCore p.dst = none → nodeCore p.src = some c → ∃ t, exec .creditReturn s = .next t ∧
          tabGet 0 (t.eth (p.dst - 16)).credits (16 * c + p.tag.toNat) = tabGet 0 (s.eth (p.dst - 16)).credits (16 * c + p.tag.toNat) + 1)) ∧
      (∀ k, s.input.flag = false → p.cls = 3 → p.kind = 13 → p.isRoute = false → nodeCore p.dst = some k → ∃ t, exec .sysControl s = .next t ∧
        (t.ctlAt k).r.evPend.getLsbD 4 = true ∧ t.net.packets = s.net.packets.filter (fun q => q.id != p.id))) ∧
    (∀ k f, s.findPacket s.input.num = some p → p.badHeader = false → p.kind = 9 →
      (if p.cls = 0 then s.served p else s.deliverable p) = true → s.adderHolds p = false → nodeCore p.dst = some k → s.flipOf p = some f →
      (f.oldCore = k → f.newCore ≠ k → f.gone = false →
        ∃ t, exec .flipMarker s = .next t ∧ { f with gone := true } ∈ t.swap.flips ∧ onNet t p.cls 9 (coreNode f.newCore) p.tag) ∧
      (f.oldCore ≠ k ∨ f.newCore = k ∨ f.gone = true → ∃ t, exec .flipMarker s = .next t ∧ f ∉ t.swap.flips)) ∧
    (s.input.flag = true → ∃ t, exec .sysControl s = .next t ∧ onNet t 3 13 (coreNode s.input.core.ix) 0 ∧ t.cores = s.cores) ∧
    (let i := s.net.scStop.toNat % 24
     (s.net.scWait = none →
       (s.scLive (scStops.getD i 0) = false ∨ s.scQueued (scStops.getD i 0) = none →
         exec .scTokenVisit s = .next { s with net := { s.net with scStop := BitVec.ofNat 5 (s.scNext 24 i), scLeft := 8 } }) ∧
       ∀ x, s.scLive (scStops.getD i 0) = true → s.net.packets = [p] → s.scQueued (scStops.getD i 0) = some (p, x) → x.fePage = false →
         x.loc.outside = false → x.splits = false → s.poisonStops x = none →
         ∃ t, exec .scTokenVisit s = .next t ∧ t.net.scStop = BitVec.ofNat 5 (s.scNext 24 i) ∧
           (x.op = .read → answered s t x 5 0 (s.bytes x.loc.key x.size) ∧ t.m.mem = s.m.mem) ∧
           (x.op = .write → answered s t x 6 0 [] ∧ t.m.mem = memStore s.m.mem x.loc.key x.data)) ∧
     (∀ id, s.net.scWait = some id → s.scOpen id = true → (∀ q ∈ s.net.packets, q.cls ≠ 0 ∨ q.access ≠ id) →
       exec .scTokenVisit s = .next s)) ∧
    (∀ a q ps qs, tabFind s.net.adders s.input.num = some a → a.cause = 0 → a.runL = 0 → a.runU = 0 → a.uFrom ≠ none → a.l = p :: ps →
      a.u = q :: qs → p.token.isMark = false → q.token.isMark = false →
      ∃ t b r, exec .adderFire s = .next t ∧ tabFind t.net.adders s.input.num = some b ∧ b.l = ps ∧ b.u = qs ∧ r ∈ t.net.packets ∧
        (r.dst, r.dport) = a.next.getD (p.dst, p.dport) ∧ r.rclass = a.cls ∧ r.op = p.channel.setWidth 8 + 1 ∧
        r.tag = (adderToken a.bf16 q.token p.token).tag ∧ r.payload = lineBytes (adderToken a.bf16 q.token p.token).payload ∧
        onNet t 1 12 q.src (q.channel.setWidth 16)) ∧
    (let n := s.input.port.toNat
     let key := s.input.num
     ∀ b c, (s.eth n).buffer.find? (fun b => b.1 == key) = some b → tabGet 0 (s.eth n).credits key = c + 1 →
       ∃ t r, exec .directLandingSend s = .next t ∧ tabGet 0 (t.eth n).credits key = c ∧ (t.eth n).buffer.length + 1 = (s.eth n).buffer.length ∧
         r ∈ t.net.packets ∧ r.cls = 2 ∧ r.kind = 8 ∧ r.dst = coreNode (key / 16) ∧ r.rclass = BitVec.ofNat 4 (key % 16) ∧
         r.tag = b.2.tag ∧ r.payload = lineBytes b.2.payload)

/-- R41, R42, R222 to R226, and where MULTICAST_READ, MERGE_WINDOW_CLOSE, MULTICAST_DATA, ECCSTAT and ECC_SCRUB complete: a multicast sends its
next run of lines to the slice that homes them, and an ordinary read for a line that no slice homes; each request that arrives there leads, follows
or goes alone; a merge entry sends each member its lines once its window has closed; a core of the delivery set writes the line to its vault;
a read of ECCSTAT clears its counts, and a scrub counts or poisons. -/
def Obligations.MulticastEvents : Prop :=
  ∀ (s : State) (p : Packet),
    (∀ e c q a s1, s.multi s.input.num = some e → e.core = some c → e.fault.valid = false → s.waitsFor e.after = false →
      e.unit < e.units → s.claimed c.ix = false → fieldAt e.desc 0x1A 1 % 2 = 0 →
      s.translate (reticleOf c.ix) e.asn (BitVec.ofNat 64 (fieldAt e.desc 0 8 + 128 * e.unit)) .read = (.at (.hbm q) a, s1) →
      ∃ t e' n r, exec .multicastRead s = .next t ∧ 1 ≤ n ∧ n ≤ 256 ∧ e.unit + n ≤ e.units ∧ t.multi s.input.num = some e' ∧
        e'.unit = e.unit + n ∧ e'.lines = e.lines ++ (List.range n).map (e.unit + ·) ∧ r ∈ t.net.packets ∧ r.cls = 0 ∧ r.kind = 10 ∧
        r.dst = stackNode (s.boot.test.stackOf q).1 ∧ r.addr = BitVec.ofNat 64 q ∧ r.lines = BitVec.ofNat 8 (n - 1) ∧
        r.dset = BitVec.ofNat 16 (fieldAt e.desc 0x18 2) ∧ t.cores = s.cores) ∧
    (∀ e c l a s1, s.multi s.input.num = some e → e.core = some c → e.fault.valid = false → s.waitsFor e.after = false →
      e.unit < e.units → s.claimed c.ix = false → fieldAt e.desc 0x1A 1 % 2 = 0 → (∀ q, l ≠ .hbm q) →
      s.translate (reticleOf c.ix) e.asn (BitVec.ofNat 64 (fieldAt e.desc 0 8 + 128 * e.unit)) .read = (.at l a, s1) →
      ∃ t e' x, exec .multicastRead s = .next t ∧ t.multi s.input.num = some e' ∧ e'.unit = e.unit + 1 ∧ e'.lines = e.lines ++ [e.unit] ∧
        x ∈ t.net.accesses ∧ x.op = .read ∧ x.loc = l ∧ x.size = 128 ∧ x.dest = .multi s.input.num e.unit ∧ t.cores = s.cores) ∧
    (∀ k e, s.multi s.input.num = none → s.findPacket s.input.num = some p → p.cls = 0 → p.kind = 10 → s.served p = true →
      p.badHeader = false → nodeCore p.src = some k → s.multi p.access = some e →
      ∃ t, exec .multicastRead s = .next t ∧
        (let u := s.mergeUnit (p.dst - 16)
         let v := t.mergeUnit (p.dst - 16)
         v.lead + v.follow + v.alone = u.lead + u.follow + u.alone + 1) ∧ t.m.mem = s.m.mem ∧
        (e.alone = true → (t.mergeUnit (p.dst - 16)).alone = (s.mergeUnit (p.dst - 16)).alone + 1 ∧
          ∀ i ≤ p.lines.toNat, ∃ r ∈ t.net.packets, r.cls = 1 ∧ (r.kind = 11 ∨ r.kind = 7) ∧ r.access = p.access ∧
            r.tag = BitVec.ofNat 16 (p.tag.toNat + i))) ∧
    (∀ m, tabFind (s.mergeUnit s.input.num).entries s.input.slot.toNat = some m → m.closes ≤ s.time.cycle →
      ∃ t, exec .mergeWindowClose s = .next t ∧ tabFind (t.mergeUnit s.input.num).entries s.input.slot.toNat = none ∧ t.cores = s.cores ∧
        t.m = s.m ∧ ∀ x ∈ m.members, ∀ i < m.lines, ∃ r ∈ t.net.packets, r.cls = 1 ∧ r.access = x.2.1 ∧
          r.tag = BitVec.ofNat 16 (x.2.2 + i) ∧ r.dst = coreNode (16 * m.die.toNat + x.1.toNat) ∧
          if i ∈ m.bad then r.kind = 7 ∧ r.op = 0x0A else r.kind = 11 ∧ r.payload = (m.data.drop (128 * i)).take 128) ∧
    (∀ e v, s.findPacket s.input.num = some p → p.cls = 1 → p.kind = 11 → s.deliverable p = true → p.badHeader = false →
      s.multi p.access = some e → p.tag.toNat ∈ e.lines → e.fault.valid = false → e.index = some v → s.m.banks = [] →
      ∃ t, exec .multicastData s = .next t ∧
        t.bytes (Loc.key (.vault v.toNat (fieldAt e.desc 0x10 8 + 128 * p.tag.toNat))) p.payload.length = p.payload ∧
        ∀ e', t.multi p.access = some e' → p.tag.toNat ∉ e'.lines) ∧
    (s.input.num < 144 → ∃ t, exec .eccstat s = .next t ∧ t.eccLog s.input.num = { s.eccLog s.input.num with ce := 0, ue := 0 } ∧
      t.host.rdata = (s.eccLog s.input.num).word ∧ (∀ n, n ≠ s.input.num → t.eccLog n = s.eccLog n) ∧ t.m.mem = s.m.mem ∧ t.cores = s.cores) ∧
    (s.scrubs s.input.num = true → ∃ t, exec .eccScrub s = .next t ∧ t.m.mem = s.m.mem ∧ t.cores = s.cores ∧
      let l := s.eccLog (s.eccNode s.input.num)
      let l' := t.eccLog (s.eccNode s.input.num)
      (s.input.flag = true → l'.valid = true ∧ l'.ue = satInc l.ue ∧ poisonUnit s.input.num ∈ t.m.poison) ∧
      (s.input.flag = false → l' = { l with ce := satInc l.ce } ∧ t.m.poison = s.m.poison))

/-! ## Links and the time -/

/-- R46 to R50, R53 to R60, R64, and where POD_DATA_FLIT, POD_CONTROL_FLIT, POD_ACK_TIMER, POD_LINK_TIMEOUT, PCIE_COMPLETION,
PCIE_COMPLETION_TIMEOUT, ETH_FRAME_RX, TMRATE, TMSTEP and TMNOWLO complete: a flit by its CRC and its SEQ, acknowledgements, NAKs and credits, and a
link that goes down, whose waiting requests are answered LINK_DOWN, those of third packages too; the host's completions; a received frame by its FCS,
its class, its flow table entry and the room at its target; and the time unit's registers. -/
def Obligations.LinkEvents : Prop :=
  ∀ (s : State),
    let l := s.input.num
    let f := inFlit s
    let g := s.podLink l
    (s.podUp l = true →
      (∀ i ∈ [Instr.podDataFlit, Instr.podControlFlit], flitGood f = false → ∃ t, exec i s = .next t ∧
        (g.fails + 1 < 8 → (t.podLink l).up = g.up ∧ (t.podLink l).fails = g.fails + 1 ∧
          (t.podLink l).txOut = g.txOut ++ [controlFlit (g.rxNext - 1) true 0 0] ∧ t.net = s.net) ∧
        (8 ≤ g.fails + 1 → (t.podLink l).up = false)) ∧
      (flitGood f = true → flitKind f = 1 →
        (flitSeq f = g.rxNext → ∃ t, exec .podDataFlit s = .next t ∧ (t.podLink l).rxNext = g.rxNext + 1 ∧ (t.podLink l).fails = 0 ∧
          (t.podLink l).unacked = g.unacked) ∧
        (flitSeq f ≠ g.rxNext → g.nakSent = true → exec .podDataFlit s = .next s) ∧
        (flitSeq f ≠ g.rxNext → g.nakSent = false → ∃ t, exec .podDataFlit s = .next t ∧ t.net = s.net ∧ (t.podLink l).nakSent = true ∧
          (t.podLink l).rxNext = g.rxNext ∧ (t.podLink l).txOut = g.txOut ++ [controlFlit (g.rxNext - 1) true 0 0])) ∧
      (flitGood f = true → flitKind f = 2 → ∃ t, exec .podControlFlit s = .next t ∧ t.net = s.net ∧ t.cores = s.cores ∧
        (t.podLink l).credits = g.credits.modify (bits f 244 240) (· + bits f 239 232) ∧
        (∀ a b c, g.unacked = a ++ c :: b → (∀ x ∈ a, flitSeq x ≠ flitSeq f) → flitSeq c = flitSeq f → (t.podLink l).unacked = b ∧
          (t.podLink l).txOut = if bits f 245 245 = 1 then g.txOut ++ b else g.txOut)) ∧
      (g.rxSince ≠ 0 → ∃ t, exec .podAckTimer s = .next t ∧ t.net = s.net ∧ (t.podLink l).rxSince = 0 ∧
        (t.podLink l).txOut = g.txOut ++ [controlFlit (g.rxNext - 1) false 0 0]) ∧
      (g.unacked ≠ [] → g.ackDue ≤ s.time.cycle → ∃ t, exec .podLinkTimeout s = .next t ∧ (t.podLink l).up = false ∧
        (t.podLink l).unacked = [] ∧ t.cores = s.cores ∧ t.m = s.m ∧
        (∀ p ∈ g.through, p.cls = 0 → ∃ r ∈ t.net.packets, r.cls = 1 ∧ r.kind = 7 ∧ r.op = 0x0B ∧ r.dst = p.src ∧ r.tag = p.tag) ∧
        ∀ x ∈ s.net.accesses, ∀ pkg o, x.loc = .remote pkg o → s.routeLink pkg.toNat 0 = some l → x.done = false →
          (∀ p ∈ s.net.packets, p.access ≠ x.id ∨ p.cls ≠ 0) →
          ∃ r ∈ t.net.packets, r.cls = 1 ∧ r.kind = 7 ∧ r.op = 0x0B ∧ r.access = x.id)) ∧
    (∀ r x, s.host.pcie.find? (fun r => r.id == s.input.num) = some r → s.findAccess r.access = some x →
      (s.input.status = .sc → ∃ t, exec .pcieCompletion s = .next t ∧ (∀ q ∈ t.host.pcie, q.id ≠ r.id) ∧
        answered s t x 5 0 ((s.input.bytes ++ List.replicate 16 0).take x.size) ∧ (x.op = .read → t.m = s.m)) ∧
      (s.input.status ≠ .sc → ∃ t, exec .pcieCompletion s = .next t ∧ (∀ q ∈ t.host.pcie, q.id ≠ r.id) ∧ answered s t x 7 5 [] ∧ t.m = s.m) ∧
      (r.since + 100000000 ≤ s.time.cycle → ∃ t, exec .pcieCompletionTimeout s = .next t ∧ (∀ q ∈ t.host.pcie, q.id ≠ r.id) ∧ answered s t x 7 0x0B [] ∧ t.m = s.m)) ∧
    (let n := s.input.port.toNat
     let bs := s.input.bytes
     let h := bs.take (bs.length - 4)
     let count := fun (t : State) (c : Nat) => (t.eth n).counters.getD c 0
     s.boot.test.ethLive n = true → (s.eth n).counters.length = 8 →
      (fieldAt bs (bs.length - 4) 4 ≠ (crc32 h).toNat → ∃ t, exec .ethFrameRx s = .next t ∧ t.m = s.m ∧ count t 1 = count s 1 + 1 ∧
        ∀ c, c ≠ 1 → count t c = count s c) ∧
      (fieldAt bs (bs.length - 4) 4 = (crc32 h).toNat → 64 ≤ bs.length →
        (9216 < bs.length → ∃ t, exec .ethFrameRx s = .next t ∧ t.m = s.m ∧ count t 0 = count s 0 + 1 ∧ count t 2 = count s 2 + 1) ∧
        (bs.length ≤ 9216 →
          (isPause h = true → ∃ t, exec .ethFrameRx s = .next t ∧ t.m = s.m ∧ count t 0 = count s 0 + 1 ∧ count t 5 = count s 5 + 1) ∧
          (isPause h = false → isPtp h = true → ∃ t, exec .ethFrameRx s = .next t ∧ t.m = s.m ∧ count t 4 = count s 4 + 1 ∧
            (t.eth n).ptp = (s.eth n).ptp ++ [h]) ∧
          (isPause h = false → isPtp h = false → (∀ e ∈ (s.eth n).flows, flowMatches e.2 h = false) →
            ∃ t, exec .ethFrameRx s = .next t ∧ t.m = s.m ∧ count t 0 = count s 0 + 1 ∧ count t 3 = count s 3 + 1) ∧
          (isPause h = false → isPtp h = false → ∀ i e w, (s.eth n).flows.find? (fun e => flowMatches e.2 h) = some (i, e) →
            (byteAt e 0).getLsbD 1 = false →
            let v := 16 * ((byteAt e 0x34).toNat % 8) + (byteAt e 0x35).toNat % 16
            let r := (byteAt e 0x35).toNat / 16 % 8
            let need := 2 + ((delivered e h).length + 127) / 128
            s.landRing v r = some w →
            ∃ t w', exec .ethFrameRx s = .next t ∧ t.landRing v r = some w' ∧
              (w.filled + need ≤ w.slots → w'.filled = w.filled + need ∧ w'.packets.length = w.packets.length + 1 ∧
                tabGet 0 (t.eth n).landed i = tabGet 0 (s.eth n).landed i + 1) ∧
              (w.slots < w.filled + need → w' = w ∧ t.m = s.m ∧ tabGet 0 (t.eth n).landed i = tabGet 0 (s.eth n).landed i))))) ∧
    (s.fwActs 0 = true →
      (∃ t, exec .tmrate s = .next t ∧ t.time.rate = clampRate s.input.word ∧ t.time.now = s.elapse.time.now ∧ t.cores = s.cores ∧ t.m = s.m) ∧
      (∃ t, exec .tmstep s = .next t ∧ t.time.step = s.elapse.time.step + s.input.word.toNat * 2 ^ 32 ∧ t.time.now = s.elapse.time.now ∧
        t.cores = s.cores ∧ t.m = s.m ∧
        ∀ n d, 0 < n → (t.time.pass n d).step = 0 ∧ (t.time.pass n d).now.getD 0 0 = t.time.now.getD 0 0 + n * t.time.rate.toNat + t.time.step)) ∧
    (∃ t, exec .tmnowlo s = .next t ∧ t.host.rdata = BitVec.ofNat 64 (bits (t.timeOf 0) 63 0) ∧ t.time.nowHi = BitVec.ofNat 32 (bits (t.timeOf 0) 95 64) ∧ t.time.now = s.elapse.time.now ∧
      t.cores = s.cores ∧ t.m = s.m)

/-! ## The fabric -/

/-- A part of site `i` has popped the inputs `pops` and sent tokens on its outputs, and what is ready in the core has moved. -/
def Sys2Proof.Machine.fired (s : State) (k i : Nat) (pops : List Nat) (sends : List (Nat × Token)) : State :=
  ((pops.foldl (fun s n => s.pop k i n) s).emitAll k i sends).settle k

/-- A token for an output where a list holds that output. -/
def Sys2Proof.Machine.sendIf (outs : List Nat) (o : Nat) (t : Token) : List (Nat × Token) := if o ∈ outs then [(o, t)] else []

/-- R234, R253, R254, R261 to R265, R363, and where NODE_FIRE, PASS_FIRE, FORK_FIRE, STEER_TOKEN_FIRE, STEER_LANE_FIRE, MERGE_CONTROLLED_FIRE,
MERGE_FAIR_FIRE, CARRY_TRIGGER, CARRY_BACK_EDGE and INV_FIRE complete: a node that may fire starts at its first micro-op and keeps the tokens that
stand at its inputs' heads; what each switch operator pops and sends on data: the head unchanged by PASS and to every output by FORK, by the
control token's lane by STEER and MERGE, around the loop by CARRY, and the held token with the trigger's ROUND by INV. -/
def Obligations.FabricEvents : Prop :=
  ∀ (s : State),
    let k := s.input.node.c.ix
    let i := s.input.node.site.toNat
    let slot := s.input.node.slot.toNat
    let s1 := { s with curNode := s.input.node }
    (s1.mayFire = true → ∃ t, exec .nodeFire s = .next t ∧ t.curNode = s.input.node ∧ t.nnode.firing = true ∧
      t.nnode.slot = s1.nsite.nodeFirst s1.nj ∧ t.nnode.mode = s1.ntile.mode ∧
      t.nnode.seen = (s1.joins s1.nk s1.ni s1.nj).filterMap (fun snk => (s1.head s1.nk s1.ni snk).map (fun h => (snk, h))) ∧ t.net = s.net ∧ t.m = s.m ∧ (∀ j, t.ctlAt j = s.ctlAt j)) ∧
    (s1.mayFire = false → exec .nodeFire s = .next s) ∧
    (∀ m, slot = m + 2 →
      let o := s.op k i m
      let outs := s.outs k i slot
      let p := opPort m
      (∀ t, s.opReady k i m 1 = true → s.head k i (p 0) = some t → t.isMark = false → s.outRoom k i t (p 0) = true →
        exec .passFire s = .next (fired s k i [p 0] [(p 0, t)])) ∧
      (∀ t, s.opReady k i m 2 = true → s.head k i (p 0) = some t → t.isMark = false → s.roomFor k i (outs.map (fun x => (x, t))) = true →
        exec .forkFire s = .next (fired s k i [p 0] (outs.map (fun x => (x, t))))) ∧
      (∀ d c, s.opReady k i m 3 = true → s.opData k i m 0 = some d → s.opData k i m 1 = some c →
        let v := c.lane 0 % 8
        let sends := if v < 4 then sendIf outs (p v) d else []
        s.roomFor k i sends = true → exec .steerTokenFire s = .next (fired s k i [p 0, p 1] sends)) ∧
      (∀ d c, s.opReady k i m 4 = true → s.opData k i m 0 = some d → s.opData k i m 1 = some c → p 1 ∉ outs → o.kept.lanes.length < 32 →
        (∀ x, s.outRoom k i x (p 0) = true) →
        let kept := (List.range 32).filter (fun n => hasGroup d.valid (n / 8) && c.lane n != 0)
        let all := o.kept.lanes ++ kept.map (fun n => BitVec.ofNat 32 (d.lane n))
        ∃ kp : Compact, kp.lanes = (if 32 ≤ all.length then all.drop 32 else all) ∧
          exec .steerLaneFire s = .next (fired (s.setOp k i m { o with kept := kp }) k i [p 0, p 1]
            (if 32 ≤ all.length then [(p 0, mkData (lineOfLanes ((all.take 32).map BitVec.toNat)) d.round 15 d.fmt)] else []))) ∧
      (∀ c t, s.opReady k i m 5 = true → s.opData k i m 3 = some c →
        let bound := (List.range 3).filter (fun n => (s.site k i).sinkOn i (p n))
        let n := bound.getD (c.lane 0 % 4 % bound.length) 0
        s.head k i (p n) = some t →
        (t.isMark = true → exec .mergeControlledFire s = .next ((s.stopOp k i m 7).settle k)) ∧
        (t.isMark = false → s.outRoom k i t (p 0) = true →
          exec .mergeControlledFire s = .next (fired s k i [p n, p 3] [(p 0, t)]))) ∧
      (∀ n t, s.opReady k i m 6 = true →
        nextServed 4 o.served (fun n => (s.site k i).sinkOn i (p n) && (s.opData k i m n).isSome) = some n → s.opData k i m n = some t →
        s.outRoom k i t (p 0) = true →
        exec .mergeFairFire s = .next (fired (s.setOp k i m { o with served := n }) k i [p n] [(p 0, t)])) ∧
      (∀ x d, s.opReady k i m 7 = true → (s.site k i).sinkOn i (p 2) = true → s.opData k i m 2 = some x →
        (∀ t ∈ o.pend, t.closes ((s.site k i).opLevel i m) = false) →
        let n := if o.isOpen then 1 else 0
        s.opData k i m n = some d → s.outRoom k i d (p 0) = true →
        exec .carryTrigger s = .next (fired (s.setOp k i m { o with isOpen := true, last := if o.isOpen then some d else o.last }) k i
          [p n, p 2] [(p 0, d)])) ∧
      (∀ b, s.opReady k i m 7 = true → s.head k i (p 1) = some b → s.roomFor k i (sendIf outs (p 1) b) = true →
        (b.isMark = false → o.isOpen = false → exec .carryBackEdge s = .next (fired s k i [p 1] (sendIf outs (p 1) b))) ∧
        (b.isMark = true → b.badMark = false → b.kind = 0 → o.pend.any (fun t => t.sameMark b) = true →
          exec .carryBackEdge s = .next (fired (s.setOp k i m { o with pend := o.pend.eraseP (fun t => t.sameMark b) }) k i [p 1]
            (sendIf outs (p 1) b))) ∧
        (b.isMark = true → b.badMark = false → o.pend.any (fun t => t.sameMark b) = false →
          exec .carryBackEdge s = .next ((s.stopOp k i m 7).settle k))) ∧
      (s.opReady k i m 8 = true →
        (∀ v, s.opData k i m 0 = some v → o.held = none →
          exec .invFire s = .next (fired (s.setOp k i m { o with held := some v }) k i [p 0] [])) ∧
        (∀ v h, s.opData k i m 0 = some v → o.held = some h → o.wait = none →
          exec .invFire s = .next (fired (s.setOp k i m { o with wait := some v }) k i [p 0] [])) ∧
        (∀ h t, s.opData k i m 0 = none → o.held = some h → s.opData k i m 1 = some t → s.outRoom k i (h.withRound t.round) (p 0) = true →
          exec .invFire s = .next (fired s k i [p 1] [(p 0, h.withRound t.round)]))))

/-- R40, R251, R266 to R273, and where MRD, MWR, MACC, RING_PUSH, RING_POP, REPEAT_ROUND and ALIGN_TIMEOUT complete: an addressed buffer reads the
words that an address token names, writes a data token as its next line, and accumulates one element at a time; a ring stores and delivers in
order, and an error in its head slot stops it; a REPEAT takes its count and keeps the round's tokens; and a part whose align timer ends stops with
MARK_SKEW. -/
def Obligations.TileEvents : Prop :=
  ∀ (s : State),
    let k := s.input.node.c.ix
    let i := s.input.node.site.toNat
    let slot := s.input.node.slot.toNat
    let x := s.site k i
    let outs := s.outs k i 6
    let turn := fun u => s.setSite k i { x with mt := { x.mt with served := u } }
    (∀ a, s.tileReady k i 1 = true → s.tileTurn k i = some 1 → s.tileData k i 2 = some a →
      let named := a.indices.filter (fun p => p.2 != 0xFFFFFFFF)
      ((∀ p ∈ named, x.rBase + 4 * p.2 < 131072 ∧ s.tileUe k i (x.rBase + 4 * p.2) 4 = none) →
        exec .mrd s = .next (fired (turn 1) k i [50] (sendIf outs 48 (mkData (lineOfLanes ((List.range 32).map (fun n =>
          if (n, a.lane n) ∈ named then s.tileWord k i (x.rBase + 4 * a.lane n) else 0))) a.round a.valid x.rFmt)))) ∧
      ((∃ p ∈ named, 131072 ≤ x.rBase + 4 * p.2) → exec .mrd s = .next (((turn 1).stopPart k i 6 6).settle k))) ∧
    (∀ d, s.tileReady k i 1 = true → s.tileTurn k i = some 2 → s.tileData k i 3 = some d → x.wBase + 128 * x.mt.w < 131072 →
      let key := Loc.key (.tile k i (x.wBase + 128 * x.mt.w))
      ∃ t, exec .mwr s = .next t ∧ (t.site k i).mt.w = x.mt.w + 1 ∧ (∀ j, t.ctlAt j = s.ctlAt j) ∧
        (∀ g < 4, hasGroup d.valid g = true → t.bytes (key + 32 * g) 32 = ((lineBytes d.payload).drop (32 * g)).take 32) ∧
        ∀ b, (b < key ∨ key + 128 ≤ b ∨ hasGroup d.valid ((b - key) / 32) = false) → t.byte b = s.byte b) ∧
    (∀ a v n ix rest, s.tileReady k i 1 = true → s.tileTurn k i = some 0 → s.tileData k i 0 = some a → s.tileData k i 1 = some v →
      a.indices.drop x.mt.acc = (n, ix) :: rest →
      let key := Loc.key (.tile k i (x.aBase + 4 * ix))
      let done := fun (u : State) =>
        if rest = [] then fired (u.setMt k i { x.mt with served := 0, acc := 0 }) k i [48, 49] []
        else (u.setMt k i { x.mt with served := 0, acc := x.mt.acc + 1 }).settle k
      (ix = 0xFFFFFFFF → exec .macc s = .next (done (turn 0))) ∧
      (ix ≠ 0xFFFFFFFF → 131068 < x.aBase + 4 * ix → exec .macc s = .next (((turn 0).stopPart k i 6 6).settle k)) ∧
      (ix ≠ 0xFFFFFFFF → x.aBase + 4 * ix ≤ 131068 → s.tileUe k i (x.aBase + 4 * ix) 4 = none →
        let t := done ((turn 0).store key (leBytes 4 (maccWord x.maccOp (leNat (s.bytes key 4)) (v.lane n))))
        exec .macc s = .next t ∧ (∀ j, t.ctlAt j = s.ctlAt j) ∧ ∀ b, b < key ∨ key + 4 ≤ b → t.byte b = s.byte b)) ∧
    (∀ r t, s.input.num = r → r < 4 → s.tileReady k i 2 = true →
      let g := x.mt.ring r
      let out := sendIf outs (48 + r) t
      (g.toks.length < x.ringSlots r → s.head k i (48 + r) = some t → t.isMark = false →
        exec .ringPush s = .next (fired ((s.lineWritten k i (s.ringLine k i r g.toks.length)).setRing k i r { g with toks := g.toks ++ [t] }) k i
          [48 + r] [])) ∧
      (x.ringSlots r ≠ 0 → x.ringSlots r ≤ g.toks.length → exec .ringPush s = .next (s.settle k)) ∧
      (∀ rest, x.ringSlots r ≠ 0 → g.toks = t :: rest → g.run = ⟨[], []⟩ → t.isMark = false →
        (s.ringUe k i r 1 = none → s.roomFor k i out = true →
          exec .ringPop s = .next (fired (s.setRing k i r { g with toks := rest, head := (g.head + 1) % x.ringSlots r }) k i [] out)) ∧
        (∀ u, s.ringUe k i r 1 = some u → exec .ringPop s = .next ((s.tileError k i u).settle k)))) ∧
    (s.tileReady k i 3 = true →
      (∀ c, x.mt.count = none → s.tileData k i 1 = some c →
        exec .repeatRound s = .next (fired (s.setMt k i { x.mt with count := some (c.lane 0) }) k i [49] [])) ∧
      (∀ c t, x.mt.count = some c → s.tileData k i 0 = some t → x.mt.buf.length < 1024 →
        let out := if c = 0 then [] else sendIf outs 48 t
        s.roomFor k i out = true →
        exec .repeatRound s = .next (fired ((s.lineWritten k i x.mt.buf.length).setMt k i { x.mt with buf := x.mt.buf ++ [t] }) k i [48] out))) ∧
    (∀ since, slot < 7 → s.blockedSince k i slot = some since → s.timeoutOf k i slot ≠ 15 → s.timerPaused k = false →
      2 ≤ s.joinSize k i slot → since + 2 ^ (s.timeoutOf k i slot + 10) ≤ s.time.cycle →
      exec .alignTimeout s = .next (s.stopPart k i slot 7) ∧
      ∀ o u, (s.core k).occ = some o → s.findTask o.task = some u → (s.queue o.queue.toNat).st = .active →
        (s.queue o.queue.toNat).resetBy = [] → ((s.stopPart k i slot 7).queue o.queue.toNat).st = .faulting)

/-! ## Marks -/

/-- The mark events with the kind of mark each is for (R245). -/
def Sys2Proof.Machine.markKinds : List (Instr × Nat) :=
  [(.eorMark, 0), (.wswMark, 2), (.modMark, 3), (.flsMark, 4), (.savMark, 5), (.rstMark, 6), (.swpMark, 7), (.tscMark, 8), (.fenMark, 9),
   (.qscMark, 10), (.brkMark, 11)]

/-- Every input of a part has popped its copy of mark `t`, the effect has taken place, copies of the mark leave by every output, and the runs
behind the mark and the part's own units follow on the lowest output (R250). -/
def Sys2Proof.Machine.markPassed (s : State) (k i slot : Nat) (t : Token) (own : List Token) (effect : State → State) : State :=
  let ins := s.runsIn k i slot
  let copies := markCopies t ((ins.map (fun p => p.2)).sum + own.length) (s.markOuts k i slot)
  let s1 := (s.joins k i slot).foldl (fun s n => s.pop k i n) s
  ((((effect s1).emitAll k i copies).setPartRun k i slot ⟨ins, own⟩).stopTimer k i slot).settle k

/-- The copies of mark `t` with a run of `n` tokens have room at a part's outputs. -/
def Sys2Proof.Machine.markRoom (s : State) (k i slot n : Nat) (t : Token) : Prop :=
  s.roomFor k i (markCopies t (((s.runsIn k i slot).map (fun p => p.2)).sum + n) (s.markOuts k i slot)) = true

/-- What RST leaves of a unit of a site that no later unit takes the place of: a matrix unit's chains and weights, a node's registers with its
predicate, mode and counts, a CARRY's or an INV's token, a REPEAT's tokens and counts, a ring's slots, and the lines of an addressed buffer
(R133, R257, R259). -/
def Sys2Proof.Machine.unitRestored (x : Site) (k i : Nat) (u : Nat × List Token) (post : List (Nat × List Token)) (t : State) : Prop :=
  let y := t.site k i
  let ts := u.2
  let tok := fun n => ts.getD n default
  let last := ts.getLast?.getD default
  (u.1 < 2 → ts.length = 384 → (∀ w ∈ post, w.1 < 2 → w.2.length ≠ 384) →
    (∀ r < 64, tabGet 0 y.ct.mx.ev r = (tok (2 * r)).payload ∧ tabGet 0 y.ct.mx.od r = (tok (2 * r + 1)).payload) ∧
    ∀ r < 128, tabGet 0 y.ct.mx.active r = (tok (128 + r)).payload ∧ tabGet 0 y.ct.mx.standby r = (tok (256 + r)).payload) ∧
  (u.1 < 2 → ts.length ≠ 384 → (∀ w ∈ post, 2 ≤ w.1 ∨ w.2.length = 384) →
    (x.nodeRlen u.1 = false → y.ct.mode = BitVec.ofNat 5 ((tok 0).lane 0)) ∧
    (x.nodeRlen u.1 = true → y.ct.p = BitVec.ofNat 32 (last.lane 0) ∧ y.ct.mode = BitVec.ofNat 5 (last.lane 2) ∧
      (y.ct.node u.1).fcnt = BitVec.ofNat 32 (last.lane 1) ∧
      ∀ (n r : Nat) (v : Token), (x.share u.1)[n]? = some r → ts[n]? = some v → y.ct.v[r]? = some (v.payload, v.valid, v.fmt))) ∧
  (∀ m, m < 4 → u.1 = 2 + m → (∀ w ∈ post, w.1 ≠ 2 + m) →
    let one : Token → Option Token := fun v => if v = mkData 0 0 0 0 then none else some v
    (x.opKind i m = 8 → (y.op m).held = one (tok 0) ∧ (y.op m).wait = one (tok 1)) ∧
    (x.opKind i m ≠ 8 → (y.op m).last = ts.head? ∧ (y.op m).isOpen = true)) ∧
  (u.1 = 6 → (∀ w ∈ post, w.1 < 6) →
    (x.role = 3 → y.mt.buf = ts.dropLast ∧ y.mt.count = (if last.lane 0 = 0 then none else some (last.lane 1)) ∧ y.mt.again = last.lane 2 ∧
      y.mt.pos = last.lane 3) ∧
    (x.role = 1 → ∀ (n : Nat) (v : Token), ts[n]? = some v → n < 1024 → t.bytes (Loc.key (.tile k i (128 * n))) 128 = lineBytes v.payload)) ∧
  (u.1 = 6 → x.role = 2 → last.lane 4 < 4 → (∀ w ∈ post, w.1 < 6 ∨ (w.2.getLast?.getD default).lane 4 ≠ last.lane 4) →
    y.mt.rings[last.lane 4]? = some ⟨last.lane 0, ts.dropLast, ⟨[], []⟩⟩)

/-- CFG_BAD at a frame of a site: fatal to the queue of its cell (R126, R308). -/
def Sys2Proof.Machine.cfgFails (s : State) (k i : Nat) (f : Nat × Nat) : Prop :=
  ∀ o u, (s.core k).occ = some o → s.findTask o.task = some u → (s.queue o.queue.toNat).st = .active → (s.queue o.queue.toNat).resetBy = [] →
    ∃ t, exec .cfgMark s = .next t ∧ (t.queue o.queue.toNat).st = .faulting ∧
      ∃ r ∈ t.host.records, r.queue = o.queue ∧ r.status = 1 ∧ r.cause = 8 ∧ r.va = BitVec.ofNat 64 (frameAddr k i f)

/-- Token `t` is the next of the frames that a site waits for, on its configuration path or on the input that its CFG mark came by, and the state
without it (R126, R308). -/
def Sys2Proof.Machine.frameToken (s : State) (k i : Nat) (t : Token) (s1 : State) : Prop :=
  let x := s.site k i
  x.expect ≠ 0 ∧
  ((∃ rest, (∀ n, sitePort i = some n → s.portMark 1 k n = s) ∧ x.via = none ∧ x.path = t :: rest ∧ s1 = s.setSite k i { x with path := rest }) ∨
    ∃ snk, x.via = some snk ∧ ((s.chan k i snk).head?).map Queued.tok = some t ∧ s1 = s.pop k i snk)

/-- R126, R133, R243, R248, R250 to R260, R266, R308, R366, and where EOR_MARK, WSW_MARK, MOD_MARK, FLS_MARK, SAV_MARK, RST_MARK, SWP_MARK, TSC_MARK,
FEN_MARK, QSC_MARK, BRK_MARK and CFG_MARK complete: a mark of every kind passes a node, an operator and an addressed buffer with its effect once it
has aligned; marks that differ stop the part; a release level starts a release firing, and its end resets the node; a port block emits, applies and
takes marks; a site whose saved units have come takes them at its RST; a CFG mark, on the configuration path or at every input of a site, and the
frames behind it configure the site. That an RST which brings no units passes a part as any mark is the model's (assumption 31). -/
def Obligations.MarkEvents : Prop :=
  ∀ (s : State),
    let k := s.input.node.c.ix
    let i := s.input.node.site.toNat
    let slot := s.input.node.slot.toNat
    let x := s.site k i
    (∀ e ∈ markKinds, x.frames ≠ [] → x.rst = [] → s.partCause k i slot = 0 → s.partRun k i slot = ⟨[], []⟩ →
      (∀ t, slot < 2 → (x.ct.node slot).release = none → (x.ct.node slot).firing = false → (x.ct.node slot).reported = false →
        s.aligned k i slot = .mark t → t.kind = e.2 → x.releases slot t = false →
        let own := if e.2 = 5 ∨ e.2 = 10 then s.nodeUnits k i slot e.2 else []
        markRoom s k i slot own.length t →
        exec e.1 s = .next (markPassed s k i slot t own (fun s => (s.nodeEffect k i slot t).nodeReport k i slot t))) ∧
      (∀ t, slot < 2 → (x.ct.node slot).release = none → (x.ct.node slot).firing = false → (x.ct.node slot).reported = false →
        s.aligned k i slot = .mark t → t.kind = e.2 → x.releases slot t = true →
        ∃ u : State, exec e.1 s = .next (u.settle k) ∧ ((u.site k i).ct.node slot).firing = true ∧
          ((u.site k i).ct.node slot).release = some t ∧ ((u.site k i).ct.node slot).slot = x.nodeFirst slot) ∧
      (∀ t, slot < 2 → (x.ct.node slot).release = some t → t.kind = e.2 → x.nodeFirst slot + x.nodeCount slot ≤ (x.ct.node slot).slot →
        markRoom s k i slot 0 t →
        exec e.1 s = .next (markPassed s k i slot t [] (fun s =>
          let y := (s.site k i).releaseReset slot
          let n := { y.ct.node slot with firing := false, slot := 0, step := 0, release := none }
          (s.setSite k i { y with ct := y.ct.setNode slot n }).nodeReport k i slot t))) ∧
      (∀ t m, m < 4 → slot = m + 2 → x.opKind i m ∈ [3, 5, 6, 7, 8] → s.aligned k i slot = .mark t → t.kind = e.2 →
        let own := if e.2 = 5 ∨ e.2 = 10 then s.opUnits k i m e.2 else []
        markRoom s k i slot own.length t →
        exec e.1 s = .next (markPassed s k i slot t own (fun s => s.opEffect k i m t))) ∧
      (∀ t, slot = 6 → x.role = 1 → s.aligned k i slot = .mark t → t.kind = e.2 → (e.2 = 5 ∨ e.2 = 10 → s.tileBad k i e.2 = none) →
        let own := if e.2 = 5 ∨ e.2 = 10 then s.tileUnits k i e.2 else []
        markRoom s k i slot own.length t →
        exec e.1 s = .next (markPassed s k i slot t own (fun s => s.tileEffect k i t))) ∧
      (slot < 7 → (slot < 2 → (x.ct.node slot).release = none) →
        (s.aligned k i slot = .skew → exec e.1 s = .next ((s.stopPart k i slot 7).settle k)) ∧
        (s.aligned k i slot = .bad → exec e.1 s = .next ((s.stopPart k i slot 0x13).settle k))) ∧
      (∀ n, slot = 7 → sitePort i = some n → i = portSite n → s.portStopped k n = false →
        let p := s.port k n
        (∀ t op rest, p.items = .mark t op false :: rest → t.kind = e.2 → s.marksGo k n t = true →
          (p.isStore = false → p.slots = [] → p.outq = [] → e.2 ≠ 8 →
            let m := if e.2 = 0 then mkMark kEor t.level (p.eors.getD t.level 0) t.origin t.pl else t
            ∃ u : State, exec e.1 s = .next (u.settle k) ∧
              (u.port k n).outq = ((s.outlets k n).filter (fun o => e.2 != 7 || decide (o < 8))).map (fun o => (o, m)) ∧
              (e.2 = 10 → (u.port k n).stopped = true)) ∧
          (p.isStore = false → p.slots = [] → p.outq = [] → e.2 = 8 →
            ∃ u : State, exec e.1 s = .next (u.settle k) ∧
              (u.port k n).outq = ((s.outlets k n).map (fun o =>
                [(o, t), (o, timeToken (s.elapse.timeOf (reticleOf k)) (BitVec.ofNat 6 p.round))])).flatten) ∧
          (p.isStore = true → s.portWaits k n t = false →
            exec e.1 s = .next (((((s.setPort k n { p with items := rest }).portApply k n t).partDone k op)).settle k))) ∧
        (∀ t, p.items = [] → p.reported = false → p.owed = false → s.indexed k n = false →
          alignHeads ((s.portJoins k n).map (fun d => s.head k d.1 d.2)) = .mark t → t.kind = e.2 →
          exec e.1 s = .next ((s.arrivedMark k n t).settle k)))) ∧
    (∀ j t, x.frames ≠ [] → j < 2 →
      (t.kind = 3 → ((s.nodeEffect k i j t).site k i).ct.mode = BitVec.ofNat 5 t.pl) ∧
      (t.kind = 2 → x.ownsMatrix j = true → ((s.nodeEffect k i j t).site k i).ct.mx.active = x.ct.mx.standby ∧
        ((s.nodeEffect k i j t).site k i).ct.mx.standby = x.ct.mx.active) ∧
      (t.kind ≠ 3 → t.kind ≠ 2 → s.nodeEffect k i j t = s)) ∧
    (x.rst ≠ [] → x.frames ≠ [] → x.ct.v.length = 8 → x.ops.length = 4 → x.mt.rings.length = 4 →
      ∃ t, exec .rstMark s = .next t ∧ (t.site k i).rst = [] ∧ (t.site k i).frames = x.frames ∧ (∀ j, t.ctlAt j = s.ctlAt j) ∧
        ∀ pre u post, unitsOf x.rst.length x.rst = pre ++ u :: post → unitRestored x k i u post t) ∧
    (let ins := (s.siteIns k i).filter (fun snk => !x.backEdge i snk)
     ∀ t, (∀ n, sitePort i = some n → s.portMark 1 k n = s) → x.via = none → x.path = [] → alignHeads (ins.map (s.head k i)) = .mark t →
      t.kind = 1 → s.cfgReady k i = true →
      (∀ m, s.steerHolds k i = some m → exec .cfgMark s = .next ((s.flushSteer k i m).settle k)) ∧
      (s.steerHolds k i = none → t.pl = (frameSet i).length →
        ∃ u : State, exec .cfgMark s = .next (u.settle k) ∧ (u.site k i).expect = t.pl ∧ (u.site k i).loading = [] ∧
          (u.site k i).via = ins.head? ∧ ∀ snk ∈ ins, u.chan k i snk = chanPop (s.chan k i snk)) ∧
      (s.steerHolds k i = none → t.pl ≠ (frameSet i).length → cfgFails s k i ((frameSet i).headD (0, 0)))) ∧
    (∀ t rest, (∀ n, sitePort i = some n → s.portMark 1 k n = s) → x.via = none → x.path = t :: rest → x.expect = 0 →
      (s.siteQuiet k i = false → exec .cfgMark s = .next (s.settle k)) ∧
      (s.siteQuiet k i = true → t.pl = (frameSet i).length → ∃ u : State, exec .cfgMark s = .next (u.settle k) ∧ (u.site k i).expect = t.pl ∧
        (u.site k i).loading = [] ∧ (u.site k i).via = none ∧ (u.site k i).path = rest ∧ (u.site k i).rst = x.rst) ∧
      (s.siteQuiet k i = true → t.pl ≠ (frameSet i).length → cfgFails s k i ((frameSet i).headD (0, 0)))) ∧
    (∀ t s1, frameToken s k i t s1 →
      let x1 := s1.site k i
      let got := x.loading ++ t.frames
      (t.carriesFrames (x.expect - x.loading.length) = false → cfgFails s k i ((frameSet i).headD (0, 0))) ∧
      (t.carriesFrames (x.expect - x.loading.length) = true → got.length < x.expect →
        ∃ u : State, exec .cfgMark s = .next (u.settle k) ∧ (u.site k i).loading = got ∧ (u.site k i).frames = x.frames) ∧
      (t.carriesFrames (x.expect - x.loading.length) = true → x.expect ≤ got.length →
        let bad := s1.badFrame { x1 with loading := got, frames := got } i x1.role
        (bad = none → ∃ u : State, exec .cfgMark s = .next (u.settle k) ∧ (u.site k i).frames = got ∧ (u.site k i).via = none ∧
          (u.site k i).expect = 0 ∧ (u.site k i).rst = x.rst) ∧
        ∀ f, bad = some f → cfgFails s k i f))

/-! ## Streams and engines -/

/-- Stream `t` is active at the port block that the input names, which is loaded and has not sent a SWP. -/
def Sys2Proof.Machine.streamAt (s : State) (t : StreamSt) : Prop :=
  (s.site s.input.core.ix (portSite s.input.port.toNat)).frames ≠ [] ∧
  (s.port s.input.core.ix s.input.port.toNat).active = some t ∧ s.pastCut s.input.core.ix s.input.port.toNat = false

/-- What issuing a load unit at an address does once its checks pass: its slots are taken, what the banks do not serve is asked for, a request a
piece where they hold nothing, and the next unit follows (R166, R199, R216). -/
def Sys2Proof.Machine.unitIssued (s u : State) (k n : Nat) (t : StreamSt) (va : Word) (ps : List Piece) : Prop :=
  ∃ sl, (u.port k n).slots = (s.port k n).slots ++ [sl] ∧ sl.unit = t.unit ∧ sl.va = va ∧ sl.lines = linesOf ps ∧
    (u.port k n).items = ((s.port k n).setStream { t with unit := t.unit + 1 }).items ∧
    (∀ id ∈ sl.pend, ∃ x ∈ u.net.accesses, x.id = id ∧ x.op = .read ∧ x.agent = portAgent k n) ∧
    (s.m.banks = [] → sl.pend.length = ps.length ∧ u.net.packets.length = s.net.packets.length + ps.length)

/-- No bank line that a token's unit is written to keeps an error of a unit that the store does not cover (R40). -/
def Sys2Proof.Machine.storesWell (s : State) (k n : Nat) (t : StreamSt) (h : Token) (form : UnitForm) (page : Nat) (ps : List Piece) : Prop :=
  s.bankError k n ((writeParts (storeBytes form (page % 16) (sbLanes t.spb) (s.port k n).mode ((s.port k n).inRun (sbTarget t.spb)) h) ps).map (·.1)) true = none

/-- What storing a token as a unit does once its checks pass: writes on their way, the token taken from its input or from the run that the index
input has brought, and the next unit (R259, R400). -/
def Sys2Proof.Machine.unitStored (s u : State) (k n : Nat) (t : StreamSt) : Prop :=
  let snk := 48 + sbTarget t.spb
  (∃ ids, (u.port k n).writes = (s.port k n).writes ++ ids ∧
    ∀ id ∈ ids, ∃ x ∈ u.net.accesses, x.id = id ∧ x.op = .write ∧ x.agent = portAgent k n) ∧
  (if (s.port k n).fromRun (sbTarget t.spb) = true then (u.port k n).idxRun = (s.port k n).idxRun.drop 1
    else u.chan k (portSite n) snk = chanPop (s.chan k (portSite n) snk)) ∧
  (u.port k n).items = ((s.port k n).setStream { t with unit := t.unit + 1, handed := t.unit + 1 }).items

/-- R61, R180, R201, R216, R236, R248, R314, R336, R344, R397 to R407, and where STREAM_START, LOAD_UNIT, STORE_UNIT, IDX_UNIT, SCAT_UNIT,
STREAM_RETIRE, LANDING_POP and ETH_FRAME_TX complete: a stream starts, issues its units and hands on their tokens with the EORs that
SB_EOR asks for, stores tokens, takes indices, pops landing rings, sends frames, and retires; a fault of a unit is recorded. The model's choices are
the number of packets of a unit, one for each of its pieces (assumption 28), and the state runs at a SCAT's index input and at an egress port
(assumption 37). -/
def Obligations.StreamEvents : Prop :=
  ∀ (s : State) (t : StreamSt),
    let k := s.input.core.ix
    let n := s.input.port.toNat
    let p := s.port k n
    let lane := sbLanes t.spb
    let lin := fun (store : Bool) => sbMode t.spb = 0 ∧ sbStore t.spb = store
    (∀ rest, p.items = .stream t :: rest → t.started = false → p.stopped = false → (s.quietens k && !sbStore t.spb) = false →
      s.generates k n = true → s.gateOpen k t = true → s.waitsFor t.before = false →
      ∃ u : State, exec .streamStart s = .next (u.settle k) ∧ (u.port k n).isStore = sbStore t.spb ∧ (u.port k n).startedNo = t.num + 1 ∧
        (u.port k n).active = some { t with started := true, unit := if t.num = 0 then p.startAt else t.unit,
                                            handed := if t.num = 0 then p.startAt else t.unit } ∧
        (sbUnits t.spb = 0 ∧ sbEnd7 t.spb = true ∧ sbStore t.spb = false → (u.port k n).round = p.round + 1)) ∧
    (streamAt s t → lin false →
      (p.readyUnit = none → s.generates k n = true → p.stopped = false → t.unit < sbUnits t.spb →
        let va := unitAddr t.spb t.unit
        (∀ form page ps s1, s.unitCheck k t.spb va .read false 15 = (.ok form page ps, s1) → p.slotsUsed + linesOf ps ≤ 8 →
          s1.bankError k n ps false = none →
          ∃ u : State, exec .loadUnit s = .next (u.settle k) ∧ unitIssued s u k n t va ps) ∧
        (∀ c v s1, s.unitCheck k t.spb va .read false 15 = (.fault c v, s1) →
          ∃ u : State, exec .loadUnit s = .next (u.settle k) ∧ (u.port k n).fault.valid = true ∧ (u.port k n).fault.cause = BitVec.ofNat 8 c ∧
            (u.port k n).fault.va = v ∧ (u.port k n).fault.unit = BitVec.ofNat 64 t.unit) ∧
        (∀ form page ps s1 b q, s.unitCheck k t.spb va .read false 15 = (.ok form page ps, s1) → p.slotsUsed + linesOf ps ≤ 8 →
          s1.bankError k n ps false = some (b, q) →
          ∃ u : State, exec .loadUnit s = .next (u.settle k) ∧ (u.port k n).fault.valid = true ∧ (u.port k n).fault.cause = 0x0A ∧
            (u.port k n).fault.va = q.va ∧ (u.port k n).fault.unit = BitVec.ofNat 64 t.unit)) ∧
      (∀ w, p.readyUnit = some w →
        let pg := w.page.toNat
        let tok := formToken (loadForm (pg % 16) (pg / 16) lane) (pg % 16) (pg / 16) lane w.va.toNat p.mode w.bytes
        let data := (sbTarget t.spb, mkData tok.1 (BitVec.ofNat 6 p.round) tok.2 (BitVec.ofNat 4 lane))
        ∃ u : State, exec .loadUnit s = .next (u.settle k) ∧ (u.port k n).slots = p.slots.drop 1 ∧
          (w.eor = none → (u.port k n).outq = [data] ∧ (u.port k n).round = p.round) ∧
          (∀ l, w.eor = some l → (u.port k n).round = p.round + 1 ∧
            (u.port k n).outq = [data, (sbTarget t.spb, mkMark kEor l.toNat (p.eors.getD l.toNat 0) (markOrigin k n) 0)]))) ∧
    (streamAt s t → lin true → s.generates k n = true → t.unit < sbUnits t.spb → (sbTarget t.spb ≠ 3 ∨ s.indexTaken k n = false) →
      ∀ h, s.storeHead k n t = some h →
        ∀ form page ps s1, s.unitCheck k t.spb (unitAddr t.spb t.unit) .write (p.inRun (sbTarget t.spb)) h.valid =
          (.ok form page ps, s1) → storesWell s1 k n t h form page ps →
          ∃ u : State, exec .storeUnit s = .next (u.settle k) ∧ unitStored s u k n t) ∧
    (∀ x, streamAt s t → t.indexPort = some x → s.generates k n = true → s.holdsIndex k t = true → t.unit < sbUnits t.spb →
      (sbMode t.spb = 1 → p.readyUnit = none → p.stopped = false →
        (∀ h, (s.port k x).idxLanes = [] → s.head k (portSite x) 51 = some h → h.isMark = false → (s.port k x).runLeft.getD 3 0 = 0 →
          exec .idxUnit s = .next (((s.pop k (portSite x) 51).setIdx k x h.indexLanes).settle k)) ∧
        (∀ j rest, (s.port k x).idxLanes = j :: rest →
          ∀ form page ps s1, s.unitCheck k t.spb (indexAddr t.spb j) .read false 15 = (.ok form page ps, s1) → p.slotsUsed + linesOf ps ≤ 8 →
            s1.bankError k n ps false = none →
            ∃ u : State, exec .idxUnit s = .next (u.settle k) ∧ unitIssued s u k n t (indexAddr t.spb j) ps ∧ (u.port k x).idxLanes = rest)) ∧
      (sbMode t.spb = 2 → (sbTarget t.spb ≠ 3 ∨ s.indexTaken k n = false) → (s.port k x).idxLanes = [] → ∀ h,
        s.head k (portSite x) 51 = some h →
        (0 < (s.port k x).runLeft.getD 3 0 → ∃ u : State, exec .scatUnit s = .next (u.settle k) ∧ (u.port k n).idxRun = p.idxRun ++ [h] ∧
          u.chan k (portSite x) 51 = chanPop (s.chan k (portSite x) 51)) ∧
        ((s.port k x).runLeft.getD 3 0 = 0 → h.isMark = false → s.dataBlocked k n t = false →
          exec .scatUnit s = .next (((s.pop k (portSite x) 51).setIdx k x h.indexLanes).settle k))) ∧
      (sbMode t.spb = 2 → (sbTarget t.spb ≠ 3 ∨ s.indexTaken k n = false) → ∀ j rest, (s.port k x).idxLanes = j :: rest →
        (p.idxRun = [] → s.dataBlocked k n t = true → exec .scatUnit s = .next ((s.partFatal k (portSite n) 7 7).settle k)) ∧
        (∀ h, s.lanesLeft k n t = false → s.storeHead k n t = some h →
          ∀ form page ps s1, s.unitCheck k t.spb (indexAddr t.spb j) .write (p.inRun (sbTarget t.spb)) h.valid =
            (.ok form page ps, s1) → storesWell s1 k n t h form page ps →
            ∃ u : State, exec .scatUnit s = .next (u.settle k) ∧ unitStored s u k n t ∧ (u.port k x).idxLanes = rest))) ∧
    (∀ y rest, s.cutOff k n = true → p.items = y :: rest → ∃ u : State, exec .streamRetire s = .next (u.settle k) ∧
      ∀ z ∈ (u.port k n).items, z.op ≠ y.op) ∧
    (s.cutOff k n = false → p.active = some t → s.streamDone k n t = true →
      ∃ u : State, exec .streamRetire s = .next (u.settle k) ∧ (∀ y ∈ (u.port k n).items, y.stream?.map StreamSt.op ≠ some t.op) ∧
        ((s.ctlAt k).tops = [(t.op, 1)] → (u.ctlAt k).tops = [] ∧ (u.ctlAt k).r.evPend.getLsbD 0 = true)) ∧
    (∀ g ts rest, streamAt s t → sbMode t.spb = 3 → sbStore t.spb = false →
      let v := pktRing t.spb
      s.landRing v.1 v.2 = some g → nextTaker g.served (s.ringTakers v) = some (16 * k + n) → g.packets = ts :: rest →
      ∃ u : State, exec .landingPop s = .next (u.settle k) ∧ u.landRing v.1 v.2 = some { g with packets := rest, served := 16 * k + n } ∧
        (u.port k n).outq.length = ts.length ∧ (∀ o ∈ (u.port k n).outq, o.1 = loadTarget t.spb) ∧
        (u.port k n).items = (p.setStream { t with unit := t.unit + 1, handed := t.unit + 1 }).items) ∧
    (∀ h, streamAt s t → sbMode t.spb = 3 → sbStore t.spb = true → s.head k (portSite n) 48 = some h → s.generates k n = true →
      p.reported = false → p.saving = false → t.unit < sbUnits t.spb →
      let e := sbTarget t.spb
      let both := alignHeads ((s.portJoins k n).map (fun d => s.head k d.1 d.2))
      (h.isMark = false → p.runLeft.getD 0 0 = 0 →
        exec .ethFrameTx s = .next (((s.setPort k n { p with frame := p.frame ++ [h] }).pop k (portSite n) 48).settle k)) ∧
      (h.isMark = false → 0 < p.runLeft.getD 0 0 →
        let b := lineBytes h.line
        ∃ u : State, exec .ethFrameTx s = .next (u.settle k) ∧ (u.port k n).frame = p.frame ∧
          (u.port k n).items = (p.setStream { t with unit := t.unit + 1, handed := t.unit + 1 }).items ∧
          (u.eth e).counters = (s.eth e).counters.modify 6 (· + 1) ∧ (u.eth e).sent = (s.eth e).sent ++ [b ++ leBytes 4 (crc32 b).toNat]) ∧
      (h.isMark = true → both = .skew → exec .ethFrameTx s = .next ((s.partFatal k (portSite n) 7 7).settle k)) ∧
      (∀ m, h.isMark = true → both = .mark m → m.kind = 0 → p.frame ≠ [] → ∃ u : State, exec .ethFrameTx s = .next (u.settle k) ∧
        (u.port k n).frame = [] ∧
        (txFrame (isHub k) (s.draws + 1) p.frame = none → (u.eth e).counters = (s.eth e).counters.modify 7 (· + 1) ∧
          (u.eth e).sent = (s.eth e).sent) ∧
        (∀ f, txFrame (isHub k) (s.draws + 1) p.frame = some f → (u.eth e).counters = (s.eth e).counters.modify 6 (· + 1) ∧
          (u.eth e).sent = (s.eth e).sent ++ [f])))

/-- R112, R180, R192, R199 to R205, R336, R339 to R341, and where COPY_UNIT and GATHER_UNIT complete: a unit of COPY or GATHER is checked page by
page, read whole and written; a gather reads its index; a fault stops the operation with its record; and the operation retires once its writes are
answered, with no line left in its core's banks. The number of writes of a unit, one for each of its pieces, is the model's (assumption 28). -/
def Obligations.EngineEvents : Prop :=
  ∀ (s : State) (copy : Bool) (e : EngOp),
    let i := if copy then Instr.copyUnit else Instr.gatherUnit
    let ret := s.input.reticle.toNat
    let slot := s.input.slot.toNat
    let ag := engAgent copy ret slot
    let stops := fun (t : State) (c : Nat) (va : Word) => ∃ e', t.engOp copy ret slot = some e' ∧ e'.unit = e.unit ∧ e'.fault.valid = true ∧
      e'.fault.cause = BitVec.ofNat 8 c ∧ e'.fault.va = va ∧ e'.fault.unit = BitVec.ofNat 64 e.unit
    s.engOp copy ret slot = some e →
    (e.fault.valid = true ∨ s.waitsFor e.after = true → exec i s = .next s) ∧
    (e.fault.valid = false → s.waitsFor e.after = false →
      (∀ x, e.unit < e.units → e.writes = [] → (e.kind = .gather → e.index = some (BitVec.ofNat 32 x)) → x < 2 ^ 32 → (e.kind ≠ .gather → x = 0) →
        let r := e.range x
        (∀ a c va s1, State.placeIn ret e.asn .read (pieces r.1 r.2.2) Placed.none s = (a, s1) → a.bad = some (c, va) →
          ∃ t, exec i s = .next t ∧ stops t c va ∧ t.m.mem = s.m.mem) ∧
        (∀ a b s1 s2, State.placeIn ret e.asn .read (pieces r.1 r.2.2) Placed.none s = (a, s1) → a.bad = none →
          State.placeIn ret e.asn .write (pieces r.2.1 r.2.2) Placed.none s1 = (b, s2) →
          (∀ c va, b.bad = some (c, va) → ∃ t, exec i s = .next t ∧ stops t c va ∧ t.m.mem = s.m.mem) ∧
          (∀ va, b.bad = none → s2.firstBad ret e x = some va → ∃ t, exec i s = .next t ∧ stops t 5 va ∧ t.m.mem = s.m.mem) ∧
          (∀ bs s3 s4, b.bad = none → s2.firstBad ret e x = none → a.hole = none → b.hole = none → a.stall = false →
            b.stall = false → s2.ownWrites ag a.ps = false → s2.fetchAll ag e.asn true a.ps = (some (.ok bs), s3) →
            s3.slotCheck ret e.asn r.1.toNat r.2.2 = (none, s4) →
            (∀ o u, s4.destBad b.ps = some (o, u) → ∃ t, exec i s = .next t ∧ stops t 0x0A o.va ∧ t.m.mem = s.m.mem) ∧
            (s4.destBad b.ps = none → ∃ t e' ids, exec i s = .next t ∧ t.engOp copy ret slot = some e' ∧ e'.unit = e.unit + 1 ∧ e'.writes = e.writes ++ ids ∧
              ids.length = b.ps.length ∧ t.m.mem = s.m.mem ∧ t.cores = s.cores ∧
              ∀ d ∈ ids, ∃ x ∈ t.net.accesses, x.id = d ∧ x.op = .write ∧ x.agent = ag)))) ∧
      (copy = false → e.kind = .gather → e.index = none → e.unit < e.units → e.writes = [] →
        let va : Word := BitVec.ofNat 64 (fieldAt e.desc 0 8 + 4 * (e.unit / fieldAt e.desc 0x24 4))
        ∀ a bs s1 s2 s3, State.placeIn ret e.asn .index (pieces va 4) Placed.none s = (a, s1) → a.bad = none → a.hole = none → a.stall = false →
          s1.ownWrites ag a.ps = false → s1.fetchAll ag e.asn true a.ps = (some (.ok bs), s2) → s2.slotCheck ret e.asn va.toNat 4 = (none, s3) →
          ∃ t, exec .gatherUnit s = .next t ∧ t.engOp false ret slot = some { e with index := some (BitVec.ofNat 32 (leNat bs)) } ∧
            t.m.mem = s.m.mem ∧ t.cores = s.cores) ∧
      (e.units ≤ e.unit → s.engDone copy ret slot e = true → e.cmd = none →
        ∃ t, exec i s = .next t ∧ t.engOp copy ret slot = none ∧ (s.m.banks = [] → t.m = s.m) ∧
          ∀ c, e.core = some c → e.op ∈ (s.ctlAt c.ix).cops →
            e.op ∉ (t.ctlAt c.ix).cops ∧ (t.ctlAt c.ix).r.evPend.getLsbD 0 = true ∧ ∀ b ∈ t.m.banks, b.core ≠ c.ix))

/-! ## The machine as a whole -/

/-- R302 to R304, R308, R312: words put together bit by bit from the encodings, of every class of instruction and of micro-ops, decode to what
they stand for, and a form that no encoding gives is refused. -/
def Obligations.DecodedWords : Prop :=
  decode 0x08000000 = some (.addi 0 0 0) ∧ decode 0x0DCE7FFF = some (.andi 14 14 0x7FFF) ∧ decode 0x206300BF = some (.srai 3 3 63) ∧
  decode 0x2E941908 = some (.fcvt 20 20 .f32 .i32 .rne) ∧ decode 0x42EE0401 = some (.ld 23 14 .plain .w 1) ∧
  decode 0x54826961 = some (.cas 4 2 (.sync 5) 5 true 1) ∧ decode 0xA4003015 = some (.cmask 3 true 5) ∧
  decode 0xC8000000 = some .rte ∧ decode 0xD2C00041 = some (.mts 22 0x041) ∧ decode 0xD4200003 = some (.wfe 1 3) ∧
  decodeMicro 0x06001005 = some (.vmax (.v 0) (.v 0) (.v 1) false false .tile) ∧
  decodeMicro 0x44800010 = some (.vred (.o 0) (.v 0) .fmax false (.rm .rne)) ∧ decode 0x50C204C0 = none

/-- The encoder and the decoder agree: the word of every well-formed instruction has 32 bits, and the decoder of its kind reads the instruction
back from it with every operand (R302 to R304, R308, R312). -/
def Obligations.EncodingRoundTrip : Prop := ∀ i, Sys2Proof.Laws.EncodingRoundTrip.Statement i

/-- Every word has one meaning: a word that decodes is the word of what it decodes to, so no bit of it is dropped. -/
def Obligations.DecodeThenEncode : Prop :=
  ∀ (w : Nat) (i : Instr), w < 2 ^ 32 →
    (decode w = some i → i.wf = true ∧ i.isMicro = false ∧ encode i = some w) ∧
    (decodeMicro w = some i → i.wf = true ∧ i.isMicro = true ∧ encode i = some w)

/-- What one step does (R84, R88, R238, R302, R317, R363): the turn first on the agenda, or the free schedule's where none is, is taken. A control
core takes the trap of a late fault first; that an error of its lost write-back becomes one is the model's choice (assumption 91, DESIGN CHOICE). One
that issues fetches the word at its pc and executes what it decodes to, traps ILLEGAL where nothing does and BOUNDS where the pc leaves code
memory; a node in a firing executes its next micro-op; an event of the package has its effect; without a supply only its return does anything.
The first turn of a resumed core issues a withdrawn .fe load again (R133; assumption 15, DEDUCED). Around that, the align timers count the cycles that
have passed (R251), and a tile stops that an error has struck (R270). -/
def Obligations.StepRunsDecodedInstruction : Prop :=
  ∀ (s : State) (rest : List Turn),
    (s.agenda = [] →
      let u := { s with draws := s.draws + 1 }
      step s = u.counted (runTurn (Config.schedule s.draws) u)) ∧
    (s.boot.supply = true →
      (∀ c, s.agenda = .core c :: rest →
        let u := { s with agenda := rest, cur := c }
        (u.ctl.late = none → u.lostAt u.me = none → u.issues = true → u.ctl.withdrawn = [] →
          (∀ i, u.pc.toNat < 0x10000 → decode u.fetchWord = some i → step s = u.counted (exec i u)) ∧
          (u.pc.toNat < 0x10000 → decode u.fetchWord = none → ∃ t, step s = u.counted (.next t) ∧ u.faulted t cIllegal 0) ∧
          (0x10000 ≤ u.pc.toNat → ∃ t, step s = u.counted (.next t) ∧ u.faulted t cBounds u.pc)) ∧
        (u.ctl.late = none → u.lostAt u.me = none → u.issues = true → u.ctl.withdrawn ≠ [] → step s = u.counted (.next (u.reissue u.me))) ∧
        (u.ctl.late = none → u.lostAt u.me = none → u.issues = false → step s = u.counted (.next u)) ∧
        (∀ va, u.ctl.late = none → u.lostAt u.me = some va → step s = u.counted (.next (u.takeLost u.me va))) ∧
        (∀ cause va t, u.ctl.late = some (cause, va) → u.ctl.run = .running →
          (u.setCtl { u.ctl with late := none }).interrupt u.me cause.toNat va u.ctl.lateOp = some t → step s = u.counted (.next t))) ∧
      (∀ n, s.agenda = .node n :: rest →
        let u := { s with agenda := rest, curNode := n }
        (u.microAt n = none → step s = u.counted (.next u)) ∧
        (∀ w i, u.microAt n = some w → decodeMicro w = some i → step s = u.counted (exec i u))) ∧
      (∀ i x, s.agenda = .event i x :: rest → encode i = none →
        let u := { s with agenda := rest, input := x }
        step s = u.counted (exec i u))) ∧
    (∀ t, s.counted (.next t) = .next (s.countTimers t).stopStruck ∧
      (t.time.cycle = s.time.cycle → t.m.struck = [] → s.counted (.next t) = .next t)) ∧
    (s.boot.supply = false →
      (∀ c, s.agenda = .core c :: rest → let u := { s with agenda := rest }; step s = u.counted (.next u)) ∧
      (∀ n, s.agenda = .node n :: rest → let u := { s with agenda := rest }; step s = u.counted (.next u)) ∧
      (∀ x, s.agenda = .event .coldReset x :: rest →
        let u := { s with agenda := rest, input := x }
        step s = u.counted (exec .coldReset u)))

/-- What cold reset leaves. From the spec: stacks and vaults read as zeros (R88), no core runs, the mode is the core's place (R241), no port of the
plane is armed, SILL reads 0 (R140), the pool's parameters (R119), time at its nominal rate (R64), the boot stage at 0 with no fault (R94). The
model's choice: the pc, the trap registers and the general registers at zero (assumption 1, DESIGN CHOICE), and zero bytes at every other key of the
one memory, host memory too (assumption 80, DESIGN CHOICE). -/
def Obligations.ResetState : Prop :=
  let s := State.reset
  s.MemOk ∧ s.ModeOk ∧ (∀ a, s.byte a = 0) ∧
  (∀ k, (s.ctlAt k).run = .off ∧ (s.ctlAt k).wait = .none ∧ (s.ctlAt k).late = none ∧ (s.ctlAt k).r.pc = 0 ∧ (s.ctlAt k).r.inTrap = false ∧
    (s.ctlAt k).r.trapCause = 0 ∧ (s.ctlAt k).r.evPend = 0 ∧ (∀ d, (s.ctlAt k).r.get d = 0)) ∧
  s.issues = false ∧ s.boot.supply = true ∧ s.boot.stage = 0 ∧ s.boot.code = 0 ∧ s.time.rate = 0x800000000000 ∧ s.time.lock = false ∧
  s.time.cycle = 0 ∧ (∀ key, tabGet 0 s.swap.sill key = 0) ∧ s.sched.resvAge = 2000 ∧ s.sched.ageStep = 50000 ∧ s.sched.preemptAge = 1000 ∧ s.sched.paused = false ∧
  s.plane.ports = [] ∧ s.plane.queued = [] ∧ s.net.accesses = [] ∧ s.net.packets = [] ∧ s.host.queues = [] ∧ s.host.records = []

/-- An invariant of every step: memory keeps its one canonical form, addresses strictly rising and no byte listed that an unlisted address
reads as, so that equal memories are equal data. -/
def Obligations.MemoryStaysCanonical : Prop := ∀ s t, s.MemOk → step s = .next t → t.MemOk

/-- R241: the mode is fixed by a core's place; no instruction of a control core and no micro-op changes the mode of any core. -/
def Obligations.ModeStays : Prop := ∀ i s t, encode i ≠ none → s.ModeOk → exec i s = .next t → t.ModeOk
end

