-- ==== Sys2Proof/Laws/Tab.lean ====
section
/-! SUPPORT. Laws of tables and of the byte memory built on them: what a read after a write gives, and that every memory operation keeps
the canonical form. -/

set_option Elab.async false

namespace Sys2Proof.Machine

section
variable {α : Type}

theorem tabFind_tabPut_same (t : Tab α) (k : Nat) (a : α) : tabFind (tabPut t k a) k = some a := by
  induction t with
  | nil => simp [tabPut, tabFind]
  | cons p t ih =>
    obtain ⟨j, b⟩ := p
    by_cases h1 : k < j
    · simp [tabPut, h1, tabFind]
    · by_cases h2 : j = k
      · simp [tabPut, h2, tabFind]
      · simp [tabPut, h1, h2, tabFind, ih]

theorem tabFind_tabPut_other (t : Tab α) {k j : Nat} (a : α) (h : j ≠ k) : tabFind (tabPut t k a) j = tabFind t j := by
  induction t with
  | nil => simp [tabPut, tabFind, h.symm]
  | cons p t ih =>
    obtain ⟨i, b⟩ := p
    by_cases h1 : k < i
    · simp [tabPut, h1, tabFind, h.symm]
    · by_cases h2 : i = k
      · subst h2; simp [tabPut, tabFind, h.symm]
      · by_cases h3 : i = j
        · subst h3; simp [tabPut, h1, h2, tabFind]
        · simp [tabPut, h1, h2, tabFind, h3, ih]

theorem tabFind_tabDel_same (t : Tab α) (k : Nat) : tabFind (tabDel t k) k = none := by
  induction t with
  | nil => rfl
  | cons p t ih =>
    obtain ⟨j, b⟩ := p
    by_cases h : j = k <;> simp [tabDel, h, tabFind, ih]

theorem tabFind_tabDel_other (t : Tab α) {k j : Nat} (h : j ≠ k) : tabFind (tabDel t k) j = tabFind t j := by
  induction t with
  | nil => rfl
  | cons p t ih =>
    obtain ⟨i, b⟩ := p
    by_cases h1 : i = k
    · subst h1; simp [tabDel, tabFind, h.symm, ih]
    · by_cases h2 : i = j
      · subst h2; simp [tabDel, h1, tabFind]
      · simp [tabDel, h1, tabFind, h2, ih]

@[simp] theorem tabGet_tabPut_same (d : α) (t : Tab α) (k : Nat) (a : α) : tabGet d (tabPut t k a) k = a := by
  simp [tabGet, tabFind_tabPut_same]

theorem tabGet_tabPut_other (d : α) (t : Tab α) {k j : Nat} (a : α) (h : j ≠ k) : tabGet d (tabPut t k a) j = tabGet d t j := by
  simp [tabGet, tabFind_tabPut_other t a h]

theorem tabGet_tabPut (d : α) (t : Tab α) (k j : Nat) (a : α) :
    tabGet d (tabPut t k a) j = if j = k then a else tabGet d t j := by
  by_cases h : j = k
  · subst h; simp
  · simp [h, tabGet_tabPut_other d t a h]

theorem tabPut_tabPut (t : Tab α) (k : Nat) (a b : α) : tabPut (tabPut t k a) k b = tabPut t k b := by
  induction t with
  | nil => simp [tabPut]
  | cons p t ih =>
    obtain ⟨j, c⟩ := p
    by_cases h1 : k < j
    · simp [tabPut, h1]
    · by_cases h2 : j = k
      · subst h2; simp [tabPut]
      · simp [tabPut, h1, h2, ih]

theorem tabSorted_cons_iff (p : Nat × α) (t : Tab α) :
    tabSorted (p :: t) = true ↔ (∀ q ∈ t, p.1 < q.1) ∧ tabSorted t = true := by
  induction t generalizing p with
  | nil => simp [tabSorted]
  | cons q t ih =>
    obtain ⟨j, a⟩ := p
    obtain ⟨k, b⟩ := q
    simp only [tabSorted, Bool.and_eq_true, decide_eq_true_eq, ih (k, b), List.forall_mem_cons]
    constructor
    · rintro ⟨h1, h2, h3⟩
      exact ⟨⟨h1, fun q hq => Nat.lt_trans h1 (h2 q hq)⟩, h2, h3⟩
    · rintro ⟨⟨h1, _⟩, h2, h3⟩
      exact ⟨h1, h2, h3⟩

theorem mem_tabPut {t : Tab α} {k : Nat} {a : α} {q : Nat × α} (h : q ∈ tabPut t k a) : q = (k, a) ∨ q ∈ t := by
  induction t with
  | nil => simp [tabPut] at h; exact Or.inl h
  | cons p t ih =>
    obtain ⟨j, b⟩ := p
    simp only [tabPut] at h
    split at h
    · exact List.mem_cons.1 h
    · split at h
      · rcases List.mem_cons.1 h with h | h
        · exact Or.inl h
        · exact Or.inr (List.mem_cons_of_mem _ h)
      · simp only [List.mem_cons] at h ⊢
        rcases h with h | h
        · exact Or.inr (Or.inl h)
        · rcases ih h with h | h
          · exact Or.inl h
          · exact Or.inr (Or.inr h)

theorem tabSorted_tabPut {t : Tab α} (k : Nat) (a : α) (h : tabSorted t = true) : tabSorted (tabPut t k a) = true := by
  induction t with
  | nil => rfl
  | cons p t ih =>
    obtain ⟨j, b⟩ := p
    have hc := (tabSorted_cons_iff (j, b) t).1 h
    simp only [tabPut]
    split
    · next h1 =>
      refine (tabSorted_cons_iff _ _).2 ⟨?_, h⟩
      intro q hq
      rcases List.mem_cons.1 hq with rfl | hq
      · exact h1
      · exact Nat.lt_trans h1 (hc.1 q hq)
    · split
      · next h2 => subst h2; exact (tabSorted_cons_iff _ _).2 ⟨hc.1, hc.2⟩
      · next h1 h2 =>
        refine (tabSorted_cons_iff _ _).2 ⟨?_, ih hc.2⟩
        intro q hq
        rcases mem_tabPut hq with rfl | hq
        · exact Nat.lt_of_le_of_ne (Nat.le_of_not_lt h1) h2
        · exact hc.1 q hq

theorem tabDel_eq_filter (t : Tab α) (k : Nat) : tabDel t k = t.filter (fun p => decide (p.1 ≠ k)) := by
  induction t with
  | nil => rfl
  | cons p t ih =>
    obtain ⟨j, b⟩ := p
    by_cases h : j = k <;> simp [tabDel, h, ih]

theorem tabSorted_filter {t : Tab α} (f : Nat × α → Bool) (h : tabSorted t = true) : tabSorted (t.filter f) = true := by
  induction t with
  | nil => rfl
  | cons p t ih =>
    have hc := (tabSorted_cons_iff p t).1 h
    by_cases hp : f p = true
    · rw [List.filter_cons_of_pos hp]
      exact (tabSorted_cons_iff _ _).2 ⟨fun q hq => hc.1 q (List.mem_filter.1 hq).1, ih hc.2⟩
    · rw [List.filter_cons_of_neg hp]
      exact ih hc.2

end

/-! ## Memory -/

theorem memWf_nil : Memory.wf [] = true := rfl

theorem memGet_memPut_same (m : Memory) (a : Nat) (b : Byte) : memGet (memPut m a b) a = b := by
  unfold memGet memPut
  split
  · next h => subst h; simp [tabGet, tabFind_tabDel_same, memDefault]
  · simp

theorem memGet_memPut_other (m : Memory) {a x : Nat} (b : Byte) (h : x ≠ a) : memGet (memPut m a b) x = memGet m x := by
  unfold memGet memPut
  split
  · simp [tabGet, tabFind_tabDel_other m h]
  · exact tabGet_tabPut_other _ _ _ h

theorem memWf_filter {m : Memory} (f : Host.Cell → Bool) (h : Memory.wf m = true) : Memory.wf (m.filter f) = true := by
  simp only [Memory.wf, Bool.and_eq_true, List.all_eq_true] at *
  exact ⟨tabSorted_filter f h.1, fun c hc => h.2 c (List.mem_filter.1 hc).1⟩

theorem memWf_memPut {m : Memory} (a : Nat) (b : Byte) (h : Memory.wf m = true) : Memory.wf (memPut m a b) = true := by
  unfold memPut
  split
  · rw [tabDel_eq_filter]; exact memWf_filter _ h
  · next hb =>
    simp only [Memory.wf, Bool.and_eq_true, List.all_eq_true] at *
    refine ⟨tabSorted_tabPut a b h.1, fun c hc => ?_⟩
    rcases mem_tabPut hc with rfl | hc
    · simpa using hb
    · exact h.2 c hc

theorem memWf_memStore {m : Memory} (a : Nat) (bs : List Byte) (h : Memory.wf m = true) : Memory.wf (memStore m a bs) = true := by
  induction bs generalizing m a with
  | nil => exact h
  | cons b bs ih => exact ih (a + 1) (memWf_memPut a b h)

theorem memWf_foldl {β : Type} (l : List β) (f : Memory → β → Memory) (hf : ∀ m x, Memory.wf m = true → Memory.wf (f m x) = true) {m : Memory}
    (h : Memory.wf m = true) : Memory.wf (l.foldl f m) = true := by
  induction l generalizing m with
  | nil => exact h
  | cons x l ih => exact ih (hf m x h)

theorem memGet_memStore_other (m : Memory) (a : Nat) (bs : List Byte) {x : Nat} (h : x < a ∨ a + bs.length ≤ x) :
    memGet (memStore m a bs) x = memGet m x := by
  induction bs generalizing m a with
  | nil => rfl
  | cons b bs ih =>
    simp only [List.length_cons] at h
    rw [memStore, ih _ _ (by omega), memGet_memPut_other _ _ (by omega)]

theorem memBytes_congr {m m' : Memory} {a n : Nat} (h : ∀ x, a ≤ x → x < a + n → memGet m x = memGet m' x) :
    memBytes m a n = memBytes m' a n := by
  induction n generalizing a with
  | zero => rfl
  | succ n ih =>
    simp only [memBytes]
    rw [h a (Nat.le_refl a) (by omega), ih (fun x h1 h2 => h x (by omega) (by omega))]

theorem memBytes_memStore_same (m : Memory) (a : Nat) (bs : List Byte) : memBytes (memStore m a bs) a bs.length = bs := by
  induction bs generalizing m a with
  | nil => rfl
  | cons b bs ih =>
    simp only [List.length_cons, memBytes, memStore]
    rw [ih, memGet_memStore_other _ _ _ (by omega), memGet_memPut_same]

end Sys2Proof.Machine
end

