-- ==== Sys2Proof/Laws/State.lean ====
section
/-! SUPPORT. The state's updates: what each leaves alone, field by field, and what a read after a write of a core, register, port or site
gives. -/

set_option Elab.async false

namespace Sys2Proof.Machine

/-! ### State.setCore -/

@[simp] theorem State.setCore_agenda (s : State) (k : Nat) (c : CoreSt) : (s.setCore k c).agenda = s.agenda := rfl
@[simp] theorem State.setCore_cur (s : State) (k : Nat) (c : CoreSt) : (s.setCore k c).cur = s.cur := rfl
@[simp] theorem State.setCore_curNode (s : State) (k : Nat) (c : CoreSt) : (s.setCore k c).curNode = s.curNode := rfl
@[simp] theorem State.setCore_input (s : State) (k : Nat) (c : CoreSt) : (s.setCore k c).input = s.input := rfl
@[simp] theorem State.setCore_draws (s : State) (k : Nat) (c : CoreSt) : (s.setCore k c).draws = s.draws := rfl
@[simp] theorem State.setCore_m (s : State) (k : Nat) (c : CoreSt) : (s.setCore k c).m = s.m := rfl
@[simp] theorem State.setCore_plane (s : State) (k : Nat) (c : CoreSt) : (s.setCore k c).plane = s.plane := rfl
@[simp] theorem State.setCore_boot (s : State) (k : Nat) (c : CoreSt) : (s.setCore k c).boot = s.boot := rfl
@[simp] theorem State.setCore_mon (s : State) (k : Nat) (c : CoreSt) : (s.setCore k c).mon = s.mon := rfl
@[simp] theorem State.setCore_time (s : State) (k : Nat) (c : CoreSt) : (s.setCore k c).time = s.time := rfl
@[simp] theorem State.setCore_host (s : State) (k : Nat) (c : CoreSt) : (s.setCore k c).host = s.host := rfl
@[simp] theorem State.setCore_sched (s : State) (k : Nat) (c : CoreSt) : (s.setCore k c).sched = s.sched := rfl
@[simp] theorem State.setCore_swap (s : State) (k : Nat) (c : CoreSt) : (s.setCore k c).swap = s.swap := rfl
@[simp] theorem State.setCore_ckpt (s : State) (k : Nat) (c : CoreSt) : (s.setCore k c).ckpt = s.ckpt := rfl
@[simp] theorem State.setCore_x (s : State) (k : Nat) (c : CoreSt) : (s.setCore k c).x = s.x := rfl
@[simp] theorem State.setCore_net (s : State) (k : Nat) (c : CoreSt) : (s.setCore k c).net = s.net := rfl
@[simp] theorem State.setCore_links (s : State) (k : Nat) (c : CoreSt) : (s.setCore k c).links = s.links := rfl

/-! ### State.setCtlAt -/

@[simp] theorem State.setCtlAt_agenda (s : State) (k : Nat) (c : Ctl) : (s.setCtlAt k c).agenda = s.agenda := rfl
@[simp] theorem State.setCtlAt_cur (s : State) (k : Nat) (c : Ctl) : (s.setCtlAt k c).cur = s.cur := rfl
@[simp] theorem State.setCtlAt_curNode (s : State) (k : Nat) (c : Ctl) : (s.setCtlAt k c).curNode = s.curNode := rfl
@[simp] theorem State.setCtlAt_input (s : State) (k : Nat) (c : Ctl) : (s.setCtlAt k c).input = s.input := rfl
@[simp] theorem State.setCtlAt_draws (s : State) (k : Nat) (c : Ctl) : (s.setCtlAt k c).draws = s.draws := rfl
@[simp] theorem State.setCtlAt_m (s : State) (k : Nat) (c : Ctl) : (s.setCtlAt k c).m = s.m := rfl
@[simp] theorem State.setCtlAt_plane (s : State) (k : Nat) (c : Ctl) : (s.setCtlAt k c).plane = s.plane := rfl
@[simp] theorem State.setCtlAt_boot (s : State) (k : Nat) (c : Ctl) : (s.setCtlAt k c).boot = s.boot := rfl
@[simp] theorem State.setCtlAt_mon (s : State) (k : Nat) (c : Ctl) : (s.setCtlAt k c).mon = s.mon := rfl
@[simp] theorem State.setCtlAt_time (s : State) (k : Nat) (c : Ctl) : (s.setCtlAt k c).time = s.time := rfl
@[simp] theorem State.setCtlAt_host (s : State) (k : Nat) (c : Ctl) : (s.setCtlAt k c).host = s.host := rfl
@[simp] theorem State.setCtlAt_sched (s : State) (k : Nat) (c : Ctl) : (s.setCtlAt k c).sched = s.sched := rfl
@[simp] theorem State.setCtlAt_swap (s : State) (k : Nat) (c : Ctl) : (s.setCtlAt k c).swap = s.swap := rfl
@[simp] theorem State.setCtlAt_ckpt (s : State) (k : Nat) (c : Ctl) : (s.setCtlAt k c).ckpt = s.ckpt := rfl
@[simp] theorem State.setCtlAt_x (s : State) (k : Nat) (c : Ctl) : (s.setCtlAt k c).x = s.x := rfl
@[simp] theorem State.setCtlAt_net (s : State) (k : Nat) (c : Ctl) : (s.setCtlAt k c).net = s.net := rfl
@[simp] theorem State.setCtlAt_links (s : State) (k : Nat) (c : Ctl) : (s.setCtlAt k c).links = s.links := rfl

/-! ### State.setCtl -/

@[simp] theorem State.setCtl_agenda (s : State) (c : Ctl) : (s.setCtl c).agenda = s.agenda := rfl
@[simp] theorem State.setCtl_cur (s : State) (c : Ctl) : (s.setCtl c).cur = s.cur := rfl
@[simp] theorem State.setCtl_curNode (s : State) (c : Ctl) : (s.setCtl c).curNode = s.curNode := rfl
@[simp] theorem State.setCtl_input (s : State) (c : Ctl) : (s.setCtl c).input = s.input := rfl
@[simp] theorem State.setCtl_draws (s : State) (c : Ctl) : (s.setCtl c).draws = s.draws := rfl
@[simp] theorem State.setCtl_m (s : State) (c : Ctl) : (s.setCtl c).m = s.m := rfl
@[simp] theorem State.setCtl_plane (s : State) (c : Ctl) : (s.setCtl c).plane = s.plane := rfl
@[simp] theorem State.setCtl_boot (s : State) (c : Ctl) : (s.setCtl c).boot = s.boot := rfl
@[simp] theorem State.setCtl_mon (s : State) (c : Ctl) : (s.setCtl c).mon = s.mon := rfl
@[simp] theorem State.setCtl_time (s : State) (c : Ctl) : (s.setCtl c).time = s.time := rfl
@[simp] theorem State.setCtl_host (s : State) (c : Ctl) : (s.setCtl c).host = s.host := rfl
@[simp] theorem State.setCtl_sched (s : State) (c : Ctl) : (s.setCtl c).sched = s.sched := rfl
@[simp] theorem State.setCtl_swap (s : State) (c : Ctl) : (s.setCtl c).swap = s.swap := rfl
@[simp] theorem State.setCtl_ckpt (s : State) (c : Ctl) : (s.setCtl c).ckpt = s.ckpt := rfl
@[simp] theorem State.setCtl_x (s : State) (c : Ctl) : (s.setCtl c).x = s.x := rfl
@[simp] theorem State.setCtl_net (s : State) (c : Ctl) : (s.setCtl c).net = s.net := rfl
@[simp] theorem State.setCtl_links (s : State) (c : Ctl) : (s.setCtl c).links = s.links := rfl

/-! ### State.setCr -/

@[simp] theorem State.setCr_agenda (s : State) (r : CtlRegs) : (s.setCr r).agenda = s.agenda := rfl
@[simp] theorem State.setCr_cur (s : State) (r : CtlRegs) : (s.setCr r).cur = s.cur := rfl
@[simp] theorem State.setCr_curNode (s : State) (r : CtlRegs) : (s.setCr r).curNode = s.curNode := rfl
@[simp] theorem State.setCr_input (s : State) (r : CtlRegs) : (s.setCr r).input = s.input := rfl
@[simp] theorem State.setCr_draws (s : State) (r : CtlRegs) : (s.setCr r).draws = s.draws := rfl
@[simp] theorem State.setCr_m (s : State) (r : CtlRegs) : (s.setCr r).m = s.m := rfl
@[simp] theorem State.setCr_plane (s : State) (r : CtlRegs) : (s.setCr r).plane = s.plane := rfl
@[simp] theorem State.setCr_boot (s : State) (r : CtlRegs) : (s.setCr r).boot = s.boot := rfl
@[simp] theorem State.setCr_mon (s : State) (r : CtlRegs) : (s.setCr r).mon = s.mon := rfl
@[simp] theorem State.setCr_time (s : State) (r : CtlRegs) : (s.setCr r).time = s.time := rfl
@[simp] theorem State.setCr_host (s : State) (r : CtlRegs) : (s.setCr r).host = s.host := rfl
@[simp] theorem State.setCr_sched (s : State) (r : CtlRegs) : (s.setCr r).sched = s.sched := rfl
@[simp] theorem State.setCr_swap (s : State) (r : CtlRegs) : (s.setCr r).swap = s.swap := rfl
@[simp] theorem State.setCr_ckpt (s : State) (r : CtlRegs) : (s.setCr r).ckpt = s.ckpt := rfl
@[simp] theorem State.setCr_x (s : State) (r : CtlRegs) : (s.setCr r).x = s.x := rfl
@[simp] theorem State.setCr_net (s : State) (r : CtlRegs) : (s.setCr r).net = s.net := rfl
@[simp] theorem State.setCr_links (s : State) (r : CtlRegs) : (s.setCr r).links = s.links := rfl

/-! ### State.setReg -/

@[simp] theorem State.setReg_agenda (s : State) (n : Reg) (v : Word) : (s.setReg n v).agenda = s.agenda := rfl
@[simp] theorem State.setReg_cur (s : State) (n : Reg) (v : Word) : (s.setReg n v).cur = s.cur := rfl
@[simp] theorem State.setReg_curNode (s : State) (n : Reg) (v : Word) : (s.setReg n v).curNode = s.curNode := rfl
@[simp] theorem State.setReg_input (s : State) (n : Reg) (v : Word) : (s.setReg n v).input = s.input := rfl
@[simp] theorem State.setReg_draws (s : State) (n : Reg) (v : Word) : (s.setReg n v).draws = s.draws := rfl
@[simp] theorem State.setReg_m (s : State) (n : Reg) (v : Word) : (s.setReg n v).m = s.m := rfl
@[simp] theorem State.setReg_plane (s : State) (n : Reg) (v : Word) : (s.setReg n v).plane = s.plane := rfl
@[simp] theorem State.setReg_boot (s : State) (n : Reg) (v : Word) : (s.setReg n v).boot = s.boot := rfl
@[simp] theorem State.setReg_mon (s : State) (n : Reg) (v : Word) : (s.setReg n v).mon = s.mon := rfl
@[simp] theorem State.setReg_time (s : State) (n : Reg) (v : Word) : (s.setReg n v).time = s.time := rfl
@[simp] theorem State.setReg_host (s : State) (n : Reg) (v : Word) : (s.setReg n v).host = s.host := rfl
@[simp] theorem State.setReg_sched (s : State) (n : Reg) (v : Word) : (s.setReg n v).sched = s.sched := rfl
@[simp] theorem State.setReg_swap (s : State) (n : Reg) (v : Word) : (s.setReg n v).swap = s.swap := rfl
@[simp] theorem State.setReg_ckpt (s : State) (n : Reg) (v : Word) : (s.setReg n v).ckpt = s.ckpt := rfl
@[simp] theorem State.setReg_x (s : State) (n : Reg) (v : Word) : (s.setReg n v).x = s.x := rfl
@[simp] theorem State.setReg_net (s : State) (n : Reg) (v : Word) : (s.setReg n v).net = s.net := rfl
@[simp] theorem State.setReg_links (s : State) (n : Reg) (v : Word) : (s.setReg n v).links = s.links := rfl

/-! ### State.setPc -/

@[simp] theorem State.setPc_agenda (s : State) (p : Word) : (s.setPc p).agenda = s.agenda := rfl
@[simp] theorem State.setPc_cur (s : State) (p : Word) : (s.setPc p).cur = s.cur := rfl
@[simp] theorem State.setPc_curNode (s : State) (p : Word) : (s.setPc p).curNode = s.curNode := rfl
@[simp] theorem State.setPc_input (s : State) (p : Word) : (s.setPc p).input = s.input := rfl
@[simp] theorem State.setPc_draws (s : State) (p : Word) : (s.setPc p).draws = s.draws := rfl
@[simp] theorem State.setPc_m (s : State) (p : Word) : (s.setPc p).m = s.m := rfl
@[simp] theorem State.setPc_plane (s : State) (p : Word) : (s.setPc p).plane = s.plane := rfl
@[simp] theorem State.setPc_boot (s : State) (p : Word) : (s.setPc p).boot = s.boot := rfl
@[simp] theorem State.setPc_mon (s : State) (p : Word) : (s.setPc p).mon = s.mon := rfl
@[simp] theorem State.setPc_time (s : State) (p : Word) : (s.setPc p).time = s.time := rfl
@[simp] theorem State.setPc_host (s : State) (p : Word) : (s.setPc p).host = s.host := rfl
@[simp] theorem State.setPc_sched (s : State) (p : Word) : (s.setPc p).sched = s.sched := rfl
@[simp] theorem State.setPc_swap (s : State) (p : Word) : (s.setPc p).swap = s.swap := rfl
@[simp] theorem State.setPc_ckpt (s : State) (p : Word) : (s.setPc p).ckpt = s.ckpt := rfl
@[simp] theorem State.setPc_x (s : State) (p : Word) : (s.setPc p).x = s.x := rfl
@[simp] theorem State.setPc_net (s : State) (p : Word) : (s.setPc p).net = s.net := rfl
@[simp] theorem State.setPc_links (s : State) (p : Word) : (s.setPc p).links = s.links := rfl

/-! ### State.advancePc -/

@[simp] theorem State.advancePc_agenda (s : State) : (s.advancePc).agenda = s.agenda := rfl
@[simp] theorem State.advancePc_cur (s : State) : (s.advancePc).cur = s.cur := rfl
@[simp] theorem State.advancePc_curNode (s : State) : (s.advancePc).curNode = s.curNode := rfl
@[simp] theorem State.advancePc_input (s : State) : (s.advancePc).input = s.input := rfl
@[simp] theorem State.advancePc_draws (s : State) : (s.advancePc).draws = s.draws := rfl
@[simp] theorem State.advancePc_m (s : State) : (s.advancePc).m = s.m := rfl
@[simp] theorem State.advancePc_plane (s : State) : (s.advancePc).plane = s.plane := rfl
@[simp] theorem State.advancePc_boot (s : State) : (s.advancePc).boot = s.boot := rfl
@[simp] theorem State.advancePc_mon (s : State) : (s.advancePc).mon = s.mon := rfl
@[simp] theorem State.advancePc_time (s : State) : (s.advancePc).time = s.time := rfl
@[simp] theorem State.advancePc_host (s : State) : (s.advancePc).host = s.host := rfl
@[simp] theorem State.advancePc_sched (s : State) : (s.advancePc).sched = s.sched := rfl
@[simp] theorem State.advancePc_swap (s : State) : (s.advancePc).swap = s.swap := rfl
@[simp] theorem State.advancePc_ckpt (s : State) : (s.advancePc).ckpt = s.ckpt := rfl
@[simp] theorem State.advancePc_x (s : State) : (s.advancePc).x = s.x := rfl
@[simp] theorem State.advancePc_net (s : State) : (s.advancePc).net = s.net := rfl
@[simp] theorem State.advancePc_links (s : State) : (s.advancePc).links = s.links := rfl

/-! ### State.result -/

@[simp] theorem State.result_agenda (s : State) (d : Reg) (v : Word) : (s.result d v).agenda = s.agenda := rfl
@[simp] theorem State.result_cur (s : State) (d : Reg) (v : Word) : (s.result d v).cur = s.cur := rfl
@[simp] theorem State.result_curNode (s : State) (d : Reg) (v : Word) : (s.result d v).curNode = s.curNode := rfl
@[simp] theorem State.result_input (s : State) (d : Reg) (v : Word) : (s.result d v).input = s.input := rfl
@[simp] theorem State.result_draws (s : State) (d : Reg) (v : Word) : (s.result d v).draws = s.draws := rfl
@[simp] theorem State.result_m (s : State) (d : Reg) (v : Word) : (s.result d v).m = s.m := rfl
@[simp] theorem State.result_plane (s : State) (d : Reg) (v : Word) : (s.result d v).plane = s.plane := rfl
@[simp] theorem State.result_boot (s : State) (d : Reg) (v : Word) : (s.result d v).boot = s.boot := rfl
@[simp] theorem State.result_mon (s : State) (d : Reg) (v : Word) : (s.result d v).mon = s.mon := rfl
@[simp] theorem State.result_time (s : State) (d : Reg) (v : Word) : (s.result d v).time = s.time := rfl
@[simp] theorem State.result_host (s : State) (d : Reg) (v : Word) : (s.result d v).host = s.host := rfl
@[simp] theorem State.result_sched (s : State) (d : Reg) (v : Word) : (s.result d v).sched = s.sched := rfl
@[simp] theorem State.result_swap (s : State) (d : Reg) (v : Word) : (s.result d v).swap = s.swap := rfl
@[simp] theorem State.result_ckpt (s : State) (d : Reg) (v : Word) : (s.result d v).ckpt = s.ckpt := rfl
@[simp] theorem State.result_x (s : State) (d : Reg) (v : Word) : (s.result d v).x = s.x := rfl
@[simp] theorem State.result_net (s : State) (d : Reg) (v : Word) : (s.result d v).net = s.net := rfl
@[simp] theorem State.result_links (s : State) (d : Reg) (v : Word) : (s.result d v).links = s.links := rfl

/-! ### State.event -/

@[simp] theorem State.event_agenda (s : State) (k bit : Nat) : (s.event k bit).agenda = s.agenda := rfl
@[simp] theorem State.event_cur (s : State) (k bit : Nat) : (s.event k bit).cur = s.cur := rfl
@[simp] theorem State.event_curNode (s : State) (k bit : Nat) : (s.event k bit).curNode = s.curNode := rfl
@[simp] theorem State.event_input (s : State) (k bit : Nat) : (s.event k bit).input = s.input := rfl
@[simp] theorem State.event_draws (s : State) (k bit : Nat) : (s.event k bit).draws = s.draws := rfl
@[simp] theorem State.event_m (s : State) (k bit : Nat) : (s.event k bit).m = s.m := rfl
@[simp] theorem State.event_plane (s : State) (k bit : Nat) : (s.event k bit).plane = s.plane := rfl
@[simp] theorem State.event_boot (s : State) (k bit : Nat) : (s.event k bit).boot = s.boot := rfl
@[simp] theorem State.event_mon (s : State) (k bit : Nat) : (s.event k bit).mon = s.mon := rfl
@[simp] theorem State.event_time (s : State) (k bit : Nat) : (s.event k bit).time = s.time := rfl
@[simp] theorem State.event_host (s : State) (k bit : Nat) : (s.event k bit).host = s.host := rfl
@[simp] theorem State.event_sched (s : State) (k bit : Nat) : (s.event k bit).sched = s.sched := rfl
@[simp] theorem State.event_swap (s : State) (k bit : Nat) : (s.event k bit).swap = s.swap := rfl
@[simp] theorem State.event_ckpt (s : State) (k bit : Nat) : (s.event k bit).ckpt = s.ckpt := rfl
@[simp] theorem State.event_x (s : State) (k bit : Nat) : (s.event k bit).x = s.x := rfl
@[simp] theorem State.event_net (s : State) (k bit : Nat) : (s.event k bit).net = s.net := rfl
@[simp] theorem State.event_links (s : State) (k bit : Nat) : (s.event k bit).links = s.links := rfl

/-! ### State.setPort -/

@[simp] theorem State.setPort_agenda (s : State) (k n : Nat) (p : Port) : (s.setPort k n p).agenda = s.agenda := rfl
@[simp] theorem State.setPort_cur (s : State) (k n : Nat) (p : Port) : (s.setPort k n p).cur = s.cur := rfl
@[simp] theorem State.setPort_curNode (s : State) (k n : Nat) (p : Port) : (s.setPort k n p).curNode = s.curNode := rfl
@[simp] theorem State.setPort_input (s : State) (k n : Nat) (p : Port) : (s.setPort k n p).input = s.input := rfl
@[simp] theorem State.setPort_draws (s : State) (k n : Nat) (p : Port) : (s.setPort k n p).draws = s.draws := rfl
@[simp] theorem State.setPort_m (s : State) (k n : Nat) (p : Port) : (s.setPort k n p).m = s.m := rfl
@[simp] theorem State.setPort_plane (s : State) (k n : Nat) (p : Port) : (s.setPort k n p).plane = s.plane := rfl
@[simp] theorem State.setPort_boot (s : State) (k n : Nat) (p : Port) : (s.setPort k n p).boot = s.boot := rfl
@[simp] theorem State.setPort_mon (s : State) (k n : Nat) (p : Port) : (s.setPort k n p).mon = s.mon := rfl
@[simp] theorem State.setPort_time (s : State) (k n : Nat) (p : Port) : (s.setPort k n p).time = s.time := rfl
@[simp] theorem State.setPort_host (s : State) (k n : Nat) (p : Port) : (s.setPort k n p).host = s.host := rfl
@[simp] theorem State.setPort_sched (s : State) (k n : Nat) (p : Port) : (s.setPort k n p).sched = s.sched := rfl
@[simp] theorem State.setPort_swap (s : State) (k n : Nat) (p : Port) : (s.setPort k n p).swap = s.swap := rfl
@[simp] theorem State.setPort_ckpt (s : State) (k n : Nat) (p : Port) : (s.setPort k n p).ckpt = s.ckpt := rfl
@[simp] theorem State.setPort_x (s : State) (k n : Nat) (p : Port) : (s.setPort k n p).x = s.x := rfl
@[simp] theorem State.setPort_net (s : State) (k n : Nat) (p : Port) : (s.setPort k n p).net = s.net := rfl
@[simp] theorem State.setPort_links (s : State) (k n : Nat) (p : Port) : (s.setPort k n p).links = s.links := rfl

/-! ### State.setSite -/

@[simp] theorem State.setSite_agenda (s : State) (k i : Nat) (p : Site) : (s.setSite k i p).agenda = s.agenda := rfl
@[simp] theorem State.setSite_cur (s : State) (k i : Nat) (p : Site) : (s.setSite k i p).cur = s.cur := rfl
@[simp] theorem State.setSite_curNode (s : State) (k i : Nat) (p : Site) : (s.setSite k i p).curNode = s.curNode := rfl
@[simp] theorem State.setSite_input (s : State) (k i : Nat) (p : Site) : (s.setSite k i p).input = s.input := rfl
@[simp] theorem State.setSite_draws (s : State) (k i : Nat) (p : Site) : (s.setSite k i p).draws = s.draws := rfl
@[simp] theorem State.setSite_m (s : State) (k i : Nat) (p : Site) : (s.setSite k i p).m = s.m := rfl
@[simp] theorem State.setSite_plane (s : State) (k i : Nat) (p : Site) : (s.setSite k i p).plane = s.plane := rfl
@[simp] theorem State.setSite_boot (s : State) (k i : Nat) (p : Site) : (s.setSite k i p).boot = s.boot := rfl
@[simp] theorem State.setSite_mon (s : State) (k i : Nat) (p : Site) : (s.setSite k i p).mon = s.mon := rfl
@[simp] theorem State.setSite_time (s : State) (k i : Nat) (p : Site) : (s.setSite k i p).time = s.time := rfl
@[simp] theorem State.setSite_host (s : State) (k i : Nat) (p : Site) : (s.setSite k i p).host = s.host := rfl
@[simp] theorem State.setSite_sched (s : State) (k i : Nat) (p : Site) : (s.setSite k i p).sched = s.sched := rfl
@[simp] theorem State.setSite_swap (s : State) (k i : Nat) (p : Site) : (s.setSite k i p).swap = s.swap := rfl
@[simp] theorem State.setSite_ckpt (s : State) (k i : Nat) (p : Site) : (s.setSite k i p).ckpt = s.ckpt := rfl
@[simp] theorem State.setSite_x (s : State) (k i : Nat) (p : Site) : (s.setSite k i p).x = s.x := rfl
@[simp] theorem State.setSite_net (s : State) (k i : Nat) (p : Site) : (s.setSite k i p).net = s.net := rfl
@[simp] theorem State.setSite_links (s : State) (k i : Nat) (p : Site) : (s.setSite k i p).links = s.links := rfl

/-! ### State.setChan -/

@[simp] theorem State.setChan_agenda (s : State) (k i sink : Nat) (t : List Queued) : (s.setChan k i sink t).agenda = s.agenda := rfl
@[simp] theorem State.setChan_cur (s : State) (k i sink : Nat) (t : List Queued) : (s.setChan k i sink t).cur = s.cur := rfl
@[simp] theorem State.setChan_curNode (s : State) (k i sink : Nat) (t : List Queued) : (s.setChan k i sink t).curNode = s.curNode := rfl
@[simp] theorem State.setChan_input (s : State) (k i sink : Nat) (t : List Queued) : (s.setChan k i sink t).input = s.input := rfl
@[simp] theorem State.setChan_draws (s : State) (k i sink : Nat) (t : List Queued) : (s.setChan k i sink t).draws = s.draws := rfl
@[simp] theorem State.setChan_m (s : State) (k i sink : Nat) (t : List Queued) : (s.setChan k i sink t).m = s.m := rfl
@[simp] theorem State.setChan_plane (s : State) (k i sink : Nat) (t : List Queued) : (s.setChan k i sink t).plane = s.plane := rfl
@[simp] theorem State.setChan_boot (s : State) (k i sink : Nat) (t : List Queued) : (s.setChan k i sink t).boot = s.boot := rfl
@[simp] theorem State.setChan_mon (s : State) (k i sink : Nat) (t : List Queued) : (s.setChan k i sink t).mon = s.mon := rfl
@[simp] theorem State.setChan_time (s : State) (k i sink : Nat) (t : List Queued) : (s.setChan k i sink t).time = s.time := rfl
@[simp] theorem State.setChan_host (s : State) (k i sink : Nat) (t : List Queued) : (s.setChan k i sink t).host = s.host := rfl
@[simp] theorem State.setChan_sched (s : State) (k i sink : Nat) (t : List Queued) : (s.setChan k i sink t).sched = s.sched := rfl
@[simp] theorem State.setChan_swap (s : State) (k i sink : Nat) (t : List Queued) : (s.setChan k i sink t).swap = s.swap := rfl
@[simp] theorem State.setChan_ckpt (s : State) (k i sink : Nat) (t : List Queued) : (s.setChan k i sink t).ckpt = s.ckpt := rfl
@[simp] theorem State.setChan_x (s : State) (k i sink : Nat) (t : List Queued) : (s.setChan k i sink t).x = s.x := rfl
@[simp] theorem State.setChan_net (s : State) (k i sink : Nat) (t : List Queued) : (s.setChan k i sink t).net = s.net := rfl
@[simp] theorem State.setChan_links (s : State) (k i sink : Nat) (t : List Queued) : (s.setChan k i sink t).links = s.links := rfl

/-! ### State.returnTrap -/

@[simp] theorem State.returnTrap_agenda (s : State) : (s.returnTrap).agenda = s.agenda := rfl
@[simp] theorem State.returnTrap_cur (s : State) : (s.returnTrap).cur = s.cur := rfl
@[simp] theorem State.returnTrap_curNode (s : State) : (s.returnTrap).curNode = s.curNode := rfl
@[simp] theorem State.returnTrap_input (s : State) : (s.returnTrap).input = s.input := rfl
@[simp] theorem State.returnTrap_draws (s : State) : (s.returnTrap).draws = s.draws := rfl
@[simp] theorem State.returnTrap_m (s : State) : (s.returnTrap).m = s.m := rfl
@[simp] theorem State.returnTrap_plane (s : State) : (s.returnTrap).plane = s.plane := rfl
@[simp] theorem State.returnTrap_boot (s : State) : (s.returnTrap).boot = s.boot := rfl
@[simp] theorem State.returnTrap_mon (s : State) : (s.returnTrap).mon = s.mon := rfl
@[simp] theorem State.returnTrap_time (s : State) : (s.returnTrap).time = s.time := rfl
@[simp] theorem State.returnTrap_host (s : State) : (s.returnTrap).host = s.host := rfl
@[simp] theorem State.returnTrap_sched (s : State) : (s.returnTrap).sched = s.sched := rfl
@[simp] theorem State.returnTrap_swap (s : State) : (s.returnTrap).swap = s.swap := rfl
@[simp] theorem State.returnTrap_ckpt (s : State) : (s.returnTrap).ckpt = s.ckpt := rfl
@[simp] theorem State.returnTrap_x (s : State) : (s.returnTrap).x = s.x := rfl
@[simp] theorem State.returnTrap_net (s : State) : (s.returnTrap).net = s.net := rfl
@[simp] theorem State.returnTrap_links (s : State) : (s.returnTrap).links = s.links := rfl

/-! ### State.drawn -/

@[simp] theorem State.drawn_agenda (s : State) : (s.drawn).agenda = s.agenda := rfl
@[simp] theorem State.drawn_cur (s : State) : (s.drawn).cur = s.cur := rfl
@[simp] theorem State.drawn_curNode (s : State) : (s.drawn).curNode = s.curNode := rfl
@[simp] theorem State.drawn_input (s : State) : (s.drawn).input = s.input := rfl
@[simp] theorem State.drawn_cores (s : State) : (s.drawn).cores = s.cores := rfl
@[simp] theorem State.drawn_m (s : State) : (s.drawn).m = s.m := rfl
@[simp] theorem State.drawn_plane (s : State) : (s.drawn).plane = s.plane := rfl
@[simp] theorem State.drawn_boot (s : State) : (s.drawn).boot = s.boot := rfl
@[simp] theorem State.drawn_mon (s : State) : (s.drawn).mon = s.mon := rfl
@[simp] theorem State.drawn_time (s : State) : (s.drawn).time = s.time := rfl
@[simp] theorem State.drawn_host (s : State) : (s.drawn).host = s.host := rfl
@[simp] theorem State.drawn_sched (s : State) : (s.drawn).sched = s.sched := rfl
@[simp] theorem State.drawn_swap (s : State) : (s.drawn).swap = s.swap := rfl
@[simp] theorem State.drawn_ckpt (s : State) : (s.drawn).ckpt = s.ckpt := rfl
@[simp] theorem State.drawn_x (s : State) : (s.drawn).x = s.x := rfl
@[simp] theorem State.drawn_net (s : State) : (s.drawn).net = s.net := rfl
@[simp] theorem State.drawn_links (s : State) : (s.drawn).links = s.links := rfl

/-! ### State.elapse -/

@[simp] theorem State.elapse_agenda (s : State) : (s.elapse).agenda = s.agenda := rfl
@[simp] theorem State.elapse_cur (s : State) : (s.elapse).cur = s.cur := rfl
@[simp] theorem State.elapse_curNode (s : State) : (s.elapse).curNode = s.curNode := rfl
@[simp] theorem State.elapse_input (s : State) : (s.elapse).input = s.input := rfl
@[simp] theorem State.elapse_cores (s : State) : (s.elapse).cores = s.cores := rfl
@[simp] theorem State.elapse_m (s : State) : (s.elapse).m = s.m := rfl
@[simp] theorem State.elapse_plane (s : State) : (s.elapse).plane = s.plane := rfl
@[simp] theorem State.elapse_boot (s : State) : (s.elapse).boot = s.boot := rfl
@[simp] theorem State.elapse_mon (s : State) : (s.elapse).mon = s.mon := rfl
@[simp] theorem State.elapse_host (s : State) : (s.elapse).host = s.host := rfl
@[simp] theorem State.elapse_sched (s : State) : (s.elapse).sched = s.sched := rfl
@[simp] theorem State.elapse_swap (s : State) : (s.elapse).swap = s.swap := rfl
@[simp] theorem State.elapse_ckpt (s : State) : (s.elapse).ckpt = s.ckpt := rfl
@[simp] theorem State.elapse_x (s : State) : (s.elapse).x = s.x := rfl
@[simp] theorem State.elapse_net (s : State) : (s.elapse).net = s.net := rfl
@[simp] theorem State.elapse_links (s : State) : (s.elapse).links = s.links := rfl

/-! ### State.store -/

@[simp] theorem State.store_agenda (s : State) (key : Nat) (bs : List Byte) : (s.store key bs).agenda = s.agenda := rfl
@[simp] theorem State.store_cur (s : State) (key : Nat) (bs : List Byte) : (s.store key bs).cur = s.cur := rfl
@[simp] theorem State.store_curNode (s : State) (key : Nat) (bs : List Byte) : (s.store key bs).curNode = s.curNode := rfl
@[simp] theorem State.store_input (s : State) (key : Nat) (bs : List Byte) : (s.store key bs).input = s.input := rfl
@[simp] theorem State.store_draws (s : State) (key : Nat) (bs : List Byte) : (s.store key bs).draws = s.draws := rfl
@[simp] theorem State.store_cores (s : State) (key : Nat) (bs : List Byte) : (s.store key bs).cores = s.cores := rfl
@[simp] theorem State.store_plane (s : State) (key : Nat) (bs : List Byte) : (s.store key bs).plane = s.plane := rfl
@[simp] theorem State.store_boot (s : State) (key : Nat) (bs : List Byte) : (s.store key bs).boot = s.boot := rfl
@[simp] theorem State.store_mon (s : State) (key : Nat) (bs : List Byte) : (s.store key bs).mon = s.mon := rfl
@[simp] theorem State.store_time (s : State) (key : Nat) (bs : List Byte) : (s.store key bs).time = s.time := rfl
@[simp] theorem State.store_host (s : State) (key : Nat) (bs : List Byte) : (s.store key bs).host = s.host := rfl
@[simp] theorem State.store_sched (s : State) (key : Nat) (bs : List Byte) : (s.store key bs).sched = s.sched := rfl
@[simp] theorem State.store_swap (s : State) (key : Nat) (bs : List Byte) : (s.store key bs).swap = s.swap := rfl
@[simp] theorem State.store_ckpt (s : State) (key : Nat) (bs : List Byte) : (s.store key bs).ckpt = s.ckpt := rfl
@[simp] theorem State.store_x (s : State) (key : Nat) (bs : List Byte) : (s.store key bs).x = s.x := rfl
@[simp] theorem State.store_net (s : State) (key : Nat) (bs : List Byte) : (s.store key bs).net = s.net := rfl
@[simp] theorem State.store_links (s : State) (key : Nat) (bs : List Byte) : (s.store key bs).links = s.links := rfl

/-! ### State.fill -/

@[simp] theorem State.fill_agenda (s : State) (key : Nat) : (s.fill key).agenda = s.agenda := rfl
@[simp] theorem State.fill_cur (s : State) (key : Nat) : (s.fill key).cur = s.cur := rfl
@[simp] theorem State.fill_curNode (s : State) (key : Nat) : (s.fill key).curNode = s.curNode := rfl
@[simp] theorem State.fill_input (s : State) (key : Nat) : (s.fill key).input = s.input := rfl
@[simp] theorem State.fill_draws (s : State) (key : Nat) : (s.fill key).draws = s.draws := rfl
@[simp] theorem State.fill_cores (s : State) (key : Nat) : (s.fill key).cores = s.cores := rfl
@[simp] theorem State.fill_plane (s : State) (key : Nat) : (s.fill key).plane = s.plane := rfl
@[simp] theorem State.fill_boot (s : State) (key : Nat) : (s.fill key).boot = s.boot := rfl
@[simp] theorem State.fill_mon (s : State) (key : Nat) : (s.fill key).mon = s.mon := rfl
@[simp] theorem State.fill_time (s : State) (key : Nat) : (s.fill key).time = s.time := rfl
@[simp] theorem State.fill_host (s : State) (key : Nat) : (s.fill key).host = s.host := rfl
@[simp] theorem State.fill_sched (s : State) (key : Nat) : (s.fill key).sched = s.sched := rfl
@[simp] theorem State.fill_swap (s : State) (key : Nat) : (s.fill key).swap = s.swap := rfl
@[simp] theorem State.fill_ckpt (s : State) (key : Nat) : (s.fill key).ckpt = s.ckpt := rfl
@[simp] theorem State.fill_x (s : State) (key : Nat) : (s.fill key).x = s.x := rfl
@[simp] theorem State.fill_net (s : State) (key : Nat) : (s.fill key).net = s.net := rfl
@[simp] theorem State.fill_links (s : State) (key : Nat) : (s.fill key).links = s.links := rfl

/-! ### State.empty -/

@[simp] theorem State.empty_agenda (s : State) (key : Nat) : (s.empty key).agenda = s.agenda := rfl
@[simp] theorem State.empty_cur (s : State) (key : Nat) : (s.empty key).cur = s.cur := rfl
@[simp] theorem State.empty_curNode (s : State) (key : Nat) : (s.empty key).curNode = s.curNode := rfl
@[simp] theorem State.empty_input (s : State) (key : Nat) : (s.empty key).input = s.input := rfl
@[simp] theorem State.empty_draws (s : State) (key : Nat) : (s.empty key).draws = s.draws := rfl
@[simp] theorem State.empty_cores (s : State) (key : Nat) : (s.empty key).cores = s.cores := rfl
@[simp] theorem State.empty_plane (s : State) (key : Nat) : (s.empty key).plane = s.plane := rfl
@[simp] theorem State.empty_boot (s : State) (key : Nat) : (s.empty key).boot = s.boot := rfl
@[simp] theorem State.empty_mon (s : State) (key : Nat) : (s.empty key).mon = s.mon := rfl
@[simp] theorem State.empty_time (s : State) (key : Nat) : (s.empty key).time = s.time := rfl
@[simp] theorem State.empty_host (s : State) (key : Nat) : (s.empty key).host = s.host := rfl
@[simp] theorem State.empty_sched (s : State) (key : Nat) : (s.empty key).sched = s.sched := rfl
@[simp] theorem State.empty_swap (s : State) (key : Nat) : (s.empty key).swap = s.swap := rfl
@[simp] theorem State.empty_ckpt (s : State) (key : Nat) : (s.empty key).ckpt = s.ckpt := rfl
@[simp] theorem State.empty_x (s : State) (key : Nat) : (s.empty key).x = s.x := rfl
@[simp] theorem State.empty_net (s : State) (key : Nat) : (s.empty key).net = s.net := rfl
@[simp] theorem State.empty_links (s : State) (key : Nat) : (s.empty key).links = s.links := rfl

/-! ### State.writeBack -/

@[simp] theorem State.writeBack_agenda (s : State) (ls : List BankLine) : (s.writeBack ls).agenda = s.agenda := rfl
@[simp] theorem State.writeBack_cur (s : State) (ls : List BankLine) : (s.writeBack ls).cur = s.cur := rfl
@[simp] theorem State.writeBack_curNode (s : State) (ls : List BankLine) : (s.writeBack ls).curNode = s.curNode := rfl
@[simp] theorem State.writeBack_input (s : State) (ls : List BankLine) : (s.writeBack ls).input = s.input := rfl
@[simp] theorem State.writeBack_draws (s : State) (ls : List BankLine) : (s.writeBack ls).draws = s.draws := rfl
@[simp] theorem State.writeBack_cores (s : State) (ls : List BankLine) : (s.writeBack ls).cores = s.cores := rfl
@[simp] theorem State.writeBack_plane (s : State) (ls : List BankLine) : (s.writeBack ls).plane = s.plane := rfl
@[simp] theorem State.writeBack_boot (s : State) (ls : List BankLine) : (s.writeBack ls).boot = s.boot := rfl
@[simp] theorem State.writeBack_mon (s : State) (ls : List BankLine) : (s.writeBack ls).mon = s.mon := rfl
@[simp] theorem State.writeBack_time (s : State) (ls : List BankLine) : (s.writeBack ls).time = s.time := rfl
@[simp] theorem State.writeBack_host (s : State) (ls : List BankLine) : (s.writeBack ls).host = s.host := rfl
@[simp] theorem State.writeBack_sched (s : State) (ls : List BankLine) : (s.writeBack ls).sched = s.sched := rfl
@[simp] theorem State.writeBack_swap (s : State) (ls : List BankLine) : (s.writeBack ls).swap = s.swap := rfl
@[simp] theorem State.writeBack_ckpt (s : State) (ls : List BankLine) : (s.writeBack ls).ckpt = s.ckpt := rfl
@[simp] theorem State.writeBack_x (s : State) (ls : List BankLine) : (s.writeBack ls).x = s.x := rfl
@[simp] theorem State.writeBack_net (s : State) (ls : List BankLine) : (s.writeBack ls).net = s.net := rfl
@[simp] theorem State.writeBack_links (s : State) (ls : List BankLine) : (s.writeBack ls).links = s.links := rfl

/-! ### State.dropLines -/

@[simp] theorem State.dropLines_agenda (s : State) (k : Nat) (sel : BankLine → Bool) : (s.dropLines k sel).agenda = s.agenda := rfl
@[simp] theorem State.dropLines_cur (s : State) (k : Nat) (sel : BankLine → Bool) : (s.dropLines k sel).cur = s.cur := rfl
@[simp] theorem State.dropLines_curNode (s : State) (k : Nat) (sel : BankLine → Bool) : (s.dropLines k sel).curNode = s.curNode := rfl
@[simp] theorem State.dropLines_input (s : State) (k : Nat) (sel : BankLine → Bool) : (s.dropLines k sel).input = s.input := rfl
@[simp] theorem State.dropLines_draws (s : State) (k : Nat) (sel : BankLine → Bool) : (s.dropLines k sel).draws = s.draws := rfl
@[simp] theorem State.dropLines_cores (s : State) (k : Nat) (sel : BankLine → Bool) : (s.dropLines k sel).cores = s.cores := rfl
@[simp] theorem State.dropLines_plane (s : State) (k : Nat) (sel : BankLine → Bool) : (s.dropLines k sel).plane = s.plane := rfl
@[simp] theorem State.dropLines_boot (s : State) (k : Nat) (sel : BankLine → Bool) : (s.dropLines k sel).boot = s.boot := rfl
@[simp] theorem State.dropLines_mon (s : State) (k : Nat) (sel : BankLine → Bool) : (s.dropLines k sel).mon = s.mon := rfl
@[simp] theorem State.dropLines_time (s : State) (k : Nat) (sel : BankLine → Bool) : (s.dropLines k sel).time = s.time := rfl
@[simp] theorem State.dropLines_host (s : State) (k : Nat) (sel : BankLine → Bool) : (s.dropLines k sel).host = s.host := rfl
@[simp] theorem State.dropLines_sched (s : State) (k : Nat) (sel : BankLine → Bool) : (s.dropLines k sel).sched = s.sched := rfl
@[simp] theorem State.dropLines_swap (s : State) (k : Nat) (sel : BankLine → Bool) : (s.dropLines k sel).swap = s.swap := rfl
@[simp] theorem State.dropLines_ckpt (s : State) (k : Nat) (sel : BankLine → Bool) : (s.dropLines k sel).ckpt = s.ckpt := rfl
@[simp] theorem State.dropLines_x (s : State) (k : Nat) (sel : BankLine → Bool) : (s.dropLines k sel).x = s.x := rfl
@[simp] theorem State.dropLines_net (s : State) (k : Nat) (sel : BankLine → Bool) : (s.dropLines k sel).net = s.net := rfl
@[simp] theorem State.dropLines_links (s : State) (k : Nat) (sel : BankLine → Bool) : (s.dropLines k sel).links = s.links := rfl

/-! ### State.cleanLines -/

@[simp] theorem State.cleanLines_agenda (s : State) (k : Nat) : (s.cleanLines k).agenda = s.agenda := rfl
@[simp] theorem State.cleanLines_cur (s : State) (k : Nat) : (s.cleanLines k).cur = s.cur := rfl
@[simp] theorem State.cleanLines_curNode (s : State) (k : Nat) : (s.cleanLines k).curNode = s.curNode := rfl
@[simp] theorem State.cleanLines_input (s : State) (k : Nat) : (s.cleanLines k).input = s.input := rfl
@[simp] theorem State.cleanLines_draws (s : State) (k : Nat) : (s.cleanLines k).draws = s.draws := rfl
@[simp] theorem State.cleanLines_cores (s : State) (k : Nat) : (s.cleanLines k).cores = s.cores := rfl
@[simp] theorem State.cleanLines_plane (s : State) (k : Nat) : (s.cleanLines k).plane = s.plane := rfl
@[simp] theorem State.cleanLines_boot (s : State) (k : Nat) : (s.cleanLines k).boot = s.boot := rfl
@[simp] theorem State.cleanLines_mon (s : State) (k : Nat) : (s.cleanLines k).mon = s.mon := rfl
@[simp] theorem State.cleanLines_time (s : State) (k : Nat) : (s.cleanLines k).time = s.time := rfl
@[simp] theorem State.cleanLines_host (s : State) (k : Nat) : (s.cleanLines k).host = s.host := rfl
@[simp] theorem State.cleanLines_sched (s : State) (k : Nat) : (s.cleanLines k).sched = s.sched := rfl
@[simp] theorem State.cleanLines_swap (s : State) (k : Nat) : (s.cleanLines k).swap = s.swap := rfl
@[simp] theorem State.cleanLines_ckpt (s : State) (k : Nat) : (s.cleanLines k).ckpt = s.ckpt := rfl
@[simp] theorem State.cleanLines_x (s : State) (k : Nat) : (s.cleanLines k).x = s.x := rfl
@[simp] theorem State.cleanLines_net (s : State) (k : Nat) : (s.cleanLines k).net = s.net := rfl
@[simp] theorem State.cleanLines_links (s : State) (k : Nat) : (s.cleanLines k).links = s.links := rfl

/-! ### State.logUe -/

@[simp] theorem State.logUe_agenda (s : State) (key : Nat) (syn : BitVec 16) : (s.logUe key syn).agenda = s.agenda := rfl
@[simp] theorem State.logUe_cur (s : State) (key : Nat) (syn : BitVec 16) : (s.logUe key syn).cur = s.cur := rfl
@[simp] theorem State.logUe_curNode (s : State) (key : Nat) (syn : BitVec 16) : (s.logUe key syn).curNode = s.curNode := rfl
@[simp] theorem State.logUe_input (s : State) (key : Nat) (syn : BitVec 16) : (s.logUe key syn).input = s.input := rfl
@[simp] theorem State.logUe_draws (s : State) (key : Nat) (syn : BitVec 16) : (s.logUe key syn).draws = s.draws := rfl
@[simp] theorem State.logUe_cores (s : State) (key : Nat) (syn : BitVec 16) : (s.logUe key syn).cores = s.cores := rfl
@[simp] theorem State.logUe_plane (s : State) (key : Nat) (syn : BitVec 16) : (s.logUe key syn).plane = s.plane := rfl
@[simp] theorem State.logUe_boot (s : State) (key : Nat) (syn : BitVec 16) : (s.logUe key syn).boot = s.boot := rfl
@[simp] theorem State.logUe_mon (s : State) (key : Nat) (syn : BitVec 16) : (s.logUe key syn).mon = s.mon := rfl
@[simp] theorem State.logUe_time (s : State) (key : Nat) (syn : BitVec 16) : (s.logUe key syn).time = s.time := rfl
@[simp] theorem State.logUe_host (s : State) (key : Nat) (syn : BitVec 16) : (s.logUe key syn).host = s.host := rfl
@[simp] theorem State.logUe_sched (s : State) (key : Nat) (syn : BitVec 16) : (s.logUe key syn).sched = s.sched := rfl
@[simp] theorem State.logUe_swap (s : State) (key : Nat) (syn : BitVec 16) : (s.logUe key syn).swap = s.swap := rfl
@[simp] theorem State.logUe_ckpt (s : State) (key : Nat) (syn : BitVec 16) : (s.logUe key syn).ckpt = s.ckpt := rfl
@[simp] theorem State.logUe_x (s : State) (key : Nat) (syn : BitVec 16) : (s.logUe key syn).x = s.x := rfl
@[simp] theorem State.logUe_net (s : State) (key : Nat) (syn : BitVec 16) : (s.logUe key syn).net = s.net := rfl
@[simp] theorem State.logUe_links (s : State) (key : Nat) (syn : BitVec 16) : (s.logUe key syn).links = s.links := rfl

/-! ### State.setQueue -/

@[simp] theorem State.setQueue_agenda (s : State) (q : Nat) (y : Queue) : (s.setQueue q y).agenda = s.agenda := rfl
@[simp] theorem State.setQueue_cur (s : State) (q : Nat) (y : Queue) : (s.setQueue q y).cur = s.cur := rfl
@[simp] theorem State.setQueue_curNode (s : State) (q : Nat) (y : Queue) : (s.setQueue q y).curNode = s.curNode := rfl
@[simp] theorem State.setQueue_input (s : State) (q : Nat) (y : Queue) : (s.setQueue q y).input = s.input := rfl
@[simp] theorem State.setQueue_draws (s : State) (q : Nat) (y : Queue) : (s.setQueue q y).draws = s.draws := rfl
@[simp] theorem State.setQueue_cores (s : State) (q : Nat) (y : Queue) : (s.setQueue q y).cores = s.cores := rfl
@[simp] theorem State.setQueue_m (s : State) (q : Nat) (y : Queue) : (s.setQueue q y).m = s.m := rfl
@[simp] theorem State.setQueue_plane (s : State) (q : Nat) (y : Queue) : (s.setQueue q y).plane = s.plane := rfl
@[simp] theorem State.setQueue_boot (s : State) (q : Nat) (y : Queue) : (s.setQueue q y).boot = s.boot := rfl
@[simp] theorem State.setQueue_mon (s : State) (q : Nat) (y : Queue) : (s.setQueue q y).mon = s.mon := rfl
@[simp] theorem State.setQueue_time (s : State) (q : Nat) (y : Queue) : (s.setQueue q y).time = s.time := rfl
@[simp] theorem State.setQueue_sched (s : State) (q : Nat) (y : Queue) : (s.setQueue q y).sched = s.sched := rfl
@[simp] theorem State.setQueue_swap (s : State) (q : Nat) (y : Queue) : (s.setQueue q y).swap = s.swap := rfl
@[simp] theorem State.setQueue_ckpt (s : State) (q : Nat) (y : Queue) : (s.setQueue q y).ckpt = s.ckpt := rfl
@[simp] theorem State.setQueue_x (s : State) (q : Nat) (y : Queue) : (s.setQueue q y).x = s.x := rfl
@[simp] theorem State.setQueue_net (s : State) (q : Nat) (y : Queue) : (s.setQueue q y).net = s.net := rfl
@[simp] theorem State.setQueue_links (s : State) (q : Nat) (y : Queue) : (s.setQueue q y).links = s.links := rfl

/-! ### State.msi -/

@[simp] theorem State.msi_agenda (s : State) (v : Nat) : (s.msi v).agenda = s.agenda := rfl
@[simp] theorem State.msi_cur (s : State) (v : Nat) : (s.msi v).cur = s.cur := rfl
@[simp] theorem State.msi_curNode (s : State) (v : Nat) : (s.msi v).curNode = s.curNode := rfl
@[simp] theorem State.msi_input (s : State) (v : Nat) : (s.msi v).input = s.input := rfl
@[simp] theorem State.msi_draws (s : State) (v : Nat) : (s.msi v).draws = s.draws := rfl
@[simp] theorem State.msi_cores (s : State) (v : Nat) : (s.msi v).cores = s.cores := rfl
@[simp] theorem State.msi_m (s : State) (v : Nat) : (s.msi v).m = s.m := rfl
@[simp] theorem State.msi_plane (s : State) (v : Nat) : (s.msi v).plane = s.plane := rfl
@[simp] theorem State.msi_boot (s : State) (v : Nat) : (s.msi v).boot = s.boot := rfl
@[simp] theorem State.msi_mon (s : State) (v : Nat) : (s.msi v).mon = s.mon := rfl
@[simp] theorem State.msi_time (s : State) (v : Nat) : (s.msi v).time = s.time := rfl
@[simp] theorem State.msi_sched (s : State) (v : Nat) : (s.msi v).sched = s.sched := rfl
@[simp] theorem State.msi_swap (s : State) (v : Nat) : (s.msi v).swap = s.swap := rfl
@[simp] theorem State.msi_ckpt (s : State) (v : Nat) : (s.msi v).ckpt = s.ckpt := rfl
@[simp] theorem State.msi_x (s : State) (v : Nat) : (s.msi v).x = s.x := rfl
@[simp] theorem State.msi_net (s : State) (v : Nat) : (s.msi v).net = s.net := rfl
@[simp] theorem State.msi_links (s : State) (v : Nat) : (s.msi v).links = s.links := rfl

/-! ### State.takePacket -/

@[simp] theorem State.takePacket_agenda (s : State) (id : Nat) : (s.takePacket id).agenda = s.agenda := rfl
@[simp] theorem State.takePacket_cur (s : State) (id : Nat) : (s.takePacket id).cur = s.cur := rfl
@[simp] theorem State.takePacket_curNode (s : State) (id : Nat) : (s.takePacket id).curNode = s.curNode := rfl
@[simp] theorem State.takePacket_input (s : State) (id : Nat) : (s.takePacket id).input = s.input := rfl
@[simp] theorem State.takePacket_draws (s : State) (id : Nat) : (s.takePacket id).draws = s.draws := rfl
@[simp] theorem State.takePacket_cores (s : State) (id : Nat) : (s.takePacket id).cores = s.cores := rfl
@[simp] theorem State.takePacket_m (s : State) (id : Nat) : (s.takePacket id).m = s.m := rfl
@[simp] theorem State.takePacket_plane (s : State) (id : Nat) : (s.takePacket id).plane = s.plane := rfl
@[simp] theorem State.takePacket_boot (s : State) (id : Nat) : (s.takePacket id).boot = s.boot := rfl
@[simp] theorem State.takePacket_mon (s : State) (id : Nat) : (s.takePacket id).mon = s.mon := rfl
@[simp] theorem State.takePacket_time (s : State) (id : Nat) : (s.takePacket id).time = s.time := rfl
@[simp] theorem State.takePacket_host (s : State) (id : Nat) : (s.takePacket id).host = s.host := rfl
@[simp] theorem State.takePacket_sched (s : State) (id : Nat) : (s.takePacket id).sched = s.sched := rfl
@[simp] theorem State.takePacket_swap (s : State) (id : Nat) : (s.takePacket id).swap = s.swap := rfl
@[simp] theorem State.takePacket_ckpt (s : State) (id : Nat) : (s.takePacket id).ckpt = s.ckpt := rfl
@[simp] theorem State.takePacket_x (s : State) (id : Nat) : (s.takePacket id).x = s.x := rfl
@[simp] theorem State.takePacket_links (s : State) (id : Nat) : (s.takePacket id).links = s.links := rfl

/-! ### State.dropAccess -/

@[simp] theorem State.dropAccess_agenda (s : State) (id : Nat) : (s.dropAccess id).agenda = s.agenda := rfl
@[simp] theorem State.dropAccess_cur (s : State) (id : Nat) : (s.dropAccess id).cur = s.cur := rfl
@[simp] theorem State.dropAccess_curNode (s : State) (id : Nat) : (s.dropAccess id).curNode = s.curNode := rfl
@[simp] theorem State.dropAccess_input (s : State) (id : Nat) : (s.dropAccess id).input = s.input := rfl
@[simp] theorem State.dropAccess_draws (s : State) (id : Nat) : (s.dropAccess id).draws = s.draws := rfl
@[simp] theorem State.dropAccess_cores (s : State) (id : Nat) : (s.dropAccess id).cores = s.cores := rfl
@[simp] theorem State.dropAccess_m (s : State) (id : Nat) : (s.dropAccess id).m = s.m := rfl
@[simp] theorem State.dropAccess_plane (s : State) (id : Nat) : (s.dropAccess id).plane = s.plane := rfl
@[simp] theorem State.dropAccess_boot (s : State) (id : Nat) : (s.dropAccess id).boot = s.boot := rfl
@[simp] theorem State.dropAccess_mon (s : State) (id : Nat) : (s.dropAccess id).mon = s.mon := rfl
@[simp] theorem State.dropAccess_time (s : State) (id : Nat) : (s.dropAccess id).time = s.time := rfl
@[simp] theorem State.dropAccess_host (s : State) (id : Nat) : (s.dropAccess id).host = s.host := rfl
@[simp] theorem State.dropAccess_sched (s : State) (id : Nat) : (s.dropAccess id).sched = s.sched := rfl
@[simp] theorem State.dropAccess_swap (s : State) (id : Nat) : (s.dropAccess id).swap = s.swap := rfl
@[simp] theorem State.dropAccess_ckpt (s : State) (id : Nat) : (s.dropAccess id).ckpt = s.ckpt := rfl
@[simp] theorem State.dropAccess_x (s : State) (id : Nat) : (s.dropAccess id).x = s.x := rfl
@[simp] theorem State.dropAccess_links (s : State) (id : Nat) : (s.dropAccess id).links = s.links := rfl

/-! ### State.countSillage and sending -/

@[simp] theorem State.countSillage_agenda (s : State) (p : Packet) : (s.countSillage p).agenda = s.agenda := by
  unfold State.countSillage; split
  · split <;> rfl
  · rfl
@[simp] theorem State.countSillage_cur (s : State) (p : Packet) : (s.countSillage p).cur = s.cur := by
  unfold State.countSillage; split
  · split <;> rfl
  · rfl
@[simp] theorem State.countSillage_curNode (s : State) (p : Packet) : (s.countSillage p).curNode = s.curNode := by
  unfold State.countSillage; split
  · split <;> rfl
  · rfl
@[simp] theorem State.countSillage_input (s : State) (p : Packet) : (s.countSillage p).input = s.input := by
  unfold State.countSillage; split
  · split <;> rfl
  · rfl
@[simp] theorem State.countSillage_draws (s : State) (p : Packet) : (s.countSillage p).draws = s.draws := by
  unfold State.countSillage; split
  · split <;> rfl
  · rfl
@[simp] theorem State.countSillage_cores (s : State) (p : Packet) : (s.countSillage p).cores = s.cores := by
  unfold State.countSillage; split
  · split <;> rfl
  · rfl
@[simp] theorem State.countSillage_m (s : State) (p : Packet) : (s.countSillage p).m = s.m := by
  unfold State.countSillage; split
  · split <;> rfl
  · rfl
@[simp] theorem State.countSillage_plane (s : State) (p : Packet) : (s.countSillage p).plane = s.plane := by
  unfold State.countSillage; split
  · split <;> rfl
  · rfl
@[simp] theorem State.countSillage_boot (s : State) (p : Packet) : (s.countSillage p).boot = s.boot := by
  unfold State.countSillage; split
  · split <;> rfl
  · rfl
@[simp] theorem State.countSillage_mon (s : State) (p : Packet) : (s.countSillage p).mon = s.mon := by
  unfold State.countSillage; split
  · split <;> rfl
  · rfl
@[simp] theorem State.countSillage_time (s : State) (p : Packet) : (s.countSillage p).time = s.time := by
  unfold State.countSillage; split
  · split <;> rfl
  · rfl
@[simp] theorem State.countSillage_host (s : State) (p : Packet) : (s.countSillage p).host = s.host := by
  unfold State.countSillage; split
  · split <;> rfl
  · rfl
@[simp] theorem State.countSillage_sched (s : State) (p : Packet) : (s.countSillage p).sched = s.sched := by
  unfold State.countSillage; split
  · split <;> rfl
  · rfl
@[simp] theorem State.countSillage_ckpt (s : State) (p : Packet) : (s.countSillage p).ckpt = s.ckpt := by
  unfold State.countSillage; split
  · split <;> rfl
  · rfl
@[simp] theorem State.countSillage_x (s : State) (p : Packet) : (s.countSillage p).x = s.x := by
  unfold State.countSillage; split
  · split <;> rfl
  · rfl
@[simp] theorem State.countSillage_net (s : State) (p : Packet) : (s.countSillage p).net = s.net := by
  unfold State.countSillage; split
  · split <;> rfl
  · rfl
@[simp] theorem State.countSillage_links (s : State) (p : Packet) : (s.countSillage p).links = s.links := by
  unfold State.countSillage; split
  · split <;> rfl
  · rfl

@[simp] theorem State.sendPacket_agenda (s : State) (p : Packet) : (s.sendPacket p).agenda = s.agenda := by simp [State.sendPacket]
@[simp] theorem State.request_agenda (s : State) (y : Access) : (s.request y).agenda = s.agenda := by simp [State.request]
@[simp] theorem State.respond_agenda (s : State) (y : Access) (kind : BitVec 4) (cause : Nat) (bs : List Byte) :
    (s.respond y kind cause bs).agenda = s.agenda := by simp [State.respond]
@[simp] theorem State.sendPacket_cur (s : State) (p : Packet) : (s.sendPacket p).cur = s.cur := by simp [State.sendPacket]
@[simp] theorem State.request_cur (s : State) (y : Access) : (s.request y).cur = s.cur := by simp [State.request]
@[simp] theorem State.respond_cur (s : State) (y : Access) (kind : BitVec 4) (cause : Nat) (bs : List Byte) :
    (s.respond y kind cause bs).cur = s.cur := by simp [State.respond]
@[simp] theorem State.sendPacket_curNode (s : State) (p : Packet) : (s.sendPacket p).curNode = s.curNode := by simp [State.sendPacket]
@[simp] theorem State.request_curNode (s : State) (y : Access) : (s.request y).curNode = s.curNode := by simp [State.request]
@[simp] theorem State.respond_curNode (s : State) (y : Access) (kind : BitVec 4) (cause : Nat) (bs : List Byte) :
    (s.respond y kind cause bs).curNode = s.curNode := by simp [State.respond]
@[simp] theorem State.sendPacket_input (s : State) (p : Packet) : (s.sendPacket p).input = s.input := by simp [State.sendPacket]
@[simp] theorem State.request_input (s : State) (y : Access) : (s.request y).input = s.input := by simp [State.request]
@[simp] theorem State.respond_input (s : State) (y : Access) (kind : BitVec 4) (cause : Nat) (bs : List Byte) :
    (s.respond y kind cause bs).input = s.input := by simp [State.respond]
@[simp] theorem State.sendPacket_draws (s : State) (p : Packet) : (s.sendPacket p).draws = s.draws := by simp [State.sendPacket]
@[simp] theorem State.request_draws (s : State) (y : Access) : (s.request y).draws = s.draws := by simp [State.request]
@[simp] theorem State.respond_draws (s : State) (y : Access) (kind : BitVec 4) (cause : Nat) (bs : List Byte) :
    (s.respond y kind cause bs).draws = s.draws := by simp [State.respond]
@[simp] theorem State.sendPacket_cores (s : State) (p : Packet) : (s.sendPacket p).cores = s.cores := by simp [State.sendPacket]
@[simp] theorem State.request_cores (s : State) (y : Access) : (s.request y).cores = s.cores := by simp [State.request]
@[simp] theorem State.respond_cores (s : State) (y : Access) (kind : BitVec 4) (cause : Nat) (bs : List Byte) :
    (s.respond y kind cause bs).cores = s.cores := by simp [State.respond]
@[simp] theorem State.sendPacket_m (s : State) (p : Packet) : (s.sendPacket p).m = s.m := by simp [State.sendPacket]
@[simp] theorem State.request_m (s : State) (y : Access) : (s.request y).m = s.m := by simp [State.request]
@[simp] theorem State.respond_m (s : State) (y : Access) (kind : BitVec 4) (cause : Nat) (bs : List Byte) :
    (s.respond y kind cause bs).m = s.m := by simp [State.respond]
@[simp] theorem State.sendPacket_plane (s : State) (p : Packet) : (s.sendPacket p).plane = s.plane := by simp [State.sendPacket]
@[simp] theorem State.request_plane (s : State) (y : Access) : (s.request y).plane = s.plane := by simp [State.request]
@[simp] theorem State.respond_plane (s : State) (y : Access) (kind : BitVec 4) (cause : Nat) (bs : List Byte) :
    (s.respond y kind cause bs).plane = s.plane := by simp [State.respond]
@[simp] theorem State.sendPacket_boot (s : State) (p : Packet) : (s.sendPacket p).boot = s.boot := by simp [State.sendPacket]
@[simp] theorem State.request_boot (s : State) (y : Access) : (s.request y).boot = s.boot := by simp [State.request]
@[simp] theorem State.respond_boot (s : State) (y : Access) (kind : BitVec 4) (cause : Nat) (bs : List Byte) :
    (s.respond y kind cause bs).boot = s.boot := by simp [State.respond]
@[simp] theorem State.sendPacket_mon (s : State) (p : Packet) : (s.sendPacket p).mon = s.mon := by simp [State.sendPacket]
@[simp] theorem State.request_mon (s : State) (y : Access) : (s.request y).mon = s.mon := by simp [State.request]
@[simp] theorem State.respond_mon (s : State) (y : Access) (kind : BitVec 4) (cause : Nat) (bs : List Byte) :
    (s.respond y kind cause bs).mon = s.mon := by simp [State.respond]
@[simp] theorem State.sendPacket_time (s : State) (p : Packet) : (s.sendPacket p).time = s.time := by simp [State.sendPacket]
@[simp] theorem State.request_time (s : State) (y : Access) : (s.request y).time = s.time := by simp [State.request]
@[simp] theorem State.respond_time (s : State) (y : Access) (kind : BitVec 4) (cause : Nat) (bs : List Byte) :
    (s.respond y kind cause bs).time = s.time := by simp [State.respond]
@[simp] theorem State.sendPacket_host (s : State) (p : Packet) : (s.sendPacket p).host = s.host := by simp [State.sendPacket]
@[simp] theorem State.request_host (s : State) (y : Access) : (s.request y).host = s.host := by simp [State.request]
@[simp] theorem State.respond_host (s : State) (y : Access) (kind : BitVec 4) (cause : Nat) (bs : List Byte) :
    (s.respond y kind cause bs).host = s.host := by simp [State.respond]
@[simp] theorem State.sendPacket_sched (s : State) (p : Packet) : (s.sendPacket p).sched = s.sched := by simp [State.sendPacket]
@[simp] theorem State.request_sched (s : State) (y : Access) : (s.request y).sched = s.sched := by simp [State.request]
@[simp] theorem State.respond_sched (s : State) (y : Access) (kind : BitVec 4) (cause : Nat) (bs : List Byte) :
    (s.respond y kind cause bs).sched = s.sched := by simp [State.respond]
@[simp] theorem State.sendPacket_ckpt (s : State) (p : Packet) : (s.sendPacket p).ckpt = s.ckpt := by simp [State.sendPacket]
@[simp] theorem State.request_ckpt (s : State) (y : Access) : (s.request y).ckpt = s.ckpt := by simp [State.request]
@[simp] theorem State.respond_ckpt (s : State) (y : Access) (kind : BitVec 4) (cause : Nat) (bs : List Byte) :
    (s.respond y kind cause bs).ckpt = s.ckpt := by simp [State.respond]
@[simp] theorem State.sendPacket_x (s : State) (p : Packet) : (s.sendPacket p).x = s.x := by simp [State.sendPacket]
@[simp] theorem State.request_x (s : State) (y : Access) : (s.request y).x = s.x := by simp [State.request]
@[simp] theorem State.respond_x (s : State) (y : Access) (kind : BitVec 4) (cause : Nat) (bs : List Byte) :
    (s.respond y kind cause bs).x = s.x := by simp [State.respond]
@[simp] theorem State.sendPacket_links (s : State) (p : Packet) : (s.sendPacket p).links = s.links := by simp [State.sendPacket]
@[simp] theorem State.request_links (s : State) (y : Access) : (s.request y).links = s.links := by simp [State.request]
@[simp] theorem State.respond_links (s : State) (y : Access) (kind : BitVec 4) (cause : Nat) (bs : List Byte) :
    (s.respond y kind cause bs).links = s.links := by simp [State.respond]

/-! ### Cores and registers -/

@[simp] theorem State.core_setCore_same (s : State) (k : Nat) (c : CoreSt) : (s.setCore k c).core k = c := by
  simp [State.core, State.setCore]

theorem State.core_setCore_other (s : State) {k j : Nat} (c : CoreSt) (h : j ≠ k) : (s.setCore k c).core j = s.core j := by
  simp [State.core, State.setCore, tabGet_tabPut_other _ _ _ h]

@[simp] theorem State.ctlAt_setCtlAt_same (s : State) (k : Nat) (c : Ctl) : (s.setCtlAt k c).ctlAt k = c := by
  simp [State.ctlAt, State.setCtlAt]

theorem State.ctlAt_setCtlAt_other (s : State) {k j : Nat} (c : Ctl) (h : j ≠ k) : (s.setCtlAt k c).ctlAt j = s.ctlAt j := by
  simp [State.ctlAt, State.setCtlAt, State.core_setCore_other s _ h]

@[simp] theorem State.me_setCtlAt (s : State) (k : Nat) (c : Ctl) : (s.setCtlAt k c).me = s.me := rfl
@[simp] theorem State.me_setCtl (s : State) (c : Ctl) : (s.setCtl c).me = s.me := rfl
@[simp] theorem State.me_setCr (s : State) (r : CtlRegs) : (s.setCr r).me = s.me := rfl

@[simp] theorem State.ctl_setCtl (s : State) (c : Ctl) : (s.setCtl c).ctl = c := by
  simp [State.ctl, State.setCtl]

@[simp] theorem State.cr_setCr (s : State) (r : CtlRegs) : (s.setCr r).cr = r := by
  simp [State.cr, State.setCr]

@[simp] theorem State.ctl_setCr (s : State) (r : CtlRegs) : (s.setCr r).ctl = { s.ctl with r := r } := by
  simp [State.setCr]

/-- Register s0 reads as zero (R238). -/
@[simp] theorem CtlRegs.get_zero (r : CtlRegs) : r.get 0 = 0 := by simp [CtlRegs.get]

/-- What a register reads as after a write: s0 as zero, the register written as the value, any other as before (R238). -/
theorem CtlRegs.get_put (r : CtlRegs) (d n : Reg) (v : Word) :
    (r.put d v).get n = if n = 0 then 0 else if n = d then v else r.get n := by
  unfold CtlRegs.put CtlRegs.get
  by_cases hn : n = 0
  · rw [if_pos hn, if_pos hn]
  · rw [if_neg hn, if_neg hn]
    by_cases hd : d = 0
    · rw [if_pos hd, if_neg (fun e => hn (e.trans hd)), if_neg hn]
    · rw [if_neg hd, if_neg hn]
      by_cases h : n = d
      · subst h; rw [if_pos rfl]; exact Vector.getElem_set_self _
      · rw [if_neg h]
        exact Vector.getElem_set_ne d.isLt n.isLt (fun e => h (BitVec.eq_of_toNat_eq e.symm))

/-- A write of a general register changes no other register of the core (R238). -/
theorem CtlRegs.put_rest (r : CtlRegs) (d : Reg) (v : Word) : r.put d v = { r with s := (r.put d v).s } := by
  unfold CtlRegs.put; split <;> rfl

@[simp] theorem CtlRegs.put_pc (r : CtlRegs) (d : Reg) (v : Word) : (r.put d v).pc = r.pc := by
  unfold CtlRegs.put; split <;> rfl

@[simp] theorem CtlRegs.get_pc (r : CtlRegs) (p : Word) (n : Reg) : CtlRegs.get { r with pc := p } n = r.get n := rfl

@[simp] theorem State.cr_setReg (s : State) (d : Reg) (v : Word) : (s.setReg d v).cr = s.cr.put d v := by simp [State.setReg]
@[simp] theorem State.cr_setPc (s : State) (p : Word) : (s.setPc p).cr = { s.cr with pc := p } := by simp [State.setPc]
@[simp] theorem State.pc_setPc (s : State) (p : Word) : (s.setPc p).pc = p := by simp [State.pc]
@[simp] theorem State.reg_setPc (s : State) (p : Word) (n : Reg) : (s.setPc p).reg n = s.reg n := by simp [State.reg]
@[simp] theorem State.pc_setReg (s : State) (d : Reg) (v : Word) : (s.setReg d v).pc = s.pc := by simp [State.pc]

theorem State.reg_setReg (s : State) (d n : Reg) (v : Word) :
    (s.setReg d v).reg n = if n = 0 then 0 else if n = d then v else s.reg n := by
  simp [State.reg, CtlRegs.get_put]

/-- Everything `State.result` does: the destination register holds the value, no other register of the core changes but the pc, which
stands at the next instruction; only the core's control core changes. -/
theorem State.result_spec (s : State) (d : Reg) (v : Word) :
    (∀ n, (s.result d v).reg n = if n = 0 then 0 else if n = d then v else s.reg n) ∧ (s.result d v).pc = s.pc + 4 ∧
    s.result d v = s.setCtl { s.ctl with r := { s.cr with s := (s.cr.put d v).s, pc := s.pc + 4 } } := by
  refine ⟨fun n => ?_, ?_, ?_⟩
  · simp [State.result, State.advancePc, State.reg_setReg]
  · simp [State.result, State.advancePc]
  · simp only [State.result, State.advancePc, State.setPc, State.setCr, State.setReg, State.cr, State.ctl_setCtl, State.pc]
    rw [CtlRegs.put_rest]
    simp [State.setCtl, State.setCtlAt, State.setCore, State.core, State.me, tabPut_tabPut]

end Sys2Proof.Machine
end

