-- ==== Sys2Proof/Laws/Fabric.lean ====
section
/-! SUPPORT. What the shared operations of a core's fabric change: tokens, outputs, packets of class STR and settling touch the fabric of one
core and the network, and nothing else. -/

set_option Elab.async false

namespace Sys2Proof.Machine

theorem State.fabricOnly_refl (s : State) (k : Nat) : s.fabricOnly s k :=
  ⟨rfl, fun _ => rfl, fun _ => rfl, fun _ _ => rfl, rfl, fun _ => rfl⟩

theorem State.fabricOnly_trans {s t u : State} {k : Nat} (h : s.fabricOnly t k) (g : t.fabricOnly u k) : s.fabricOnly u k := by
  obtain ⟨h1, h2, h3, h4, h5, h6⟩ := h
  obtain ⟨g1, g2, g3, g4, g5, g6⟩ := g
  refine ⟨?_, fun j => (g2 j).trans (h2 j), fun j => (g3 j).trans (h3 j), fun j hj => (g4 j hj).trans (h4 j hj), g5.trans h5,
    fun a => (g6 a).trans (h6 a)⟩
  have e : { u with cores := s.cores, swap := s.swap, net := s.net } =
      { ({ u with cores := t.cores, swap := t.swap, net := t.net } : State) with cores := s.cores, swap := s.swap, net := s.net } := rfl
  rw [e, g1, h1]

theorem State.fabricOnly_setCore (s : State) (k : Nat) (c : CoreSt) (h1 : c.ctl = (s.core k).ctl) (h2 : c.occ = (s.core k).occ) :
    s.fabricOnly (s.setCore k c) k := by
  refine ⟨rfl, fun j => ?_, fun j => ?_, fun j hj => State.core_setCore_other s c hj, rfl, fun _ => rfl⟩
  · by_cases hj : j = k
    · subst hj; simp [State.ctlAt, h1]
    · simp [State.ctlAt, State.core_setCore_other s c hj]
  · by_cases hj : j = k
    · subst hj; simp [h2]
    · simp [State.core_setCore_other s c hj]

theorem State.fabricOnly_setSite (s : State) (k i : Nat) (x : Site) : s.fabricOnly (s.setSite k i x) k :=
  State.fabricOnly_setCore s k _ rfl rfl

theorem State.fabricOnly_setPort (s : State) (k n : Nat) (p : Port) : s.fabricOnly (s.setPort k n p) k :=
  State.fabricOnly_setCore s k _ rfl rfl

theorem State.fabricOnly_setChan (s : State) (k i snk : Nat) (t : List Queued) : s.fabricOnly (s.setChan k i snk t) k :=
  State.fabricOnly_setCore s k _ rfl rfl

theorem State.fabricOnly_countSillage (s : State) (k : Nat) (p : Packet) : s.fabricOnly (s.countSillage p) k := by
  unfold State.countSillage
  split
  · split <;> exact ⟨rfl, fun _ => rfl, fun _ => rfl, fun _ _ => rfl, rfl, fun _ => rfl⟩
  · exact State.fabricOnly_refl s k

theorem State.fabricOnly_sendPacket (s : State) (k : Nat) (p : Packet) : s.fabricOnly (s.sendPacket p) k :=
  State.fabricOnly_trans (State.fabricOnly_countSillage s k p)
    ⟨rfl, fun _ => rfl, fun _ => rfl, fun _ _ => rfl, rfl, fun _ => rfl⟩

theorem State.fabricOnly_push (s : State) (k : Nat) (t : Token) (d : Nat × Nat) : s.fabricOnly (s.push k t d) k := by
  unfold State.push
  split
  · exact State.fabricOnly_setChan ..
  · exact State.fabricOnly_refl s k

theorem State.fabricOnly_pop (s : State) (k i snk : Nat) : s.fabricOnly (s.pop k i snk) k := State.fabricOnly_setChan ..

/-- A property of steps that composes holds of a fold of such steps. -/
theorem State.fabricOnly_foldl {α : Type} {k : Nat} (f : State → α → State) (hf : ∀ (s : State) (x : α), s.fabricOnly (f s x) k) (l : List α) (s : State) :
    s.fabricOnly (l.foldl f s) k := by
  induction l generalizing s with
  | nil => exact State.fabricOnly_refl s k
  | cons x l ih => exact State.fabricOnly_trans (hf s x) (ih (f s x))

theorem State.fabricOnly_emit (s : State) (k i : Nat) (t : Token) (src : Nat) : s.fabricOnly (s.emit k i t src) k := by
  unfold State.emit
  split
  · exact State.fabricOnly_setSite ..
  · exact State.fabricOnly_foldl _ (fun s d => State.fabricOnly_push s k t d) _ s

theorem State.fabricOnly_returnCredit (s : State) (k : Nat) (p : Packet) : s.fabricOnly (s.returnCredit p) k :=
  State.fabricOnly_sendPacket ..

theorem State.fabricOnly_unbound (s : State) (k : Nat) (p : Packet) : s.fabricOnly (s.unbound p) k :=
  State.fabricOnly_trans (t := { s with net := { s.net with unbound := s.net.unbound ++ [s.headerOf p] } })
    ⟨rfl, fun _ => rfl, fun _ => rfl, fun _ _ => rfl, rfl, fun _ => rfl⟩ (State.fabricOnly_sendPacket ..)

theorem State.fabricOnly_sendBinding {s u : State} {k n b : Nat} {t : Token} (h : s.sendBinding k n b t = some u) : s.fabricOnly u k := by
  unfold State.sendBinding at h
  dsimp only at h
  split at h
  · cases h
  · split at h
    · cases h
    · cases h
      exact State.fabricOnly_trans (State.fabricOnly_setPort ..) (State.fabricOnly_sendPacket ..)

theorem State.fabricOnly_enterStr {s u : State} {k : Nat} {p : Packet} (h : s.enterStr k p = some u) : s.fabricOnly u k := by
  unfold State.enterStr at h
  dsimp only at h
  repeat' split at h
  all_goals first
    | cases h; done
    | (cases h; first
        | exact State.fabricOnly_push ..
        | exact State.fabricOnly_unbound ..
        | exact State.fabricOnly_trans (State.fabricOnly_push ..) (State.fabricOnly_returnCredit ..))

theorem State.fabricOnly_releaseHeld (k n : Nat) (l : List Packet) (shut : List (BitVec 4)) (s : State) :
    s.fabricOnly (State.releaseHeld k n l shut s) k := by
  induction l generalizing shut s with
  | nil => exact State.fabricOnly_refl s k
  | cons p l ih =>
    unfold State.releaseHeld
    split
    · exact ih ..
    · split
      · exact ih ..
      · next h => exact State.fabricOnly_trans (State.fabricOnly_enterStr h) (State.fabricOnly_trans (State.fabricOnly_setPort ..) (ih ..))

theorem State.fabricOnly_flushPort (k n : Nat) (l : List (Nat × Token)) (shut : List Nat) (kept : List (Nat × Token)) (s : State) :
    s.fabricOnly (State.flushPort k n l shut kept s).2 k := by
  induction l generalizing shut kept s with
  | nil => exact State.fabricOnly_refl s k
  | cons x l ih =>
    obtain ⟨t, x⟩ := x
    unfold State.flushPort
    split
    · exact ih ..
    · split
      · dsimp only
        split
        · exact State.fabricOnly_trans (State.fabricOnly_foldl _ (fun s d => State.fabricOnly_push s k x d) _ s) (ih ..)
        · exact ih ..
      · split
        · next h => exact State.fabricOnly_trans (State.fabricOnly_sendBinding h) (ih ..)
        · exact ih ..

theorem State.fabricOnly_settlePort (s : State) (k n : Nat) : s.fabricOnly (s.settlePort k n) k := by
  have tail : ∀ (p : Port) (u : State) (kept : List (Nat × Token)), s.fabricOnly u k →
      s.fabricOnly (State.releaseHeld k n p.held [] (if p.outq = kept then u else u.setPort k n { u.port k n with outq := kept })) k := by
    intro p u kept h
    refine State.fabricOnly_trans (State.fabricOnly_trans h ?_) (State.fabricOnly_releaseHeld ..)
    split
    · exact State.fabricOnly_refl ..
    · exact State.fabricOnly_setPort ..
  unfold State.settlePort
  dsimp only
  generalize (s.port k n).restamp (s.timeOf (reticleOf k)) = p
  split
  · next h => simpa [h] using tail p s [] (State.fabricOnly_refl s k)
  · exact tail _ _ _ (State.fabricOnly_flushPort ..)

theorem State.fabricOnly_settleTile (s : State) (k i : Nat) : s.fabricOnly (s.settleTile k i) k := by
  refine State.fabricOnly_foldl _ (fun s n => ?_) _ s
  split
  · exact State.fabricOnly_refl s k
  · dsimp only
    split
    · exact State.fabricOnly_trans (State.fabricOnly_setSite ..) (State.fabricOnly_foldl _ (fun s d => State.fabricOnly_push s k _ d) _ _)
    · exact State.fabricOnly_refl s k

/-- What settling changes: the fabric of its core and the network. -/
theorem State.fabricOnly_settle (s : State) (k : Nat) : s.fabricOnly (s.settle k) k := by
  refine State.fabricOnly_trans ?_ (State.fabricOnly_foldl _ (fun s n => State.fabricOnly_setPort ..) _ _)
  refine State.fabricOnly_trans ?_ (State.fabricOnly_foldl _ (fun s i => State.fabricOnly_setSite ..) _ _)
  refine State.fabricOnly_trans ?_ (State.fabricOnly_foldl _ (fun s n => State.fabricOnly_settlePort s k n) _ _)
  exact State.fabricOnly_foldl _ (fun s i => State.fabricOnly_settleTile s k i) _ _

/-! ## A firing -/

theorem State.fabricOnly_setNtile (s : State) (t : CTile) : s.fabricOnly (s.setNtile t) s.nk := State.fabricOnly_setSite ..

theorem State.fabricOnly_writeDst (s : State) (d : Dst) (keep : Bool) (r : Res) : s.fabricOnly (s.writeDst d keep r) s.nk := by
  cases d with
  | v n => exact State.fabricOnly_setNtile ..
  | p => exact State.fabricOnly_setNtile ..
  | o n => exact State.fabricOnly_emit ..

theorem State.fabricOnly_popData (s : State) (k snk : Nat) (h : s.nk = k) : s.fabricOnly (s.popData snk) k := by
  subst h
  unfold State.popData
  split
  · split
    · exact State.fabricOnly_refl ..
    · exact State.fabricOnly_pop ..
  · exact State.fabricOnly_refl ..

theorem State.fabricOnly_nk {s t : State} {k : Nat} (h : s.fabricOnly t k) : t.curNode = s.curNode := by
  have := congrArg State.curNode h.1
  exact this

theorem State.fabricOnly_popAll (l : List Nat) (s : State) (k : Nat) (h : s.nk = k) : s.fabricOnly (l.foldl State.popData s) k := by
  induction l generalizing s with
  | nil => exact State.fabricOnly_refl s k
  | cons x l ih =>
    have h1 := State.fabricOnly_popData s k x h
    exact State.fabricOnly_trans h1 (ih _ (by rw [State.nk, State.fabricOnly_nk h1]; exact h))

theorem State.fabricOnly_endFiring (s : State) : s.fabricOnly s.endFiring s.nk :=
  State.fabricOnly_trans (State.fabricOnly_setNtile ..) (State.fabricOnly_popAll _ _ _ rfl)

theorem State.fabricOnly_nextSlot (s : State) : s.fabricOnly s.nextSlot s.nk := by
  unfold State.nextSlot
  dsimp only
  split
  · exact State.fabricOnly_setNtile ..
  · exact State.fabricOnly_trans (State.fabricOnly_setNtile ..) (State.fabricOnly_endFiring _)

theorem State.fabricOnly_issueMicro (s : State) (out : Option (BitVec 2)) (f : State → State) (hf : s.fabricOnly (f s) s.nk) :
    s.fabricOnly (s.issueMicro out f) s.nk := by
  unfold State.issueMicro
  dsimp only
  repeat' split
  all_goals first
    | exact hf
    | exact State.fabricOnly_nextSlot s
    | exact State.fabricOnly_refl ..

/-- Everything a micro-op that writes one result may change. -/
theorem State.fabricOnly_micro (s : State) (d : Dst) (keep : Bool) (r : State → Res) : s.fabricOnly (s.micro d keep r) s.nk := by
  have h1 : s.fabricOnly (s.writeDst d keep (r s)).nextSlot s.nk := by
    have h := State.fabricOnly_writeDst s d keep (r s)
    have e : (s.writeDst d keep (r s)).nk = s.nk := by rw [State.nk, State.fabricOnly_nk h]; rfl
    exact State.fabricOnly_trans h (e ▸ State.fabricOnly_nextSlot _)
  exact State.fabricOnly_trans (State.fabricOnly_issueMicro s _ _ h1) (State.fabricOnly_settle ..)

/-- A micro-op that its firing issues writes its result and goes on (R363, R366). -/
theorem State.micro_of_issuesTo {s : State} {d : Dst} (keep : Bool) (r : State → Res) (h : s.issuesTo (dstOut d)) :
    s.micro d keep r = s.wroteMicro d keep (r s) := by
  unfold State.issuesTo at h
  unfold State.micro State.wroteMicro State.issueMicro
  cases e : dstOut d with
  | none =>
    rw [e] at h
    dsimp only at h
    simp [h]
  | some o =>
    rw [e] at h
    obtain ⟨h1, h2⟩ := h
    dsimp only
    rcases h1 with h1 | h1 <;> rw [h1, h2] <;> simp

end Sys2Proof.Machine
end

