-- ==== Sys2Proof/Laws/Ops.lean ====
section
/-! SUPPORT. What the shared operations of the control core do, said once: waiting at issue, a result, a jump, and a trap. -/

set_option Elab.async false

namespace Sys2Proof.Machine

/-- An instruction whose registers are ready takes its effect (R316). -/
theorem State.whenReady_of_ready {s : State} {rs : List Reg} (f : State → State) (h : s.ready rs) : s.whenReady rs f = f s := by
  have : rs.any s.isPending = false := by simpa [List.any_eq_false, State.ready] using h
  simp [State.whenReady, this]

/-- An instruction that names a pending register waits, and nothing changes (R316). -/
theorem State.whenReady_of_pending {s : State} {rs : List Reg} (f : State → State) (h : ∃ r ∈ rs, s.isPending r = true) :
    s.whenReady rs f = s := by
  have : rs.any s.isPending = true := List.any_eq_true.2 h
  simp [State.whenReady, this]

theorem State.byte_setCtl (s : State) (c : Ctl) (a : Nat) : (s.setCtl c).byte a = s.byte a := rfl

/-- A write of the control core whose turn it is changes nothing else of the machine. -/
theorem State.onlyCtl_setCtl (s : State) (c : Ctl) : s.onlyCtl (s.setCtl c) := by
  refine ⟨fun k hk => State.core_setCore_other s _ hk, ?_, rfl, fun _ => rfl⟩
  simp [State.setCtl, State.setCtlAt, State.ctl, State.ctlAt]

/-- What a write of registers and pc together does. -/
theorem State.wrote_setCtl (s : State) (d : Reg) (v p : Word) :
    s.wrote (s.setCtl { s.ctl with r := { s.cr with s := (s.cr.put d v).s, pc := p } }) d v p := by
  obtain ⟨h1, h2, h3⟩ := State.onlyCtl_setCtl s { s.ctl with r := { s.cr with s := (s.cr.put d v).s, pc := p } }
  refine ⟨⟨fun n => ?_, ?_, ?_, ?_, h2, h1⟩, h3⟩
  · have := CtlRegs.get_put s.cr d n v
    simp only [State.regsWith, State.reg, State.cr, State.ctl_setCtl]
    exact this
  · simp [State.pc, State.cr]
  · simp only [State.cr, State.ctl_setCtl]; rfl
  · simp [State.cr]

/-- The end of every instruction that only computes (R318). -/
theorem State.wrote_result (s : State) (d : Reg) (v : Word) : s.wrote (s.result d v) d v (s.pc + 4) := by
  rw [(State.result_spec s d v).2.2]
  exact State.wrote_setCtl s d v _

theorem State.setCr_eq (s : State) (r : CtlRegs) : s.setCr r = s.setCtl { s.ctl with r := r } := rfl

/-- Going on elsewhere writes the pc and nothing else. -/
theorem State.wrote_setPc (s : State) (p : Word) : s.wrote (s.setPc p) 0 0 p := by
  have h := State.wrote_setCtl s 0 0 p
  simpa [State.setPc, State.setCr, CtlRegs.put] using h

theorem State.setCtl_setCtl (s : State) (c d : Ctl) : (s.setCtl c).setCtl d = s.setCtl d := by
  simp [State.setCtl, State.setCtlAt, State.setCore, State.core, State.me, tabPut_tabPut]

/-- A link and a jump (R333). -/
theorem State.wrote_link (s : State) (d : Reg) (v p : Word) : s.wrote ((s.setReg d v).setPc p) d v p := by
  have h := State.wrote_setCtl s d v p
  have e : (s.setReg d v).setPc p = s.setCtl { s.ctl with r := { s.cr with s := (s.cr.put d v).s, pc := p } } := by
    simp only [State.setPc, State.setReg, State.setCr, State.cr, State.ctl_setCtl, State.setCtl_setCtl]
    rw [CtlRegs.put_rest]
  rw [e]; exact h

theorem State.compute3_spec {s : State} {d a b : Reg} (f : Word → Word → Word) (h : s.ready [d, a, b]) :
    s.compute3 d a b f = s.result d (f (s.reg a) (s.reg b)) := State.whenReady_of_ready _ h

theorem State.compute2_spec {s : State} {d a : Reg} (f : Word → Word) (h : s.ready [d, a]) :
    s.compute2 d a f = s.result d (f (s.reg a)) := State.whenReady_of_ready _ h

theorem State.branchIf_spec {s : State} {a b : Reg} (off : BitVec 16) (f : Word → Word → Bool) (h : s.ready [a, b]) :
    s.branchIf a b off f = s.setPc (if f (s.reg a) (s.reg b) then s.pc + 4 * off.signExtend 64 else s.pc + 4) := by
  rw [State.branchIf, State.whenReady_of_ready _ h]
  split <;> rfl

/-- Everything a trap of a user core does (R353, R354). -/
theorem State.trap_user (s : State) (cause : Nat) (val pc : Word) (h : s.firmware = false) :
    s.trapped (s.trap cause val pc) cause val pc .stopped s.cr.inTrap s.pc := by
  have hf : (s.ctlAt s.me).r.firmware = false := h
  have e : s.trap cause val pc = s.setCtl { s.ctl with r := s.cr.trapped cause val pc, run := .stopped, wait := .none } := by
    simp [State.trap, State.trapAt, hf, State.setCtl, State.ctl, State.cr]
  rw [e]
  refine ⟨?_, ?_, ?_, ?_, ?_, ?_, fun n => ?_, ?_, ?_, State.onlyCtl_setCtl s _⟩ <;>
    simp [State.cr, State.pc, State.reg, CtlRegs.trapped, CtlRegs.get]

/-- Everything a trap of die firmware outside a handler does (R353, R355). -/
theorem State.trap_hub (s : State) (cause : Nat) (val pc : Word) (h : s.firmware = true) (ht : s.cr.inTrap = false) :
    s.trapped (s.trap cause val pc) cause val pc s.ctl.run true 0x40 := by
  have hf : (s.ctlAt s.me).r.firmware = true := h
  have hi : (s.ctlAt s.me).r.inTrap = false := ht
  have e : s.trap cause val pc =
      s.setCtl { s.ctl with r := { s.cr.trapped cause val pc with inTrap := true, pc := 0x40 }, wait := .none } := by
    simp [State.trap, State.trapAt, hf, hi, State.setCtl, State.ctl, State.cr]
  rw [e]
  refine ⟨?_, ?_, ?_, ?_, ?_, ?_, fun n => ?_, ?_, ?_, State.onlyCtl_setCtl s _⟩ <;>
    simp [State.cr, State.pc, State.reg, CtlRegs.trapped, CtlRegs.get]

/-- A trap of die firmware inside a handler restarts the die's firmware (R355). -/
theorem State.trap_nested (s : State) (cause : Nat) (val pc : Word) (h : s.firmware = true) (ht : s.cr.inTrap = true) :
    s.trap cause val pc = s.dieRestart (BitVec.ofNat 3 (s.me / 16)) := by
  have hf : (s.ctlAt s.me).r.firmware = true := h
  have hi : (s.ctlAt s.me).r.inTrap = true := ht
  simp [State.trap, State.trapAt, hf, hi]

/-- What a fault of the instruction in progress does, in each mode (R206, R353 to R355). -/
theorem State.faulted_faultTrap (s : State) (cause : Nat) (val : Word) : s.faulted (s.faultTrap cause val) cause val := by
  unfold State.faulted State.faultTrap
  cases h : s.firmware with
  | false => simpa using State.trap_user s cause val s.pc h
  | true =>
    cases ht : s.cr.inTrap with
    | false => simpa using State.trap_hub s cause val s.pc h ht
    | true => simpa using State.trap_nested s cause val s.pc h ht

end Sys2Proof.Machine
end

