-- ==== Sys2Proof/Machine/Registers.lean ====
section
/-! DEFINITION. What a read of a register returns (R6): the host's of BAR 0, BAR 2 and the VSEC, and die firmware's of its configuration window.
A WO field and a reserved bit read as zero. A read of ECCSTAT or TMNOWLO has an effect too, which its own event brings about. -/

namespace Sys2Proof.Machine

/-- The byte at an offset of a window that is given by its 8-byte registers. -/
def regByte (reg : Nat → Word) (a : Nat) : Byte := BitVec.ofNat 8 (bits (reg (a / 8 * 8)) (8 * (a % 8) + 7) (8 * (a % 8)))

/-- `n` bytes from an offset of such a window. -/
def windowBytes (reg : Nat → Word) (a n : Nat) : List Byte := (List.range n).map (fun i => regByte reg (a + i))

/-! ## The host's windows (R33, R42, R44, R45, R62, R64, R94, R100) -/

/-- BAR 0: the tail last recorded for a queue, and zero from 0x2000 upwards (R44). -/
def State.bar0Reg (s : State) (a : Nat) : Word := if a < 0x2000 then tabGet 0 s.host.tails (a / 8) else 0

/-- The interleave registers, zero until boot writes them (R33). -/
def State.ilvReg (s : State) (a : Nat) : Word :=
  let t := s.boot.test
  if !s.boot.dtValid then 0
  else if a = 0 then BitVec.ofNat 64 (t.ilvN + t.ilvM * 2 ^ 16 + t.ilvG * 2 ^ 32)
  else if a = 8 then BitVec.ofNat 64 s.hbmTop
  else if a < 0x400 then 0
  else bytesWord ((List.range 8).map (fun i => BitVec.ofNat 8 (t.stacks.getD ((a - 0x400 + i) % t.ilvN) 0)))

/-- The time unit's registers; TMSTEP is write only (R64). -/
def State.timeReg (s : State) (a : Nat) : Word :=
  let t := s.time
  match a with
  | 0x00 => BitVec.ofNat 64 (bits (s.timeOf 0) 63 0)
  | 0x08 => t.nowHi.setWidth 64
  | 0x10 => t.rate
  | 0x20 => BitVec.ofNat 64 ((if t.lock then 1 else 0) + t.srcPort.toNat * 2 ^ 8 + t.skew.toNat * 2 ^ 16)
  | _ => 0

/-- BAR 2, whose map die firmware reaches too: every offset outside the listed ranges reads as zero (R45). -/
def State.bar2Reg (s : State) (a : Nat) : Word :=
  if a < 0x10000 then bytesWord (s.bytes (Loc.key (.dt a)) 8)
  else if a < 0x10800 then s.ilvReg (a - 0x10000)
  else if 0x100000 ≤ a ∧ a < 0x100900 then
    let l := s.eccLog ((a - 0x100000) / 16)
    if a % 16 = 0 then l.word else l.addr
  else if 0x200000 ≤ a ∧ a < 0x200040 then s.timeReg (a - 0x200000)
  else if 0x400000 ≤ a ∧ a < 0x400400 then (s.eth ((a - 0x400000) / 0x40)).counters.getD (a % 0x40 / 8) 0
  else if 0x800000 ≤ a ∧ a < 0x1000000 then
    BitVec.ofNat 64 (fieldAt (tabGet [] (s.eth ((a - 0x800000) / 0x80000)).flows (a % 0x80000 / 0x80)) (a % 0x80) 8)
  else 0

/-- The device's VSEC: a PCIe extended capability header, the VSEC header with ID 0x0001 and revision 1, BOOTSTAT, WARM, which is write only,
MAXTEMP and QTBASE (R94, R100; the headers' layout is PCIe's, assumption 97, PRESUMED). -/
def State.vsecReg (s : State) (a : Nat) : Word :=
  match a with
  | 0x00 => BitVec.ofNat 64 (0x0001000B + (0x0001 + 1 * 2 ^ 16 + 0x20 * 2 ^ 20) * 2 ^ 32)
  | 0x08 => BitVec.ofNat 64 (s.boot.stage.toNat + s.boot.code.toNat * 2 ^ 8)
  | 0x10 => s.boot.maxTemp.setWidth 64
  | 0x18 => s.host.qtBase
  | _ => 0

/-! ## Die firmware's window (R98, R119, R140, R202, R226, R354) -/

/-- The monitors (R98). -/
def State.monReg (s : State) (a : Nat) : Word :=
  if a < 0x400 then BitVec.ofNat 64 ((tabGet 0 s.mon.temp (a / 8)).toNat + (if s.mon.tvalid.getLsbD (a / 8) then 2 ^ 16 else 0))
  else if a < 0x440 then (tabGet 0 s.mon.vdie ((a - 0x400) / 8)).setWidth 64
  else if a < 0x4C0 then (tabGet 0 s.mon.vstk ((a - 0x440) / 8)).setWidth 64
  else if a < 0x500 then (tabGet 0 s.mon.pmon ((a - 0x4C0) / 8)).setWidth 64
  else if a < 0x540 then (s.thr ((a - 0x500) / 8)).setWidth 64
  else 0

/-- The pool's parameters (R119). -/
def State.poolReg (s : State) (a : Nat) : Word :=
  match a with
  | 0x00 => s.sched.resvAge.setWidth 64
  | 0x08 => s.sched.ageStep.setWidth 64
  | 0x10 => s.sched.preemptAge.setWidth 64
  | 0x18 => BitVec.ofNat 64 (s.poolFree + (if s.sched.paused then 2 ^ 15 else 0))
  | _ => 0

/-- The arbiter of a die (R140). -/
def State.arbReg (s : State) (d a : Nat) : Word :=
  let r := s.arbiter d
  if a = 0 then (if r.en then 1 else 0)
  else if a = 8 then r.period.setWidth 64
  else if a = 0x10 then r.hyst.setWidth 64
  else if a = 0x18 then BitVec.ofNat 64 (r.freeze.toNat + r.elig.toNat * 2 ^ 8 + r.maxP.toNat * 2 ^ 16)
  else if a = 0x20 then r.inst
  else if a = 0x28 then r.doneCnt
  else if a = 0x30 then r.claimed.setWidth 64
  else if 0x80 ≤ a ∧ a < 0x100 then
    match (s.core (16 * d + (a - 0x80) / 8)).occ with
    | some o => BitVec.ofNat 64 (o.age.toNat + o.frozen.toNat * 2 ^ 4)
    | none => 0
  else if 0x100 ≤ a ∧ a < 0x500 then
    let sill : Nat → Nat := fun j => (tabGet 0 s.swap.sill ((16 * d + (a - 0x100) / 0x40) * 16 + (a % 0x40 / 4 + j))).toNat
    BitVec.ofNat 64 (sill 0 + sill 1 * 2 ^ 32)
  else 0

/-- A fault record (R202). -/
def FaultRec.reg (f : FaultRec) (a : Nat) : Word :=
  match a with
  | 0x00 =>
    BitVec.ofNat 64 ((if f.valid then 1 else 0) + f.cause.toNat * 2 ^ 8 + f.sp.toNat * 2 ^ 16 + f.acc.toNat * 2 ^ 18 + f.round.toNat * 2 ^ 20)
  | 0x08 => f.unit
  | 0x10 => f.va
  | _ => 0

/-- The record of an engine's slot: a copy's that holds a fault, else a gather's. -/
def State.engRecord (s : State) (ret slot : Nat) : FaultRec :=
  match s.engOp true ret slot, s.engOp false ret slot with
  | some e, g => if e.fault.valid then e.fault else match g with | some h => h.fault | none => e.fault
  | none, some h => h.fault
  | none, none => FaultRec.clear

/-- The merge registers of a slice (R226). -/
def State.mergeReg (s : State) (n a : Nat) : Word :=
  let u := tabGet MergeUnit.reset s.net.merges n
  match a with
  | 0x00 => u.win.setWidth 64
  | 0x08 => u.lead
  | 0x10 => u.follow
  | 0x18 => u.alone
  | _ => 0

/-- The registers of a stopped core (R354). -/
def State.stopReg (s : State) (k a : Nat) : Word :=
  let c := s.ctlAt k
  match a with
  | 0x00 => BitVec.ofNat 64 (c.r.trapCause.toNat + (if c.run = .stopped then 2 ^ 8 else 0))
  | 0x08 => c.r.trapPc
  | 0x10 => c.r.trapVal
  | _ => 0

/-- Die firmware's configuration window: BAR 2's map and what lies beyond it (R45). -/
def State.fwReg (s : State) (a : Nat) : Word :=
  if a < 0x2000000 then s.bar2Reg a
  else if a < 0x2100000 then s.monReg (a - 0x2000000)
  else if a < 0x2200000 then s.poolReg (a - 0x2100000)
  else if a < 0x2208000 then s.arbReg ((a - 0x2200000) / 0x1000) (a % 0x1000)
  else if 0x2300000 ≤ a ∧ a < 0x2340000 then
    if a % 0x800 < 0x400 then (s.port ((a - 0x2300000) / 0x800) (a % 0x800 / 0x40)).fault.reg (a % 0x40) else 0
  else if 0x2400000 ≤ a ∧ a < 0x2404000 then (s.engRecord ((a - 0x2400000) / 0x1000) (a % 0x1000 / 0x40)).reg (a % 0x40)
  else if 0x2500000 ≤ a ∧ a < 0x2501000 then s.mergeReg ((a - 0x2500000) / 0x100) (a % 0x100)
  else if 0x2600000 ≤ a ∧ a < 0x2608000 then s.stopReg ((a - 0x2600000) / 0x100) (a % 0x100)
  else 0

/-- What a read of `n` bytes at an offset of a window returns. -/
def State.readWindow (s : State) (w : Window) (a n : Nat) : List Byte :=
  match w with
  | .bar2 => if a < 0x2000000 then windowBytes s.bar2Reg a n else List.replicate n 0
  | .vsec => windowBytes s.vsecReg a n
  | .firmware => windowBytes s.fwReg a n

end Sys2Proof.Machine
end

