-- ==== Sys2Proof/Tests/Slice0.lean ====
section
/-! SUPPORT. Tests of the model: terms that are not well formed, words of every row of the opcode table written from the encodings, the values that
the spec works out, and for every statement of Certificates/Slice0/Obligations.lean states and operands that meet its hypotheses. -/

set_option Elab.async false

namespace Sys2Proof.Tests

open Sys2Proof Sys2Proof.Machine

/-! ## Ill-formed instructions are refused -/

/-- One ill-formed instruction for each check of `Instr.wf` (R302, R305 and the rules that `Instr.wf` names). -/
def illFormed : List Instr :=
  [.ld 1 2 .fe .w 0, .st 1 2 .fe .b 0, .ldx 1 2 .fe .w .g 0, .ldx 1 2 .sc .d .v 0, .ldx 1 2 .fe .d .t 0, .stx 1 2 .fe .h .g 0,
   .stx 1 2 .sc .d .t 0, .amoAdd 1 2 .fe true 0, .amoAnd 1 2 .fe true 0, .amoOr 1 2 .fe true 0, .amoXor 1 2 .fe true 0,
   .amoMin 1 2 .fe true 0, .amoMax 1 2 .fe true 0, .amoMinu 1 2 .fe true 0, .amoMaxu 1 2 .fe true 0, .amoXchg 1 2 .fe true 0,
   .amoFadd 1 2 .fe 0, .amoFabsmax 1 2 .fe 0, .cas 1 2 .fe 3 true 0, .cas16 2 1 .fe 4 0, .cas16 3 1 .plain 4 0, .cas16 2 1 .plain 5 0,
   .fcvt 1 2 .raw .f32 .rne, .fcvt 1 2 .f32 .vq2 .rne, .scalex 1 2 .f32 .rne, .mark 1 2 0 0, .mark 1 2 7 0, .mark 1 2 12 0,
   .bar 1 2 3 0 0, .sprint 1 2 3 false 0 0, .ckpt 1 3, .vred (.v 0) (.v 1) .iadd false (.rm .rtz), .vscan (.v 0) (.v 1) .fmax false .tile,
   .vcvt (.v 0) (.v 1) .e8m0 .f32 false .tile, .vcvt (.v 0) (.v 1) .f32 .raw false .tile, .vqnt (.v 0) (.v 1) (.v 2) .bf16 false .tile,
   .vdq (.v 0) (.v 1) (.v 2) .f32 false .tile, .mma 0 1 .f16 .e4m3 false false, .mma 0 1 .bf16 .bf16 true false, .mout 0 0 0 .i32 .tile,
   .contend .p (.v 0) (.v 1) 0 false 0, .rqst .p (.v 0)]

theorem test_ill_formed : illFormed.all (fun i => !i.wf) = true := by decide

/-- R291 to R302: words that the checks of step 1 refuse, among them `ld.w.fe`, an AMO of AOP 9 with SZ 1, an ADD with fn [6:5] not zero, a
scope beside ord 0, an opcode that is reserved, CAS16 of an odd register and MARK of kind 7. -/
theorem test_refused_words :
    [0x00000000, 0x0400_0020, 0x4000_C400, 0x40C5_2E00, 0x50C2_04C0, 0x5820_0080, 0x9006_7000, 0xB4000000, 0xE0000000, 0xFFFFFFFF].all
      (fun w => (decode w).isNone) = true := by decide +kernel

/-! ## Words that the spec works out -/

/-- The words of R302, R324, R336 to R361. -/
theorem test_spec_words :
    ([(0x05634000, .add 11 3 8), (0x2621C2C8, .liz 17 1 0xC2C8), (0x2DCE1B08, .fcvt 14 14 .f32 .e4m3 .rne), (0x40C56E00, .ld 6 5 (.sync 5) .d 0),
      (0x49260680, .ldx 9 6 .plain .d .v 0), (0x52456840, .amoAdd 18 5 (.sync 5) true 0), (0x70C7FFFF, .bltu 6 7 0xFFFF), (0x80052000, .stream 5 2),
      (0x8CFFF03F, .wait 63 63 0 63), (0xCC400002, .mfs 2 2), (0xC0000000, .sysc 0), (0x40000000, .ld 0 0 .plain .b 0), (0x21060001, .shli 8 6 1),
      (0x206300BF, .srai 3 3 63), (0x0DCE7FFF, .andi 14 14 0x7FFF), (0x2E718006, .fmax 19 17 16 .rne), (0x2E941908, .fcvt 20 20 .f32 .i32 .rne),
      (0x2DEA030A, .scalex 15 10 .e4m3 .rne), (0x44C20600, .st 6 2 .plain .d 0), (0x42EE0401, .ld 23 14 .plain .w 1),
      (0x54826961, .cas 4 2 (.sync 5) 5 true 1), (0x50C20500, .amoFabsmax 6 2 .plain 0), (0x8CFFFFC0, .wait 63 63 63 0), (0x84020000, .gather 2),
      (0x88021000, .copyMc 2), (0x88030000, .copyMem 3), (0x91289003, .mark 9 8 9 3), (0x90060007, .markEor 0 6 7), (0x94E41010, .bar 7 4 1 2 0),
      (0x99200002, .cfgreq 9 2), (0xA14B3005, .send 10 11 3 5), (0xA4003015, .cmask 3 true 5), (0xA9800000, .tstamp 12), (0xAC0D0001, .ckpt 13 1),
      (0xB0850000, .tinv 4 5), (0xB0800001, .tinvAll 4 0), (0xC4030007, .trap 3 7), (0xC8000000, .rte), (0xD2C00041, .mts 22 0x041),
      (0xD4200003, .wfe 1 3), (0xD8000000, .halt), (0xDC000042, .bkpt 0x42)] : List (Nat × Instr)).all
      (fun c => decode c.1 == some c.2 && encode c.2 == some c.1) = true := by decide +kernel

/-- The micro-op words that the encodings and the matrix example work out (R305, R306, R387 to R392). -/
theorem test_spec_micro_words :
    ([(0x0188C005, .vadd (.o 0) (.i 0) (.k 0) false false .tile), (0x2488C000, .vand (.o 0) (.i 0) (.k 0) false),
      (0x0331A001, .vmul (.v 3) (.v 1) (.i 2) false false (.rm .rtz)), (0x0408D005, .vfma (.v 0) (.i 0) (.k 1) (.v 0) false false .tile),
      (0x0111800D, .vadd (.v 1) (.v 1) (.i 0) false true .tile), (0x20229001, .viadd (.v 2) (.v 2) (.i 1) false true),
      (0x40C8C010, .vcmp .p (.i 0) (.k 0) .f32 1 false), (0x50820360, .vcvt (.o 0) (.v 2) .f32 .e4m3 false (.rm .rne)),
      (0x51809065, .vqnt (.o 0) (.v 0) (.i 1) .e4m3 false .tile), (0x7098CD10, .seq 1 (.i 0) (.k 0) (.k 1) true),
      (0x72A9E033, .contend (.o 2) (.i 1) (.k 2) 3 false 3), (0x73484000, .crc64 (.v 4) (.i 0) (.v 4)), (0x7782F020, .emit 0 (.v 2) (.k 3) .i32 false),
      (0x785C0000, .rqst (.v 5) (.k 0)), (0x62098000, .mldb 1 0 .line), (0x60098660, .mma 1 0 .e4m3 .e4m3 false false),
      (0x61800035, .mout 0 0 0 .f32 .tile)] : List (Nat × Instr)).all
      (fun c => decodeMicro c.1 == some c.2 && encode c.2 == some c.1) = true := by decide +kernel

/-! ## A word of every constructor that has one

Each word is the row's fixed bits of spec/opcode_table.json with distinct values in its fields. -/


def aluWords : List (Nat × Instr) :=
  [(0x06EE4800, .add 23 14 9), (0x06EE4801, .sub 23 14 9), (0x06EE4802, .and 23 14 9), (0x06EE4803, .or 23 14 9),
   (0x06EE4804, .xor 23 14 9), (0x06EE4805, .shl 23 14 9), (0x06EE4806, .shr 23 14 9), (0x06EE4807, .sra 23 14 9),
   (0x06EE4808, .slt 23 14 9), (0x06EE4809, .sltu 23 14 9), (0x06EE480A, .min 23 14 9), (0x06EE480B, .max 23 14 9),
   (0x06EE480C, .minu 23 14 9), (0x06EE480D, .maxu 23 14 9), (0x06EE480E, .mul 23 14 9), (0x06EE480F, .mulh 23 14 9),
   (0x06EE4810, .mulhu 23 14 9), (0x06EE4811, .div 23 14 9), (0x06EE4812, .divu 23 14 9), (0x06EE4813, .rem 23 14 9),
   (0x06EE4814, .remu 23 14 9), (0x06EE0015, .clz 23 14), (0x06EE0016, .ctz 23 14), (0x06EE0017, .popc 23 14),
   (0x06EE0018, .bswap 23 14), (0x06EE4859, .lea 23 14 9 2)]

theorem test_decode_alu : aluWords.all (fun c => decode c.1 == some c.2) = true := by decide +kernel

def immediateWords : List (Nat × Instr) :=
  [(0x0AEEC35A, .addi 23 14 0xC35A), (0x0EEEC35A, .andi 23 14 0xC35A), (0x12EEC35A, .ori 23 14 0xC35A),
   (0x16EEC35A, .xori 23 14 0xC35A), (0x1AEEC35A, .slti 23 14 0xC35A), (0x1EEEC35A, .sltiu 23 14 0xC35A),
   (0x22EE002B, .shli 23 14 0x2B), (0x22EE006B, .shri 23 14 0x2B), (0x22EE00AB, .srai 23 14 0x2B),
   (0x26E2C35A, .liz 23 2 0xC35A), (0x2AE2C35A, .lik 23 2 0xC35A)]

theorem test_decode_immediate : immediateWords.all (fun c => decode c.1 == some c.2) = true := by decide +kernel

def fpuWords : List (Nat × Instr) :=
  [(0x2EEE4830, .fadd 23 14 9 .rup), (0x2EEE4841, .fsub 23 14 9 .rna), (0x2EEE4812, .fmul 23 14 9 .rtz),
   (0x2EEE4823, .fdiv 23 14 9 .rdn), (0x2EEE0034, .fsqrt 23 14 .rup), (0x2EEE4845, .fmin 23 14 9 .rna),
   (0x2EEE4816, .fmax 23 14 9 .rtz), (0x2EEE4927, .fcmp 23 14 9 .le .rdn), (0x2EEE2A38, .fcvt 23 14 .f16 .bf16 .rup),
   (0x2EEE0049, .fclass 23 14 .rna), (0x2EEE041A, .scalex 23 14 .e2m1 .rtz)]

theorem test_decode_fpu : fpuWords.all (fun c => decode c.1 == some c.2) = true := by decide +kernel

def memoryWords : List (Nat × Instr) :=
  [(0x42EE6D55, .ld 23 14 (.sync 5) .w 0x155), (0x46EE6D55, .st 23 14 (.sync 5) .w 0x155),
   (0x4AEE6CCD, .ldx 23 14 (.sync 5) .w .v 0x4D), (0x4EEE6CCD, .stx 23 14 (.sync 5) .w .v 0x4D),
   (0x52EE686B, .amoAdd 23 14 (.sync 5) true 0x2B), (0x52EE68EB, .amoAnd 23 14 (.sync 5) true 0x2B),
   (0x52EE696B, .amoOr 23 14 (.sync 5) true 0x2B), (0x52EE69EB, .amoXor 23 14 (.sync 5) true 0x2B),
   (0x52EE6A6B, .amoMin 23 14 (.sync 5) true 0x2B), (0x52EE6AEB, .amoMax 23 14 (.sync 5) true 0x2B),
   (0x52EE6B6B, .amoMinu 23 14 (.sync 5) true 0x2B), (0x52EE6BEB, .amoMaxu 23 14 (.sync 5) true 0x2B),
   (0x52EE6C6B, .amoXchg 23 14 (.sync 5) true 0x2B), (0x52EE6CAB, .amoFadd 23 14 (.sync 5) 0x2B),
   (0x52EE6D2B, .amoFabsmax 23 14 (.sync 5) 0x2B), (0x56EE6CB3, .cas 23 14 (.sync 5) 18 true 0x13),
   (0x5ACE6A93, .cas16 22 14 (.sync 5) 10 0x13), (0x5C001800, .fenceAcq 3), (0x5C005800, .fenceRel 3),
   (0x5C009800, .fenceAr 3), (0x5C00D800, .fenceFull 3)]

theorem test_decode_memory : memoryWords.all (fun c => decode c.1 == some c.2) = true := by decide +kernel

def branchWords : List (Nat × Instr) :=
  [(0x62EEC35A, .beq 23 14 0xC35A), (0x66EEC35A, .bne 23 14 0xC35A), (0x6AEEC35A, .blt 23 14 0xC35A),
   (0x6EEEC35A, .bge 23 14 0xC35A), (0x72EEC35A, .bltu 23 14 0xC35A), (0x76EEC35A, .bgeu 23 14 0xC35A),
   (0x7AFA5C35, .jal 23 0x1A5C35), (0x7EEEC35A, .jalr 23 14 0xC35A)]

theorem test_decode_branch : branchWords.all (fun c => decode c.1 == some c.2) = true := by decide +kernel

def engineWords : List (Nat × Instr) :=
  [(0x8017B000, .stream 23 11), (0x84170000, .gather 23), (0x88170000, .copyMem 23), (0x88171000, .copyMc 23),
   (0x8CAEBAEB, .wait 0x2B 0x2B 0x2B 0x2B), (0x92EE9A5C, .mark 23 14 9 0xA5C), (0x92EE0006, .markEor 23 14 6),
   (0x96EEB015, .bar 23 14 11 2 5), (0x9AE00006, .cfgreq 23 6), (0x9EEEB6A7, .sprint 23 14 11 true 2 0xA7),
   (0x9EE0B8A7, .sprintLsn 23 11 0xA7), (0xA2EEB00B, .send 23 14 11 11), (0xA400B01B, .cmask 11 true 11),
   (0xAAE00000, .tstamp 23), (0xAC170001, .ckpt 23 1), (0xB2EE0000, .tinv 23 14), (0xB2EE0001, .tinvAll 23 14)]

theorem test_decode_engine : engineWords.all (fun c => decode c.1 == some c.2) = true := by decide +kernel

def systemWords : List (Nat × Instr) :=
  [(0xC000C35A, .sysc 0xC35A), (0xC417C35A, .trap 23 0xC35A), (0xC8000000, .rte), (0xCEE00041, .mfs 23 0x41),
   (0xD2E00041, .mts 23 0x41), (0xD6E00025, .wfe 23 0x25), (0xD8000000, .halt), (0xDC00C35A, .bkpt 0xC35A)]

theorem test_decode_system : systemWords.all (fun c => decode c.1 == some c.2) = true := by decide +kernel

def floatingWords : List (Nat × Instr) :=
  [(0x01A9E01C, .vadd (.o 2) (.i 1) (.k 2) true true (.rm .rna)),
   (0x0269E019, .vsub (.v 6) (.i 1) (.k 2) true true (.rm .rtz)), (0x03C9E01D, .vmul .p (.i 1) (.k 2) true true .tile),
   (0x0469E31B, .vfma (.v 6) (.i 1) (.k 2) (.v 3) true true (.rm .rup)),
   (0x05A9E01C, .vmin (.o 2) (.i 1) (.k 2) true true (.rm .rna)), (0x0669E01D, .vmax (.v 6) (.i 1) (.k 2) true true .tile),
   (0x07A9001A, .vabs (.o 2) (.i 1) true true (.rm .rdn)), (0x08C9001B, .vneg .p (.i 1) true true (.rm .rup)),
   (0x09A9001D, .vrcp (.o 2) (.i 1) true true .tile), (0x0A690019, .vrsq (.v 6) (.i 1) true true (.rm .rtz)),
   (0x0BA9001A, .vsqrt (.o 2) (.i 1) true true (.rm .rdn)), (0x0C69001D, .vexp2 (.v 6) (.i 1) true true .tile),
   (0x0DC9001C, .vlog2 .p (.i 1) true true (.rm .rna)), (0x0E690019, .vrint (.v 6) (.i 1) true true (.rm .rtz))]

theorem test_decode_floating : floatingWords.all (fun c => decodeMicro c.1 == some c.2) = true := by decide +kernel

def integerWords : List (Nat × Instr) :=
  [(0x20A9E009, .viadd (.o 2) (.i 1) (.k 2) true true), (0x2169E009, .visub (.v 6) (.i 1) (.k 2) true true),
   (0x22A9E009, .vimul (.o 2) (.i 1) (.k 2) true true), (0x23C9E008, .vimulh .p (.i 1) (.k 2) true),
   (0x24A9E008, .vand (.o 2) (.i 1) (.k 2) true), (0x2569E008, .vor (.v 6) (.i 1) (.k 2) true),
   (0x26A9E008, .vxor (.o 2) (.i 1) (.k 2) true), (0x2769E008, .vshl (.v 6) (.i 1) (.k 2) true),
   (0x28C9E008, .vshr .p (.i 1) (.k 2) true), (0x2969E008, .vsra (.v 6) (.i 1) (.k 2) true),
   (0x2AA9E008, .vimin (.o 2) (.i 1) (.k 2) true), (0x2B69E008, .vimax (.v 6) (.i 1) (.k 2) true),
   (0x2CA90008, .vclz (.o 2) (.i 1) true), (0x2DC90008, .vpopc .p (.i 1) true)]

theorem test_decode_integer : integerWords.all (fun c => decodeMicro c.1 == some c.2) = true := by decide +kernel

def movingWords : List (Nat × Instr) :=
  [(0x40A9E068, .vcmp (.o 2) (.i 1) (.k 2) .i32 2 true), (0x4169E000, .vsel (.v 6) (.i 1) (.k 2)),
   (0x42A9E008, .vperm (.o 2) (.i 1) (.k 2) true), (0x4369E008, .vbcast (.v 6) (.i 1) (.k 2) true),
   (0x44C9000A, .vred .p (.i 1) .fadd true (.rm .rdn)), (0x4569000A, .vscan (.v 6) (.i 1) .fadd true (.rm .rdn)),
   (0x46A90008, .vmov (.o 2) (.i 1) true), (0x47600008, .vidx (.v 6) true)]

theorem test_decode_moving : movingWords.all (fun c => decodeMicro c.1 == some c.2) = true := by decide +kernel

def convertingWords : List (Nat × Instr) :=
  [(0x50A9054C, .vcvt (.o 2) (.i 1) .f16 .bf16 true (.rm .rna)), (0x51C9E0A9, .vqnt .p (.i 1) (.k 2) .i8 true (.rm .rtz)),
   (0x52A9E0AD, .vdq (.o 2) (.i 1) (.k 2) .i8 true .tile), (0x5369E018, .vpack (.v 6) (.i 1) (.k 2) .w8 true),
   (0x54A9E058, .vunpk (.o 2) (.i 1) (.k 2) true .w8 true), (0x5569E00D, .vscale (.v 6) (.i 1) (.k 2) true .tile)]

theorem test_decode_converting : convertingWords.all (fun c => decodeMicro c.1 == some c.2) = true := by decide +kernel

def heldWords : List (Nat × Instr) :=
  [(0x600A9873, .mma 2 1 .e2m1 .e5m2 true true), (0x61ABB043, .mout 2 11 11 .bf16 (.rm .rup)), (0x620A9080, .mldb 2 1 .e2m1),
   (0x70A9E310, .seq 2 (.i 1) (.k 2) (.v 3) true), (0x71A90008, .cnt (.o 2) (.i 1) true),
   (0x7269E067, .contend (.v 6) (.i 1) (.k 2) 6 true 3), (0x73A9E000, .crc64 (.o 2) (.i 1) (.k 2)),
   (0x74690018, .vtrn (.v 6) (.i 1) true true), (0x75A90008, .zpkD (.o 2) (.i 1) true),
   (0x75690018, .zpkM (.v 6) (.i 1) true), (0x76C9E008, .zup .p (.i 1) (.k 2) true),
   (0x77A9E028, .emit 2 (.i 1) (.k 2) .i32 true), (0x78A90000, .rqst (.o 2) (.i 1))]

theorem test_decode_held : heldWords.all (fun c => decodeMicro c.1 == some c.2) = true := by decide +kernel


/-! ## Results that the spec works out -/

/-- A machine whose turn is core `c` of die 0, with registers set. -/
def coreAt (c : BitVec 4) (rs : List (Reg × Word)) : State :=
  rs.foldl (fun s r => s.setReg r.1 r.2) { State.reset with cur := ⟨0, c⟩ }

/-- What an instruction leaves in s3 with a in s1 and b in s2. -/
def valueOf (i : Reg → Reg → Reg → Instr) (a b : Word) : Option Word :=
  match exec (i 3 1 2) (coreAt 1 [(1, a), (2, b)]) with
  | .next t => some (t.reg 3)
  | _ => none

/-- R318's table. -/
theorem test_alu_results :
    valueOf .div 0xFFFFFFFFFFFFFFF9 2 = some 0xFFFFFFFFFFFFFFFD ∧ valueOf .rem 0xFFFFFFFFFFFFFFF9 2 = some 0xFFFFFFFFFFFFFFFF ∧
    valueOf .divu 7 0 = some 0xFFFFFFFFFFFFFFFF ∧ valueOf .remu 7 0 = some 7 ∧
    valueOf .div 0x8000000000000000 0xFFFFFFFFFFFFFFFF = some 0x8000000000000000 ∧ valueOf .shl 1 65 = some 2 ∧
    valueOf .sra 0x8000000000000000 63 = some 0xFFFFFFFFFFFFFFFF ∧
    valueOf .mulhu 0xFFFFFFFFFFFFFFFF 0xFFFFFFFFFFFFFFFF = some 0xFFFFFFFFFFFFFFFE ∧
    valueOf .mulh 0xFFFFFFFFFFFFFFFF 0xFFFFFFFFFFFFFFFF = some 0 ∧ valueOf .sltu 1 0xFFFFFFFFFFFFFFFF = some 1 ∧
    valueOf (fun d a _ => .clz d a) 0 0 = some 64 ∧ valueOf (fun d a _ => .ctz d a) 0 0 = some 64 ∧
    valueOf (fun d a _ => .bswap d a) 0x0102030405060708 0 = some 0x0807060504030201 := by decide +kernel

/-- R324's table. -/
theorem test_fpu_results :
    valueOf (fun d a b => .fadd d a b .rne) 0x3F800000 0xBF800000 = some 0 ∧
    valueOf (fun d a b => .fadd d a b .rdn) 0x3F800000 0xBF800000 = some 0x80000000 ∧
    valueOf (fun d a b => .fdiv d a b .rne) 0x3F800000 0x40400000 = some 0x3EAAAAAB ∧
    valueOf (fun d a b => .fdiv d a b .rtz) 0x3F800000 0x40400000 = some 0x3EAAAAAA ∧
    valueOf (fun d a b => .fdiv d a b .rne) 0x3F800000 0 = some 0x7F800000 ∧
    valueOf (fun d a _ => .fsqrt d a .rne) 0x80000000 0 = some 0x80000000 ∧
    valueOf (fun d a _ => .fsqrt d a .rne) 0xBF800000 0 = some 0x7FC00000 ∧
    valueOf (fun d a b => .fmin d a b .rne) 0x80000000 0 = some 0x80000000 ∧
    valueOf (fun d a b => .fcmp d a b .lt .rne) 0x7FC00000 0x3F800000 = some 0 ∧
    valueOf (fun d a b => .fcmp d a b .un .rne) 0x7FC00000 0x3F800000 = some 1 := by decide +kernel

/-- R324's table, conversions. -/
theorem test_conversions :
    valueOf (fun d a _ => .fcvt d a .f32 .i32 .rne) 0x40200000 0 = some 2 ∧
    valueOf (fun d a _ => .fcvt d a .f32 .i32 .rna) 0x40200000 0 = some 3 ∧
    valueOf (fun d a _ => .fcvt d a .f32 .i32 .rne) 0xCF32D05E 0 = some 0xFFFFFFFF80000000 ∧
    valueOf (fun d a _ => .fcvt d a .f32 .u32 .rne) 0xBF800000 0 = some 0 ∧
    valueOf (fun d a _ => .fcvt d a .f32 .u32 .rne) 0x7FC00000 0 = some 0 ∧
    valueOf (fun d a _ => .fcvt d a .f32 .bf16 .rne) 0x3F808000 0 = some 0x3F80 ∧
    valueOf (fun d a _ => .fcvt d a .f32 .bf16 .rup) 0x3F808000 0 = some 0x3F81 ∧
    valueOf (fun d a _ => .fcvt d a .f32 .e4m3 .rne) 0x43FA0000 0 = some 0x7E ∧
    valueOf (fun d a _ => .fcvt d a .f32 .e2m1 .rne) 0x7FC00000 0 = some 0 ∧
    valueOf (fun d a _ => .fcvt d a .e5m2 .f32 .rne) 0x7C 0 = some 0x7F800000 ∧
    valueOf (fun d a _ => .scalex d a .e4m3 .rne) 0x40600000 0 = some 0x78 := by decide +kernel

/-- The instruction answers a next state, of which a check holds. -/
def nextIs (i : Instr) (s : State) (f : State → Bool) : Bool :=
  match exec i s with
  | .next t => f t
  | _ => false

/-- R238: a write of s0 is discarded. -/
theorem test_s0 : nextIs (.addi 0 1 5) (coreAt 1 [(1, 7)]) (fun t => t.reg 0 == 0 && t.pc == 4) = true := by decide +kernel

/-- R332, R333: a branch one word back from pc 8 goes to 4, and JALR of its own operand clears bits [1:0]. -/
theorem test_branch : nextIs (.bne 1 0 0xFFFF) ((coreAt 1 [(1, 7)]).setPc 8) (fun t => t.pc == 4) = true := by decide +kernel

theorem test_jalr : nextIs (.jalr 1 1 3) ((coreAt 1 [(1, 0x100)]).setPc 8) (fun t => t.pc == 0x100 && t.reg 1 == 12) = true := by
  decide +kernel

/-- R238, R325: a word of the data memory stands low byte first, and a load is zero-extended. -/
theorem test_store_load :
    nextIs (.st 2 1 .plain .w 1) (coreAt 1 [(1, 0x10), (2, 0xFFFFFFFF89ABCDEF)]) (fun t =>
      t.bytes (dmemKey 1 0x14) 5 == [0xEF, 0xCD, 0xAB, 0x89, 0] && nextIs (.ld 3 1 .plain .h 3) t (fun u => u.reg 3 == 0x89AB)) = true := by
  decide +kernel

/-- R354, R355: SYSC stops a cell's core with its cause, and a hub core goes on at 0x40. -/
theorem test_sysc_user : nextIs (.sysc 9) ((coreAt 1 []).setPc 8) (fun t =>
    t.cr.trapCause == 0x0F && t.cr.trapVal == 9 && t.cr.trapPc == 12 && t.ctl.run == .stopped) = true := by decide +kernel

theorem test_sysc_hub : nextIs (.sysc 9) ((coreAt 0 []).setPc 8) (fun t => t.pc == 0x40 && t.cr.inTrap && t.cr.trapPc == 12) = true := by
  decide +kernel


/-! ## The matrix example of R387 to R392 -/

def bytesToken (bs : List Byte) : Token := mkData (lineOf bs) 0 15 6

def ctlToken (l1 l2 : Nat) : Token := mkData (lineOfLanes [0, l1, l2]) 0 15 1

/-- Standby lines 0 and 2 after C1 and C2. -/
def exampleB : Tab Line :=
  ldbWrite .line (ldbWrite .line [] (ctlToken 1 0) (bytesToken (List.replicate 8 0x38 ++ [0xB8]))) (ctlToken 1 2)
    (bytesToken (List.replicate 8 0x30 ++ List.replicate 8 0x38))

/-- After the exchange, C3 takes A0 into row 0 and A1 into row 1: EV 8, -1 and OD 8, 16; EV 3, -3 and OD 0, 0. -/
theorem test_matrix :
    let m := (({ CTile.reset.mx with active := exampleB }).take .e4m3 .e4m3 false false 0 2 16 0
      (bytesToken (List.replicate 8 0x38 ++ List.replicate 8 0x40))).take .e4m3 .e4m3 false false 1 2 16 0 (bytesToken [0x44])
    [laneOf (tabLine m.ev 0) 0, laneOf (tabLine m.ev 0) 1, laneOf (tabLine m.od 0) 0, laneOf (tabLine m.od 0) 1,
     laneOf (tabLine m.ev 1) 0, laneOf (tabLine m.ev 1) 1, laneOf (tabLine m.od 1) 0, laneOf (tabLine m.od 1) 1, laneOf (tabLine m.ev 0) 5] =
    [0x41000000, 0xBF800000, 0x41000000, 0x41800000, 0x40400000, 0xC0400000, 0, 0, 0] := by decide +kernel

/-! ## Check values of the named standards -/

/-- The check values of CRC-64/XZ and of the Ethernet FCS over the nine digits, and the digest of the empty message. -/
theorem test_checks :
    crc64xz 0 [0x31, 0x32, 0x33, 0x34, 0x35, 0x36, 0x37, 0x38, 0x39] = 0x995DC9BBDF1939FA ∧
    crc32 [0x31, 0x32, 0x33, 0x34, 0x35, 0x36, 0x37, 0x38, 0x39] = 0xCBF43926 ∧
    sha384 [] = 0x38B060A751AC96384CD9327EB1B1E36A21FDB71114BE07434C0CC7BF63F6E1DA274EDEBFE76F65FBD51AD2F14898B95B := by decide +kernel


/-! ## Witnesses: states and operands that meet the hypotheses of the statements

A witness of a statement names the statement; where a statement has several clauses over one input, it has a part for each, at the ends of
their ranges. -/

theorem witness_AluResults : (coreAt 1 []).ready [0, 1, 2] ∧ (coreAt 1 []).ready [31, 31] := by
  simp only [State.ready]; decide +kernel

theorem witness_BitCountResults : (coreAt 1 []).ready [3, 3] ∧ (coreAt 1 []).ready [0, 1] := by
  simp only [State.ready]; decide +kernel

theorem witness_ConstantPieces : (coreAt 1 []).ready [0] ∧ (coreAt 1 []).ready [31] := by
  simp only [State.ready]; decide +kernel

theorem witness_FloatResults : (coreAt 1 []).ready [3, 1, 2] ∧ (coreAt 1 []).ready [0, 0, 0] := by
  simp only [State.ready]; decide +kernel

theorem witness_FloatUnary : (coreAt 1 []).ready [3, 1] := by
  simp only [State.ready]; decide +kernel

theorem witness_BranchesAndJumps :
    (coreAt 1 []).ready [1, 2] ∧ (coreAt 1 []).ready [31] ∧ (coreAt 1 []).ready [1, 1] := by
  simp only [State.ready]; decide +kernel

theorem witness_orders : dataOrder .plain ∧ dataOrder (.sync 7) := ⟨.inl rfl, .inr ⟨7, rfl⟩⟩

/-- The last doubleword and the first byte of the data memory, by an offset of each sign. -/
theorem witness_DataMemoryLoads :
    (coreAt 1 [(1, 65528), (2, 64)]).ready [3, 1] ∧ (coreAt 1 [(1, 65528), (2, 64)]).unfenced ∧
    inDataMemory ((coreAt 1 [(1, 65528)]).reg 1 + (0 : BitVec 9).signExtend 64 * BitVec.ofNat 64 Sz.d.bytes) Sz.d.bytes ∧
    inDataMemory ((coreAt 1 [(2, 64)]).reg 2 + (0x1C0 : BitVec 9).signExtend 64 * BitVec.ofNat 64 Sz.b.bytes) Sz.b.bytes ∧
    inDataMemory ((coreAt 1 [(1, 65528)]).reg 1 + (1 : BitVec 7).signExtend 64 * BitVec.ofNat 64 Sz.w.bytes) Sz.w.bytes := by
  simp only [State.ready, State.unfenced, inDataMemory]; decide +kernel

theorem witness_DataMemoryStores :
    (coreAt 0 [(1, 65528), (2, 64)]).ready [0, 1] ∧ (coreAt 0 [(1, 65528), (2, 64)]).unfenced ∧
    inDataMemory ((coreAt 0 [(1, 65528)]).reg 1 + (0 : BitVec 9).signExtend 64 * BitVec.ofNat 64 Sz.d.bytes) Sz.d.bytes ∧
    inDataMemory ((coreAt 0 [(2, 64)]).reg 2 + (0x60 : BitVec 7).signExtend 64 * BitVec.ofNat 64 Sz.h.bytes) Sz.h.bytes := by
  simp only [State.ready, State.unfenced, inDataMemory]; decide +kernel

theorem witness_DataMemoryAtomics :
    (coreAt 1 [(1, 65528)]).ready [3, 1] ∧ (coreAt 1 [(1, 65528)]).unfenced ∧
    inDataMemory ((coreAt 1 [(1, 65528)]).reg 1 + (0 : BitVec 6).signExtend 64 * BitVec.ofNat 64 (szOf true).bytes) (szOf true).bytes ∧
    inDataMemory ((coreAt 1 [(1, 65528)]).reg 1 + (0x3F : BitVec 6).signExtend 64 * BitVec.ofNat 64 (szOf false).bytes) (szOf false).bytes ∧
    inDataMemory ((coreAt 1 [(1, 65528)]).reg 1 + (1 : BitVec 6).signExtend 64 * 4) 4 := by
  simp only [State.ready, State.unfenced, inDataMemory]; decide +kernel

/-- A comparison that succeeds, since memory holds zero, and one that fails. -/
theorem witness_DataMemoryCas :
    (coreAt 1 [(1, 65520), (5, 1)]).unfenced ∧ (coreAt 1 [(1, 65520)]).ready [5, 1, 2] ∧ (coreAt 1 [(1, 65520)]).ready [4, 5, 1, 2, 3] ∧
    inDataMemory ((coreAt 1 [(1, 65520)]).reg 1 + (1 : BitVec 5).signExtend 64 * BitVec.ofNat 64 (szOf true).bytes) (szOf true).bytes ∧
    inDataMemory ((coreAt 1 [(1, 65520)]).reg 1 + (0 : BitVec 5).signExtend 64 * 16) 16 ∧
    leNat ((coreAt 1 [(1, 65520), (5, 1)]).fenceAction.bytes (dmemKey 1 65528) 8) ≠ ((coreAt 1 [(1, 65520), (5, 1)]).reg 5).toNat := by
  simp only [State.ready, State.unfenced, inDataMemory]; decide +kernel

/-- A load of the discovery table's page, which every address space maps, from a word of it to a register. -/
def farForm : Instr × List Reg × ReqOp × Option Sp × Word × Nat × List Byte × List Byte × Dest :=
  (.ld 3 1 .plain .w 0, [3, 1], .read, some .g, 0xFFFF000000010, 4, [], [], .reg 3 .w)

def farState : State := coreAt 1 [(1, 0xFFFF000000010)]

theorem witness_FarAccesses :
    farState.unfenced ∧ farForm ∈ memoryForms farState 3 1 0 .plain .w .g false 0 0 0 0 ∧ farState.ready [3, 1] ∧
    (let m := memOpOf .plain .read .g 0xFFFF000000010 4 [] [] (.reg 3 .w)
     m.ea.toNat % m.size = 0 ∧ m.page0 = false ∧ farState.countFull m = false ∧ farState.fenceAction.bankServes m = none ∧
     ∃ a, farState.fenceAction.place farState.me .g m.ea m.size m.acc = (.at (.dt 16) a, farState)) := by
  refine ⟨by simp only [State.unfenced]; decide +kernel, by decide +kernel, by simp only [State.ready]; decide +kernel, ?_⟩
  refine ⟨?_, ?_, ?_, ?_, { Attr.plain with w := false }, ?_⟩ <;> try decide +kernel

/-- A misaligned word, an address that nothing maps, and an atomic whose address names no space. -/
theorem witness_AccessFaults :
    (coreAt 1 []).unfenced ∧ (coreAt 1 []).ready [3, 1] ∧
    (memOpOf .plain .read .g 2 4 [] [] (.reg 3 .w)).ea.toNat % 4 ≠ 0 ∧ (memOpOf .plain .read .g 2 4 [] [] (.reg 3 .w)).page0 = true ∧
    (memOpOf .plain .read .g 0x10000000000000 8 [] [] (.reg 3 .d)).page0 = false ∧
    (coreAt 1 []).fenceAction.bankServes (memOpOf .plain .read .g 0x10000000000000 8 [] [] (.reg 3 .d)) = none ∧
    ((coreAt 1 []).fenceAction.place 1 .g 0x10000000000000 8 .read).1 = .fault 6 ∧
    (coreAt 1 []).countFull (memOpOf .plain .read .g 0x10000000000000 8 [] [] (.reg 3 .d)) = false ∧
    atomicSpace 0xC000000000000000 = none := by
  simp only [State.ready, State.unfenced]; decide +kernel

/-- A line that holds the 128 bytes at an address of core 1's space, readable and writable. -/
def lineA : BankLine := ⟨1, 0, 0, 2048, 0x40000, 0, 0, true, true, false, 0, false⟩

def banked : State := { coreAt 1 [(1, 0x40000)] with m := { State.reset.m with banks := [lineA] } }

/-- The bank hit itself is free: a bank may always go to the line's home (assumption 5). -/
theorem witness_BankAccesses :
    banked.ready [3, 1] ∧ banked.unfenced ∧ banked.ctl.acqScope = none ∧ banked.lcnt banked.me < 63 ∧ banked.scnt banked.me < 63 ∧
    banked.bankServes (memOpOf .plain .read .g 0x40008 8 [] [] (.reg 3 .d)) = some lineA ∧
    banked.bankServes (memOpOf .plain .write .g 0x4007C 4 (leBytes 4 0) [] .store) = some lineA ∧
    lineA.stops 8 8 false = false ∧ lineA.stops 0x7C 4 true = false := by
  simp only [State.ready, State.unfenced]; decide +kernel

/-- A line with errors in its second and its last unit, and a copy that its core subscribes to. -/
theorem witness_BankAccesses_errors :
    (let b := { lineA with bad := 0x8002 }
     b.stops 8 8 false = true ∧ b.stops 0x7C 4 true = true ∧ b.stops 16 8 false = false ∧ b.stops 0x78 8 true = false ∧
     ({ banked with m := { banked.m with banks := [b] } }).bankServes (memOpOf .plain .read .g 0x40008 8 [] [] (.reg 3 .d)) = some b) ∧
    (let b := { lineA with w := false, pub := true }
     let s := ({ banked with m := { banked.m with banks := [b] } }).setSite 1 1 { Site.reset with frames := [4, 4 + 2 ^ 36] }
     s.fromCopy s.me 0x40008 b = true ∧ s.bankServes (memOpOf .plain .read .g 0x40008 8 [] [] (.reg 3 .d)) = some b) := by
  decide +kernel

/-- A core with s2 awaiting a load. -/
def waiting : State :=
  { coreAt 1 [] with net := { State.reset.net with accesses := [{ (default : Access) with agent := .ctl ⟨0, 1⟩, op := .read, dest := .reg 2 .d }] } }

theorem witness_PendingWaits :
    (∃ r ∈ namedRegs (.add 1 2 3), waiting.isPending r = true) ∧ (∃ r ∈ namedRegs (.st 2 4 .plain .d 0), waiting.isPending r = true) := by
  decide +kernel

/-- The pending operand of LIK and of a branch, and the registers of the rule's four words. -/
theorem witness_ConstantPieces_pending : waiting.isPending 2 = true ∧ (coreAt 1 []).ready [5] ∧ (coreAt 1 []).ready [0] := by
  simp only [State.ready]; decide +kernel

def handling : State := (coreAt 0 []).setCr { (coreAt 0 []).cr with inTrap := true, trapPc := 0x200 }

theorem witness_TrapsAndReturns :
    (coreAt 1 [(3, 1)]).firmware = false ∧ (coreAt 1 [(3, 1)]).ready [3] ∧ (coreAt 1 [(3, 1)]).reg 3 ≠ 0 ∧ (coreAt 1 []).reg 3 = 0 ∧
    (coreAt 0 [(3, 1)]).firmware = true ∧ (coreAt 0 [(3, 1)]).cr.inTrap = false ∧ (coreAt 0 [(3, 1)]).ready [3] ∧
    (coreAt 0 [(3, 1)]).reg 3 ≠ 0 ∧ handling.firmware = true ∧ handling.cr.inTrap = true ∧
    (let s := handling.setReg 3 1
     s.firmware = true ∧ s.cr.inTrap = true ∧ s.ready [3] ∧ s.reg 3 ≠ 0 ∧
     (s.boot.restarts.filter (fun r => r.1 == BitVec.ofNat 3 (s.me / 16) && decide (s.time.cycle < r.2 + 2000000000))).length < 2) := by
  simp only [State.ready]; decide +kernel

theorem witness_SystemRegisterReads :
    (coreAt 1 []).ready [0] ∧ (coreAt 1 []).firmware = false ∧ (coreAt 0 []).ready [31] ∧ (coreAt 0 []).firmware = true ∧
    (0xFFF : BitVec 12) ∉ (sysRegs (coreAt 1 [])).map Prod.fst ∧ (0xFFF : BitVec 12) ∉ (privRegs (coreAt 1 [])).map Prod.fst ∧
    (0x022 : BitVec 12) ∉ (sysRegs (coreAt 1 [])).map Prod.fst ++ (privRegs (coreAt 1 [])).map Prod.fst := by
  simp only [State.ready]; decide +kernel

theorem witness_WriteSystemRegister :
    (coreAt 1 [(2, 9)]).ready [2] ∧ (coreAt 1 []).firmware = false ∧ (coreAt 0 [(2, 9)]).ready [2] ∧ (coreAt 0 []).firmware = true ∧
    (0x100 : BitVec 12) ∈ (sysRegs (coreAt 1 [])).map Prod.fst ++ (privRegs (coreAt 1 [])).map Prod.fst ++ [0x020] ∧
    (0x043 : BitVec 12) ∉ (sysRegs (coreAt 1 [])).map Prod.fst ∧ (0x043 : BitVec 12) ∉ (privRegs (coreAt 1 [])).map Prod.fst := by
  simp only [State.ready]; decide +kernel

/-- A count at its limit and one above it; an event pending, none pending, and masks with no bit and with an unassigned bit. -/
theorem witness_Waits :
    waiting.lcnt waiting.me ≤ (1 : BitVec 6).toNat ∧ waiting.scnt waiting.me ≤ 0 ∧ waiting.ccnt waiting.me ≤ 0 ∧ waiting.tcnt waiting.me ≤ 0 ∧
    (0 : BitVec 6).toNat < waiting.lcnt waiting.me ∧ (coreAt 1 []).ready [1] ∧
    ((coreAt 1 []).setCr { (coreAt 1 []).cr with evPend := 0x21 }).cr.evPend &&& (0x20 : BitVec 16).setWidth 6 ≠ 0 ∧
    (coreAt 1 []).cr.evPend &&& (0x3F : BitVec 16).setWidth 6 = 0 ∧ 64 ≤ (0x8001 : BitVec 16).toNat := by
  simp only [State.ready]; decide +kernel

/-! ### A cell in its task -/

/-- Queue 0, active in address space 5, whose page table at 0x40000 maps the first 2^40 bytes to HBM. -/
def queueA : Queue := { Queue.reset with st := .active, asn := 5, ptRoot := 0x40000, sqLog := 4, cqLog := 4, cqBase := 0x10000, sqBase := 0x20000 }

def cellA : Cell := ⟨7, 0, 0, 0, 5, 0, 0, true, false, false⟩

def regionA : RegionSt := ⟨0, 0, [1], true, true, false, []⟩

def taskA : Task := { (default : Task) with uid := 7, st := .running, regions := [regionA] }

/-- The frames of a port block that is a sink of the marks and tokens that reach it. -/
def portFrames : List Frame := [0, 0, 0, 0, 0, 1, 0, 0]

/-- Core 1 of die 0 holds the one cell of task 7 with port blocks 0 and 1 in use; boot has reached its last stage. -/
def cellOn : State :=
  let s := { coreAt 1 [(5, 0x100000)] with
    boot := { State.reset.boot with dtValid := true, stage := 5 },
    m := { State.reset.m with mem := [(0x40000, 0x0F)] },
    host := { State.reset.host with queues := [(0, queueA)], linkUp := true },
    sched := { State.reset.sched with tasks := [taskA] } }
  let site : Site := { Site.reset with frames := portFrames }
  s.setCore 1 { s.core 1 with occ := some cellA, sites := [(portSite 0, site), (portSite 1, site)] }

/-- What a read of a descriptor's place finds, with the state once it is read. -/
def fetchedOf (s : State) (va : Word) (n : Nat) : Option (Except (Nat × Word) (List Byte)) × State :=
  match s.translate (reticleOf s.me) (s.asnOf s.me) va .read with
  | (.at l a, s1) =>
    if s1.sameGranule (.ctl s1.cur) l n = [] then
      (s1.yieldLine s1.me l.key).fetchAll (.ctl s1.cur) (s1.asnOf s1.me) false (linePieces l va n a)
    else (none, s1)
  | (_, s1) => (none, s1)

/-- The bytes that stand where an address of the current core's space leads, and the state once they are read. -/
def descOf (s : State) (va : Word) (n : Nat) : List Byte × State :=
  match fetchedOf s va n with
  | (some (.ok bs), t) => (bs, t)
  | (_, t) => ([], t)

/-- Whether they are read at once. -/
def readsNow (s : State) (va : Word) (n : Nat) : Bool :=
  match (fetchedOf s va n).1 with
  | some (.ok _) => true
  | _ => false

theorem describes_descOf {s : State} {va : Word} {n : Nat} (h1 : va.toNat % n = 0) (h2 : 65536 ≤ va.toNat) (h3 : readsNow s va n = true) :
    s.describes va n (descOf s va n).1 (descOf s va n).2 := by
  refine ⟨h1, h2, ?_⟩
  unfold readsNow at h3
  rw [descOf]
  unfold fetchedOf at h3 ⊢
  split at h3
  · rename_i bs hb
    split at hb
    · rename_i l a s1 hs
      split at hb
      · rename_i hg
        rw [hs]
        simp only [hg, if_true]
        refine ⟨l, a, s1, rfl, hg, ?_⟩
        revert hb
        generalize State.fetchAll _ _ _ _ _ = x
        rcases x with ⟨x, t⟩
        rintro rfl
        rfl
      · cases hb
    · cases hb
  · cases h3

abbrev descA (n : Nat) : List Byte × State := descOf cellOn 0x100000 n

theorem witness_StreamIssue :
    (cellOn.ready [5] ∧ cellOn.portUsed 1 15 = false ∧ cellOn.portUsed 1 0 = true ∧ cellOn.tcnt 1 < 63 ∧ (cellOn.port 1 0).queued < 4 ∧
      cellOn.reg 5 = 0x100000 ∧ spbFault (BitVec.ofNat 512 (leNat (descA 64).1)) = none ∧
      (descA 64).2.pktFault 1 (BitVec.ofNat 512 (leNat (descA 64).1)) = none) ∧
    cellOn.describes 0x100000 64 (descA 64).1 (descA 64).2 := by
  refine ⟨by simp only [State.ready]; decide +kernel, describes_descOf (by decide) (by decide) (by decide +kernel)⟩

/-- A cell's core with bytes at an address of its space. -/
def cellWith (va : Nat) (bs : List Byte) : State := { cellOn with m := { cellOn.m with mem := memStore cellOn.m.mem va bs } }

/-- A full count, and a full queue of streams. -/
def busy : State :=
  (cellOn.setCtl { cellOn.ctl with tops := (List.range 63).map (fun n => (n, 1)), cops := List.range 63 }).setPort 1 1
    { Port.reset with items := List.replicate 4 (.stream default) }

theorem witness_StreamIssue_stall :
    busy.ready [5] ∧ busy.portUsed 1 0 = true ∧ 63 ≤ busy.tcnt 1 ∧ busy.portUsed 1 1 = true ∧ 4 ≤ (busy.port 1 1).queued := by
  simp only [State.ready]; decide +kernel

/-- Port 0 with a window that an EOR of level 3 has reached. -/
def reached : State := cellOn.setPort 1 0 { Port.reset with issued := 1, startedNo := 1, winEor := some 3 }

theorem witness_BarrierIssue :
    (cellOn.ready [0, 5] ∧ cellOn.portUsed 1 0 = true ∧ cellOn.tcnt 1 < 63 ∧ cellOn.ctl.bars.length < 4 ∧
      (cellOn.port 1 0).issued = 0 ∧ cellOn.reg 0 = 0 ∧ cellOn.reg 5 = 0x100000 ∧ (cellOn.port 1 0).queued < 4 ∧
      spbFault (BitVec.ofNat 512 (leNat (descA 64).1)) = none ∧
      (descA 64).2.pktFault (descA 64).2.me (BitVec.ofNat 512 (leNat (descA 64).1)) = none ∧ (descA 64).2.ctl.bars = [] ∧
      ((descA 64).2.core 1).ports = (cellOn.core 1).ports) ∧
    cellOn.describes 0x100000 64 (descA 64).1 (descA 64).2 := by
  refine ⟨by simp only [State.ready]; decide +kernel, describes_descOf (by decide) (by decide) (by decide +kernel)⟩

theorem witness_BarrierIssue_hit :
    reached.ready [0, 5] ∧ reached.portUsed 1 0 = true ∧ reached.tcnt 1 < 63 ∧ reached.ctl.bars = [] ∧
    0 < (reached.port 1 0).issued ∧ (reached.port 1 0).issued ≤ (reached.port 1 0).startedNo ∧ (reached.port 1 0).winEor = some 3 ∧
    (3 : BitVec 3).toNat ≤ (3 : BitVec 3).toNat ∧ reached.ctl.tops = [] := by
  simp only [State.ready]; decide +kernel

theorem witness_MarkIssue :
    cellOn.ready [0, 5] ∧ ((coreAt 1 [(2, 0x10000)]).reg 2).toNat % 65536 = 0 ∧ ((coreAt 1 [(2, 3)]).reg 2).toNat % 65536 ≠ 0 ∧
    markPayloadOk 1 0xFFFFFFFF = true ∧ markPayloadOk 6 0 = true ∧ markPayloadOk 10 0 = true ∧ cellOn.firmware = false ∧
    cellOn.markFault 0 3 1 = none ∧ cellOn.markFault 9 1 7 = none ∧ cellOn.markFault 5 2 0 = none ∧ cellOn.tcnt cellOn.me < 63 := by
  simp only [State.ready]; decide +kernel

/-- Port 0 with a binding of class 5 to its own cell, with a credit and without. -/
def bound (credit : Nat) : State :=
  let s := (cellOn.setReg 1 0x7F16).setReg 2 0x80
  let frames : List Frame := [0, 0, 0, 0, 0, 1, 1 + 5 * 2, 0]
  (s.setSite 1 (portSite 0) { Site.reset with frames := frames }).setPort 1 0 { Port.reset with credits := credit :: List.replicate 7 0 }

theorem witness_SendAndMask :
    (bound 1).ready [1, 2] ∧ ((bound 1).reg 1).toNat < 32768 ∧ ((bound 1).reg 1).toNat % 2 = 0 ∧ ((bound 1).reg 1).toNat / 2 % 16 < 12 ∧
    ((bound 1).reg 2).toNat % 128 = 0 ∧ ((bound 1).reg 2).toNat + 128 ≤ 65536 ∧ (bound 1).bindingOf 1 0 5 = some 0 ∧
    ((bound 1).sendBinding 1 0 0 ⟨0, 0⟩).isSome = true ∧ ((bound 0).sendBinding 1 0 0 ⟨0, 0⟩).isNone = true := by
  simp only [State.ready]; decide +kernel

/-- A gather descriptor of one row of 8 bytes, a copy of 64 KiB, a multicast of one line to core 1, and an area's header. -/
def gatherBytes : List Byte :=
  leBytes 8 0x200000 ++ leBytes 8 0x210000 ++ leBytes 8 0 ++ leBytes 8 0x220000 ++ leBytes 4 8 ++ leBytes 4 1 ++ leBytes 8 100

def copyBytes : List Byte := leBytes 8 0x200000 ++ leBytes 8 0x210000 ++ leBytes 8 0x10000

def multiBytes : List Byte := leBytes 8 0x200000 ++ leBytes 8 128 ++ leBytes 8 0 ++ leBytes 2 2

def areaBytes : List Byte := leBytes 4 0x434B5041 ++ leBytes 4 1 ++ leBytes 8 0x10000 ++ leBytes 8 0x10000 ++ leBytes 8 0x20000

theorem witness_EngineIssue :
    (cellOn.ready [5] ∧ cellOn.freeSlot false (reticleOf cellOn.me) = some 0 ∧ cellOn.freeSlot true (reticleOf cellOn.me) = some 0 ∧
      63 ≤ busy.ccnt busy.me ∧ busy.freeSlot true (reticleOf busy.me) = some 0 ∧ cellOn.ccnt cellOn.me < 63 ∧ cellOn.reg 5 = 0x100000 ∧
      badGather (descA 64).1 = true ∧ badCopy (descA 64).1 = true ∧ badGather (descOf (cellWith 0x100000 gatherBytes) 0x100000 64).1 = false ∧
      badCopy (descOf (cellWith 0x100000 copyBytes) 0x100000 64).1 = false) ∧
    cellOn.describes 0x100000 64 (descA 64).1 (descA 64).2 ∧
    ∀ bs ∈ [gatherBytes, copyBytes],
      (cellWith 0x100000 bs).describes 0x100000 64 (descOf (cellWith 0x100000 bs) 0x100000 64).1 (descOf (cellWith 0x100000 bs) 0x100000 64).2 := by
  refine ⟨by simp only [State.ready]; decide +kernel, describes_descOf (by decide) (by decide) (by decide +kernel), fun bs h => ?_⟩
  have : readsNow (cellWith 0x100000 bs) 0x100000 64 = true := by
    rcases List.mem_pair.mp h with rfl | rfl <;> decide +kernel
  exact describes_descOf (by decide) (by decide) this

/-- A cell with a grant of the first 64 KiB of its own vault. -/
def granted : State :=
  let s := cellWith 0x100000 multiBytes
  s.setSite 1 (portSite 0) { Site.reset with frames := [0, 0, 0, 0, 0, 1, 0, BitVec.ofNat 256 (2 ^ 3 + 2 ^ 17 + 2 ^ 27 + 2 ^ 28)] }

theorem witness_EngineIssue_multicast :
    granted.ccnt granted.me < 63 ∧ granted.describes 0x100000 64 (descOf granted 0x100000 64).1 (descOf granted 0x100000 64).2 ∧
    (let t := (descOf granted 0x100000 64).2
     let bs := (descOf granted 0x100000 64).1
     badMulti t.me bs = false ∧
     t.vaultCheck t.me t.firmware (BitVec.ofNat 64 ((t.me / 16) * 2 ^ 33 + (t.me % 16) * 2 ^ 29 + fieldAt bs 0x10 8)) (fieldAt bs 8 8) .write =
       .at (.vault 1 0) Attr.plain) := by
  refine ⟨?_, ?_, ?_, ?_⟩ <;> try decide +kernel
  exact describes_descOf (by decide) (by decide) (by decide +kernel)

theorem witness_CheckpointIssue :
    ((coreAt 0 []).firmware = true ∧ (cellWith 0x100000 areaBytes).firmware = false ∧ (cellWith 0x100000 areaBytes).ready [5] ∧
      (cellWith 0x100000 areaBytes).reg 5 = 0x100000 ∧
      (let s := cellWith 0x100000 areaBytes
       let t := (descOf s 0x100000 4096).2
       t.elapse.taskOf t.me = some taskA ∧ t.elapse.rootOf (t.elapse.queue taskA.queue.toNat).asn = some 0x40000 ∧
       (t.elapse.requestFails taskA 0x40000 (t.elapse.queue taskA.queue.toNat).asn 0x100000 0).1 = false ∧
       (let s1 := (t.elapse.requestFails taskA 0x40000 (t.elapse.queue taskA.queue.toNat).asn 0x100000 0).2
        s1.jobsOf taskA.uid = [] ∧ (s1.ctlAt s.me).r = s.cr ∧ s1.cur = s.cur))) ∧
    (let s := cellWith 0x100000 areaBytes
     s.describes 0x100000 4096 (descOf s 0x100000 4096).1 (descOf s 0x100000 4096).2) := by
  refine ⟨by simp only [State.ready]; decide +kernel, describes_descOf (by decide) (by decide) (by decide +kernel)⟩

theorem witness_InvalidateIssue :
    (coreAt 1 []).ready [4, 5] ∧ (coreAt 1 []).firmware = false ∧ (coreAt 0 [(4, 0x10003), (5, 0xFFFFFFFFF0000)]).firmware = true ∧
    (coreAt 0 [(4, 0x10003), (5, 0xFFFFFFFFF0000)]).ready [4, 5] ∧
    (let s := coreAt 0 [(4, 0x10003), (5, 0xFFFFFFFFF0000)]
     (s.reg 4).toNat < 2 ^ 48 ∧ (s.reg 5).toNat % 65536 = 0 ∧ 0 < (s.reg 4).toNat / 65536 ∧
     (s.reg 5).toNat / 65536 + (s.reg 4).toNat / 65536 ≤ 2 ^ 36) ∧
    ((coreAt 0 [(4, 0xFFFF)]).reg 4).toNat < 65536 ∧ (coreAt 0 [(4, 0xFFFF)]).reg 0 = 0 := by
  simp only [State.ready]; decide +kernel

/-- The task with regions that are resident, loaded on demand and running, and loaded on demand and absent. -/
def taskB : Task :=
  { taskA with regions := [regionA, { regionA with info := BitVec.ofNat 64 (2 ^ 63), die := 3 }, { regionA with info := BitVec.ofNat 64 (2 ^ 63), released := false }, regionA] }

def demanding : State := { cellOn with sched := { cellOn.sched with tasks := [taskB] } }

theorem witness_RegionRequests :
    (coreAt 0 []).firmware = true ∧ (coreAt 0 []).ready [9] ∧ demanding.firmware = false ∧ demanding.ready [9] ∧
    demanding.taskOf demanding.me = some taskB ∧ taskB.regions[7]? = none ∧
    (∃ g, taskB.regions[0]? = some g ∧ g.onDemand = false) ∧ (∃ g, taskB.regions[1]? = some g ∧ g.onDemand = true ∧ g.released = true) ∧
    (∃ g, taskB.regions[2]? = some g ∧ g.onDemand = true ∧ g.released = false) := by
  refine ⟨?_, by simp only [State.ready]; decide +kernel, ?_, by simp only [State.ready]; decide +kernel, ?_, ?_, ⟨_, rfl, by decide⟩, ⟨_, rfl, by decide, by decide⟩, ⟨_, rfl, by decide, by decide⟩⟩ <;> try decide +kernel

/-- Die firmware restarts: a checkpoint's request is held, and a core waits for its answer. -/
theorem witness_requests_of_a_restart :
    (let s := { cellWith 0x100000 areaBytes with boot := { cellOn.boot with restarting := 1 } }
     let t := (descOf s 0x100000 4096).2
     s.firmware = false ∧ s.reg 5 = 0x100000 ∧ s.describes 0x100000 4096 (descOf s 0x100000 4096).1 t ∧ t.elapse.taskOf t.me = some taskA ∧
     t.elapse.fwReady = false) ∧
    ({ demanding with boot := { demanding.boot with restarting := 1 } }.taskOf demanding.me = some taskB ∧
     { demanding with boot := { demanding.boot with restarting := 1 } }.fwReady = false ∧ demanding.fwReady = true ∧
     ∃ g, taskB.regions[2]? = some g ∧ g.placed = true ∧ taskB.regions[3]? = some regionA) := by
  refine ⟨⟨by decide +kernel, by decide +kernel, describes_descOf (by decide) (by decide) (by decide +kernel), by decide +kernel, by decide +kernel⟩,
    by decide +kernel, by decide +kernel, by decide +kernel, _, rfl, by decide, by decide⟩

theorem witness_SprintIssue :
    (coreAt 1 []).ready [3, 4] ∧ (coreAt 1 []).firmware = false ∧ (coreAt 1 []).cr.spGrant.getLsbD 15 = false ∧
    (coreAt 0 []).firmware = true ∧ (coreAt 0 []).chanUsable 15 = true ∧ (coreAt 0 []).cr.spTarget = 0 ∧
    tabFind (coreAt 0 []).plane.ports (16 * (coreAt 0 []).me + 15) = none ∧
    (let s := { coreAt 0 [] with plane := { State.reset.plane with failed := 0x8000 } }
     s.chanUsable 15 = false ∧ s.firmware = true) := by
  simp only [State.ready]; decide +kernel

/-- A hub core that names a frame that has started, at the frame's first and last cycle; a lone contender; and a listener whose channel another
core's arm waits on. -/
theorem witness_SprintIssue_results :
    (∀ n ∈ [127, 254],
      (let s := { (coreAt 0 []).setCr { (coreAt 0 []).cr with spTarget := 1 } with time := { State.reset.time with cycle := n } }
       s.firmware = true ∧ s.chanUsable 15 = true ∧ s.cr.spTarget ≠ 0 ∧ s.cr.spTarget.toNat ≤ (s.time.cycle + 1) / 128 ∧
       tabFind s.plane.ports (16 * s.me + 15) = none)) ∧
    (let s := coreAt 0 []
     s.plane.queued = [] ∧ s.plane.latched = false ∧ 128 * s.plane.frame ≤ s.time.cycle ∧ s.time.cycle < 128 * s.plane.frame + 106 ∧
     s.plane.high = 0 ∧ s.plane.ports = []) ∧
    (let b : Arm := ⟨.ctl, false, 5, 0, false, 0, 0, false, 0⟩
     let s := { coreAt 0 [] with plane := { State.reset.plane with ports := [(16 * 3 + 15, b)] } }
     3 ≠ s.me ∧ b.listen = false ∧ b.entered = false ∧ b.first ≤ s.plane.frame + 1 ∧ b.who = .ctl ∧ s.chanUsable 15 = true) := by
  decide +kernel

/-! ### A node of a C tile -/

/-- Core 1's site 0 is a C tile whose header is `hdr` and whose node 0 is the current one, in a firing, with `n` of its state set. -/
def tile (s : State) (hdr : Nat) (n : NodeSt → NodeSt) (v : List (Line × BitVec 4 × BitVec 4)) : State :=
  let ct := (CTile.reset.setNode 0 (n { NodeSt.reset with firing := true }))
  ({ s with curNode := ⟨⟨0, 1⟩, 0, 0⟩ }).setSite 1 0
    { Site.reset with frames := BitVec.ofNat 256 hdr :: List.replicate 22 0, ct := { ct with v := v ++ CTile.reset.v.drop v.length } }

def node0 : State := tile cellOn 0 id [(2, 15, 1)]

/-- A release firing of a node with RLEN. -/
def releasing : State := tile cellOn (2 ^ 59) (fun n => { n with release := some (mkMark kEor 0 0 0 0) }) []

theorem witness_MicroFloat : node0.issuesTo (dstOut (.v 7)) ∧ node0.issuesTo (dstOut .p) ∧ node0.issuesTo (dstOut (.o 3)) := by
  simp only [State.issuesTo, dstOut]; decide +kernel

theorem witness_MicroInteger : node0.issuesTo (dstOut (.v 0)) ∧ releasing.issuesTo (dstOut (.o 0)) := by
  simp only [State.issuesTo, dstOut]; decide +kernel

theorem witness_MicroMoves : node0.issuesTo (dstOut (.v 0)) ∧ node0.issuesTo (dstOut (.o 1)) ∧ node0.issuesTo (dstOut .p) := by
  simp only [State.issuesTo, dstOut]; decide +kernel

theorem witness_MicroData : node0.issuesTo (dstOut (.v 0)) ∧ node0.issuesTo (some 0) ∧ releasing.issuesTo (some 3) := by
  simp only [State.issuesTo, dstOut]; decide +kernel

/-- SEQ of count 0, of count 1, and of count 2. -/
theorem witness_MicroHeld_seq :
    node0.issuesTo (some 2) ∧ (node0.source (.k 0)).lane 0 ≤ node0.nnode.step ∧ node0.nnode.step + 1 < (node0.source (.v 0)).lane 0 ∧
    ((tile cellOn 0 id [(1, 15, 1)]).issuesTo (some 2) ∧
      (tile cellOn 0 id [(1, 15, 1)]).nnode.step + 1 = ((tile cellOn 0 id [(1, 15, 1)]).source (.v 0)).lane 0) := by
  simp only [State.issuesTo]; decide +kernel

/-- A result that has come, a result awaited, identifier 0, an arm that passes its checks, and each case of a configuration request. -/
theorem witness_MicroHeld :
    node0.issuesTo (dstOut (.v 1)) ∧ node0.nnode.result = none ∧ node0.nnode.armed = false ∧ (node0.source (.k 0)).lane 0 % 256 = 0 ∧
    (tile cellOn 0 (fun n => { n with result := some 5 }) []).nnode.result = some 5 ∧
    (tile cellOn 0 (fun n => { n with armed := true }) []).nnode.armed = true ∧
    (let s := tile ((cellOn.setCr { cellOn.cr with spGrant := 8 })) 0 id [(2, 15, 1)]
     (s.source (.v 0)).lane 0 % 256 ≠ 0 ∧ s.armFault s.nk 3 = none ∧ tabFind s.plane.ports (16 * s.nk + 3) = none) ∧
    (tile (coreAt 1 []) 0 id []).taskOf 1 = none ∧
    (let s := tile demanding 0 id [(1, 15, 1), (2, 15, 1), (7, 15, 1)]
     s.taskOf s.nk = some taskB ∧ (s.source (.k 0)).lane 0 % 8 = 0 ∧ (s.source (.v 0)).lane 0 % 8 = 1 ∧ (s.source (.v 1)).lane 0 % 8 = 2 ∧
     (s.source (.v 2)).lane 0 % 8 = 7 ∧ s.fwReady = true) ∧
    (let s := tile { demanding with boot := { demanding.boot with restarting := 1 } } 0 id [(1, 15, 1)]
     s.fwReady = false ∧ s.taskOf s.nk = some taskB ∧ (s.source (.k 0)).lane 0 % 8 = 0 ∧ s.nnode.result = none ∧ s.nnode.armed = false) := by
  simp only [State.issuesTo, dstOut]; decide +kernel

/-- The tile with a control token at input 0 and a token at input 1. -/
def fed (c : Token) (x : List Token) (n : NodeSt → NodeSt) : State :=
  ((tile cellOn 0 n []).setChan 1 0 48 [⟨c, 4, []⟩]).setChan 1 0 49 (x.map (fun t => ⟨t, 4, []⟩))

theorem witness_MicroMatrix :
    (let s := fed (ctlToken 0 0) [] id
     s.nnode.release = none ∧ s.head s.nk s.ni (48 + (0 : BitVec 2).toNat) = some (ctlToken 0 0) ∧ (ctlToken 0 0).lane 1 % 4 ≠ 2 ∧
     (ctlToken 0 0).lane 1 % 4 ≠ 1) ∧
    (let c := ctlToken 0x00010012 0
     let s := fed c [] id
     s.head s.nk s.ni 48 = some c ∧ c.lane 1 % 4 = 2 ∧ mxK c = 0) ∧
    (let c := ctlToken 0x00010012 16
     c.lane 1 % 4 = 2 ∧ mxK c ≠ 0 ∧ (fed c [] id).head 1 0 49 = none ∧ (fed c [bytesToken [1]] id).head 1 0 49 = some (bytesToken [1]) ∧
     (bytesToken [1]).isMark = false ∧ (mkMark kEor 0 0 0 0).isMark = true ∧
     (fed c [mkMark kEor 0 0 0 0] id).head 1 0 (48 + (1 : BitVec 2).toNat) = some (mkMark kEor 0 0 0 0)) ∧
    ((ctlToken 1 0).lane 1 % 4 = 1 ∧ (fed (ctlToken 1 0) [] id).head 1 0 49 = none ∧
     (fed (ctlToken 1 0) [bytesToken [1]] id).head 1 0 49 = some (bytesToken [1])) ∧
    node0.issuesTo (some 3) := by
  simp only [State.issuesTo]; decide +kernel

/-- A node with RLEN in a plain firing, a release firing, and a full output. -/
theorem witness_MicroRules :
    microOut (.vmov (.o 1) (.v 0) false) = some (some 1) ∧ microOut (.vmov .p (.v 0) false) = some none ∧
    (tile cellOn (2 ^ 59) id []).nsite.nodeRlen 0 = true ∧ (tile cellOn (2 ^ 59) id []).nnode.release = none ∧
    releasing.nnode.release.isSome = true ∧ node0.nsite.nodeRlen node0.nj = false ∧ node0.ntile.v.length = 8 ∧
    (node0.setNtile { node0.ntile with o := [none, some ⟨0, 0⟩, none, none] }).ntile.o.getD 1 none ≠ none ∧
    (node0.setNtile { node0.ntile with o := [none, some ⟨0, 0⟩, none, none] }).nsite.nodeRlen 0 = false := by
  decide +kernel

/-! ### Boot, measurement and resets -/

/-- The machine after reset with an input. -/
def given (x : Input) : State := { State.reset with input := x }

/-- Self-test in which all of the package passed, with a host link. -/
def allPass : SelfTest := { SelfTest.none with hostLinkUp := true, podMask := 1, podCount := 1 }

def inBoot (stage : BitVec 4) (f : Boot → Boot) (x : Input) : State :=
  { given x with boot := f { State.reset.boot with stage := stage, test := allPass, dtValid := true }, time := { State.reset.time with cycle := 20000000000 } }

/-- Every end of self-test: die 0 without its hub core, no base die 0, no base die 3, no stack, and a live build with and without a host. -/
theorem witness_BootEvents_selfTest :
    State.reset.boot.stage = 0 ∧ State.reset.boot.tested = false ∧ (given { test := some allPass }).input.test = some allPass ∧
    State.reset.boot.mr.length = 8 ∧ ({ allPass with failedCores := [⟨0, 0⟩] } : SelfTest).dieLive 0 = false ∧
    (let t := { allPass with failedBase := [0] }; t.dieLive 0 = true ∧ t.baseLive 0 = false) ∧
    (let t := { allPass with failedBase := [3] }; t.dieLive 0 = true ∧ t.baseLive 0 = true ∧ t.baseLive 3 = false) ∧
    (let t := { allPass with failedDram := [0, 1, 2, 3, 4, 5, 6, 7, 8, 9, 10, 11, 12, 13, 14, 15] }
     t.dieLive 0 = true ∧ t.baseLive 0 = true ∧ t.baseLive 3 = true ∧ t.stacks = []) ∧
    allPass.settled.halt = none ∧ allPass.hostLinkUp = true ∧ SelfTest.none.settled.halt = none ∧ SelfTest.none.hostLinkUp = false ∧
    (∀ n < 16, ({ allPass with untrainedEth := [0, 1, 2, 3, 4, 5, 6, 7, 8, 9, 10, 11, 12, 13, 14, 15] } : SelfTest).ethLive n = false) ∧
    allPass.ethLive 0 = true := by decide +kernel

theorem witness_BootEvents :
    (let s := inBoot 0 (fun b => { b with tested := true }) { flag := true }
     s.boot.stage = 0 ∧ s.boot.tested = true ∧ s.boot.since + 2000000000 ≤ s.time.cycle ∧ s.boot.mr.length = 8 ∧ s.input.flag = true) ∧
    (let s := inBoot 2 id { bytes := [0x74, 0x66, 0x74, 0x70, 0x3A, 0x2F, 0x2F, 0x5B] }
     s.boot.stage = 2 ∧ s.input.bytes.take 7 = [0x74, 0x66, 0x74, 0x70, 0x3A, 0x2F, 0x2F] ∧ s.boot.since + 20000000000 ≤ s.time.cycle ∧
     s.boot.netTry < 2 ∧ s.boot.netAddr = none) ∧
    (let s := inBoot 2 (fun b => { b with netTry := 2, netAddr := some 1 }) {}
     2 ≤ s.boot.netTry ∧ s.boot.netPort < 1 ∧ s.boot.test.ethLive 1 = true ∧ s.boot.netAddr ≠ none) ∧
    (let s := inBoot 2 (fun b => { b with netTry := 2, netPort := 15 }) {}
     2 ≤ s.boot.netTry ∧ (∀ n < 16, s.boot.netPort < n → s.boot.test.ethLive n = false)) ∧
    (let s := inBoot 4 (fun b => { b with ready := 0x7F }) { die := 7 }
     s.boot.stage = 4 ∧ s.boot.test.dieLive s.input.die.toNat = true ∧
     (∀ d < 8, s.boot.test.dieLive d = true → d = s.input.die.toNat ∨ s.boot.ready.getLsbD d = true) ∧
     s.boot.since + 200000000 ≤ s.time.cycle) ∧
    (let s := inBoot 4 id { die := 0 }
     ∃ d < 8, s.boot.test.dieLive d = true ∧ d ≠ s.input.die.toNat ∧ s.boot.ready.getLsbD d = false) := by decide +kernel

theorem witness_SpdmEvents :
    cellOn.host.linkUp = true ∧ cellOn.mon.spdmStage.toNat < 1 ∧ 0 ≤ cellOn.mon.spdmStage.toNat ∧
    3 ≤ ({ cellOn.mon with spdmStage := 3 } : Monitors).spdmStage.toNat := by decide +kernel

/-- Boot has reached its last stage, every hub core's firmware runs, and the input names what acts. -/
def up (x : Input) : State :=
  { inBoot 5 id x with host := { State.reset.host with linkUp := true }, mon := { State.reset.mon with temp := [(1, 1700)] } }

theorem witness_ResetEvents :
    (let s := up { word := 1 }
     s.boot.stage = 5 ∧ s.host.linkUp = true ∧ s.input.word.getLsbD 0 = true ∧ s.boot.warming = false ∧ s.m.banks = []) ∧
    ({ (up {}).boot with warmReq := true } : Boot).warmReq = true ∧ ({ (up {}).boot with warming := true } : Boot).warming = true ∧
    (let s := (up { die := 1 }).setCtlAt 16 { Ctl.reset true with dogEnd := 5, r := { CtlRegs.reset true with fwDog := 9 } }
     s.fwRuns 1 = true ∧ Memory.wf s.m.mem = true ∧ (s.ctlAt 16).r.fwDog ≠ 0 ∧ (s.ctlAt 16).dogEnd ≤ s.time.cycle ∧ s.boot.restarts = []) ∧
    (let s := { up {} with boot := { (up {}).boot with restarts := [(0, 19000000000), (0, 19900000000)] } }
     s.fwRuns 0 = true ∧
     2 ≤ (s.boot.restarts.filter (fun r => r.1 == (0 : BitVec 3) && decide (s.time.cycle < r.2 + 2000000000))).length) ∧
    ({ (up {}).boot with restarting := 1 } : Boot).restarting.getLsbD 0 = true := by decide +kernel

/-- Both ends of each range of temperature. -/
theorem witness_ResetEvents_thermal :
    [(1760 : BitVec 16), 1999].all (fun t => decide (1760 ≤ t.toInt) && decide (t.toInt < 2000)) = true ∧
    [(1599 : BitVec 16), 0x8000].all (fun t => decide (t.toInt < 1600)) = true ∧
    [(2000 : BitVec 16), 0x7FFF].all (fun t => decide (2000 ≤ t.toInt)) = true ∧ (up {}).boot.test.coreLive 127 = true ∧
    (up {}).mon.temp.any (fun e => e.1 / 16 == 0 && decide (1600 ≤ e.2.toInt)) = true ∧
    (up {}).mon.temp.all (fun e => e.1 / 16 != 7) = true := by decide +kernel

theorem witness_ResetEvents_registers :
    (up { reg := ⟨.bar2, 0, 0, 0⟩ }).input.reg.window = .bar2 ∧
    (let s := up { reg := ⟨.vsec, 0x18, 8, 0x12345⟩ }
     s.input.reg.window = .vsec ∧ s.host.linkUp = true ∧ s.input.reg.off = 0x18 ∧ s.input.reg.size = 8) ∧
    (let s := up { reg := ⟨.firmware, 0x2000538, 8, 16⟩ }
     s.input.reg.window = .firmware ∧ s.fwRuns 0 = true ∧ s.fwActs 0 = true ∧ s.input.reg.size = 8 ∧
     s.input.reg.off = BitVec.ofNat 32 (0x2000500 + 8 * 7) ∧ 1 ≤ s.input.reg.value.toNat % 32 ∧ s.input.reg.value.toNat % 32 ≤ 16) ∧
    16 < (up { reg := ⟨.firmware, 0x2000500, 8, 17⟩ }).input.reg.value.toNat % 32 := by decide +kernel

/-! ### Command queues -/

/-- A command of code `op` with bytes from 8 on. -/
def cmdBytes (op flags : Nat) (rest : List Byte) : List Byte := BitVec.ofNat 8 op :: BitVec.ofNat 8 flags :: leBytes 6 0 ++ rest ++ List.replicate (56 - rest.length) 0

def cmd (n op : Nat) (rest : List Byte) : Cmd :=
  { n := n, bytes := cmdBytes op 0 rest, started := true, time := 0, deadline := 0, access := none, slot := none, left := 0, held := false }

/-- Queue 0 holds `cs`; the input names queue 0 and number 1. -/
def queueWith (cs : List Cmd) (x : Input) : State :=
  { cellOn with host := { cellOn.host with queues := [(0, { queueA with cmds := cs, head := 2 })], tails := [(0, 4)] }, input := x }

def entryBytes : List Byte :=
  leBytes 8 0x20000 ++ leBytes 8 0x30000 ++ [4, 6, 0x83, 1] ++ leBytes 2 9 ++ leBytes 2 0 ++ leBytes 8 0x40000 ++ List.replicate 32 0

theorem witness_QueueEvents :
    (let s := queueWith [] { num := 8 * 5, size := 8, word := 7 }
     s.input.num % 8 = 0 ∧ s.input.num < 0x2000 ∧ s.boot.warming = false ∧ (s.queue 5).resetBy = [] ∧ s.tail 5 < s.input.word.toNat ∧
     (s.queue 5).st ≠ .active) ∧
    (let s := queueWith [] { num := 0, size := 8, word := 19 }
     s.tail 0 < s.input.word.toNat ∧ s.fwReady = true ∧ (s.queue 0).st = .active ∧ (s.queue 0).head + 2 ^ (s.queue 0).sqLog.toNat < s.input.word.toNat) ∧
    (let s := queueWith [] { num := 0, size := 8, word := 4 }
     s.input.word.toNat ≤ s.tail (s.input.num / 8)) ∧
    (let s := { queueWith [] { queue := 3, bytes := entryBytes } with host := { (queueWith [] {}).host with tails := [(3, 1)] } }
     s.fwReady = true ∧ (s.queue 3).st = .idle ∧ (s.queue 3).resetBy = [] ∧ s.tail 3 ≠ 0 ∧ s.host.records = [] ∧ s.entryErr entryBytes = 0 ∧
     s.usesRange 9 0 0 = false ∧
     { s with net := { s.net with accesses := [{ (default : Access) with asn := 9, loc := .hbm 0 }] } }.usesRange 9 0 0 = true) ∧
    (cellOn.entryErr [] = 1 ∧ (byteAt ([] : List Byte) 0x13).getLsbD 0 = false) := by decide +kernel

/-- An entry consumed: one of every kind, and none, of the commands before it. -/
theorem witness_QueueEvents_consume :
    (let s := queueWith [] { queue := 0, bytes := cmdBytes 2 0 [] }
     let x := s.queue 0
     s.fwReady = true ∧ x.st = .active ∧ x.resetBy = [] ∧ x.head < s.tail 0 ∧ s.tail 0 ≤ x.head + 2 ^ x.sqLog.toNat ∧ s.recordRoom = true ∧
     s.input.bytes.length = 64 ∧ (s.elapse.lacksRecords x.asn (cmd 2 2 [])).1 = false ∧ (cmd 2 2 []).defect = false) ∧
    (cmd 2 9 []).defect = true ∧ (cmd 2 3 []).op = 3 ∧ fieldAt (cmd 2 3 (List.replicate 24 0 ++ [1])).bytes 0x20 8 ≠ 0 ∧
    (let s := queueWith [cmd 1 3 []] { queue := 0, bytes := cmdBytes 4 0 (List.replicate 16 0 ++ [1]) }
     (∀ d ∈ (s.queue 0).cmds, d.n < (s.queue 0).head) ∧ (∃ d ∈ (s.queue 0).cmds, d.op = 3) ∧
     (cmd 2 4 (List.replicate 16 0 ++ [1])).defect = false ∧ s.fwReady = true) ∧
    (let s := queueWith [cmd 0 4 [], { cmd 1 4 [] with started := false }] { queue := 0, num := 1 }
     s.cmdAt 0 1 = some { cmd 1 4 [] with started := false } ∧ (s.queue 0).mayStart { cmd 1 4 [] with started := false } = true) ∧
    (let s := queueWith [cmd 0 3 [], { cmd 1 4 [] with started := false }] { queue := 0, num := 1 }
     (s.queue 0).mayStart { cmd 1 4 [] with started := false } = false) ∧
    (let s := queueWith [{ cmd 0 2 [] with started := false }, { cmd 1 4 [] with started := false }] { queue := 0, num := 1 }
     (s.queue 0).mayStart { cmd 1 4 [] with started := false } = false) := by decide +kernel

/-- A STOP and a QRESET that nothing holds, consumed and held before; and commands that hold nothing and that wait for an earlier one. -/
theorem witness_QueueEvents_acts :
    (∀ c ∈ [cmd 2 7 (leBytes 4 0 ++ [0xFF, 0xFF]), cmd 2 8 (leBytes 2 9)],
      let s := queueWith [cmd 1 4 []] { queue := 0, bytes := c.bytes }
      c.defect = false ∧ (c.op = 7 ∨ c.op = 8) ∧ (s.queue 0).mayStart c = true ∧ (s.elapse.lacksRecords (s.queue 0).asn c).1 = false) ∧
    (let c := { cmd 1 8 (leBytes 2 9) with started := false }
     let s := queueWith [cmd 0 4 [], c] { queue := 0, num := 1 }
     s.cmdAt 0 1 = some c ∧ c.started = false ∧ s.fwReady = true ∧ s.recordRoom = true ∧ (s.queue 0).mayStart c = true) ∧
    (let x := (queueWith [{ cmd 0 7 [] with left := 1 }, cmd 1 4 []] {}).queue 0
     (cmd 2 4 []).barrier = false ∧
     ∀ d ∈ x.cmds, d.n < (cmd 2 4 []).n → d.started = true ∧ d.op ≠ 3 ∧ (d.op ≠ 7 ∧ d.op ≠ 8 ∨ d.left ≠ 0)) := by decide +kernel

/-- A graph image of one task whose records the pool does not have. -/
def graphHeader : List Byte := [0, 0, 0, 0, 0, 0, 1, 0]

theorem witness_QueueEvents_records :
    (let s := { queueWith [] { queue := 0, bytes := cmdBytes 1 0 (leBytes 8 0x100000) } with
        m := { cellOn.m with mem := memStore cellOn.m.mem 0x100000 graphHeader },
        sched := { cellOn.sched with tasks := List.replicate 4096 taskA } }
     (s.elapse.lacksRecords (s.queue 0).asn (cmd 2 1 (leBytes 8 0x100000))).1 = true) := by decide +kernel

/-- A command runs at the head of queue 0. -/
def running (c : Cmd) : State := queueWith [c] { queue := 0, num := 1 }

/-- An access of a command that has performed, with what it read and its cause. -/
def answeredBy (bs : List Byte) (err : BitVec 8) : Access :=
  { (default : Access) with id := 77, agent := .firmware 0, data := bs, done := true, err := err }

def withAnswer (c : Cmd) (bs : List Byte) (err : BitVec 8) : State :=
  { running { c with access := some 77 } with net := { State.reset.net with accesses := [answeredBy bs err] } }

theorem witness_CommandEvents_signal :
    (∀ va ∈ [0x100004, 0x100001], commandRuns (running (cmd 1 2 (leBytes 8 va))) 2 (cmd 1 2 (leBytes 8 va)) ∧
      (BitVec.ofNat 64 (fieldAt (cmd 1 2 (leBytes 8 va)).bytes 8 8)).toNat % 8 ≠ 0) ∧
    (let c := cmd 1 2 (leBytes 8 0x100000)
     let s := running c
     commandRuns s 2 c ∧ c.access = none ∧ (s.queue 0).st = .active ∧ fieldAt c.bytes 0x19 1 = 0 ∧
     (s.elapse.translate 0 (s.queue 0).asn 0x100000 .write).1 = .at (.hbm 0x100000) (leafAttr 0xF 2)) ∧
    (let c := cmd 1 2 (leBytes 8 0x100000 ++ leBytes 8 5 ++ [0, 1])
     let s := running c
     commandRuns s 2 c ∧ fieldAt c.bytes 0x19 1 ≠ 0 ∧
     (s.elapse.translate 0 (s.queue 0).asn 0x100000 .rmw).1 = .at (.hbm 0x100000) (leafAttr 0xF 2) ∧ (leafAttr 0xF 2).fe = false) ∧
    (let c := { cmd 1 2 (leBytes 8 0x100000) with access := some 77 }
     commandRuns (withAnswer c [] 0) 2 c ∧ (withAnswer c [] 0).elapse.cmdAnswer c = some (answeredBy [] 0) ∧ (answeredBy [] 0).err = 0 ∧
     (withAnswer c [] 10).elapse.cmdAnswer c = some (answeredBy [] 10) ∧ (answeredBy [] 10).err ≠ 0 ∧
     ((withAnswer c [] 10).queue 0).st = .active) := by
  simp only [commandRuns]; decide +kernel

theorem witness_CommandEvents_wait :
    (let c := cmd 1 3 (leBytes 8 0x100000 ++ leBytes 8 5)
     let s := running c
     commandRuns s 3 c ∧ c.access = none ∧
     (s.elapse.translate 0 (s.queue 0).asn 0x100000 .read).1 = .at (.hbm 0x100000) (leafAttr 0xF 2)) ∧
    (let c := { cmd 1 3 (leBytes 8 0x100000 ++ leBytes 8 5) with access := some 77 }
     (∀ n ∈ [5, 4], commandRuns (withAnswer c (leBytes 8 n) 0) 3 c ∧
       (withAnswer c (leBytes 8 n) 0).elapse.cmdAnswer c = some (answeredBy (leBytes 8 n) 0)) ∧
     fieldAt c.bytes 0x10 8 ≤ leNat (answeredBy (leBytes 8 5) 0).data ∧ ¬ fieldAt c.bytes 0x10 8 ≤ leNat (answeredBy (leBytes 8 4) 0).data) ∧
    (let c := { cmd 1 3 [] with deadline := 7 }
     let s := { running c with time := { State.reset.time with cycle := 7 } }
     commandRuns s 3 c ∧ c.deadline ≠ 0 ∧ c.deadline ≤ s.time.cycle) := by
  simp only [commandRuns]; decide +kernel

/-- An operation of a copy engine whose units are done, for a COPY command or for core 1. -/
def doneCopy (cmd : Option (BitVec 10 × Nat)) (core : Option CoreId) : EngOp :=
  { newEngOp .copy copyBytes 5 core cmd 3 [] with unit := 1000 }

theorem witness_CommandEvents_copy :
    (let c := cmd 1 4 (leBytes 8 0x200000 ++ leBytes 8 0x210000 ++ leBytes 8 0x10000)
     commandRuns (running c) 4 c ∧ c.slot = none ∧ (running c).elapse.freeSlot true 0 = some 0) ∧
    (let c := { cmd 1 4 (leBytes 8 0x200000 ++ leBytes 8 0x210000 ++ leBytes 8 0x10000) with slot := some 63 }
     let s := (running c).setEngOp true 0 63 (doneCopy (some (0, 1)) none)
     commandRuns s 4 c ∧ s.elapse.engOp true 0 63 = some (doneCopy (some (0, 1)) none) ∧
     s.elapse.engDone true 0 63 (doneCopy (some (0, 1)) none) = true) := by
  simp only [commandRuns]; decide +kernel

theorem witness_CommandEvents_qreset :
    (commandRuns (running (cmd 1 8 (leBytes 2 9))) 8 (cmd 1 8 (leBytes 2 9)) ∧ ((running (cmd 1 8 (leBytes 2 9))).queue 9).st = .idle ∧
      ((running (cmd 1 8 (leBytes 2 9))).queue 9).resetBy = []) ∧
    (commandRuns (running (cmd 1 8 (leBytes 2 0))) 8 (cmd 1 8 (leBytes 2 0)) ∧ ((running (cmd 1 8 (leBytes 2 0))).queue 0).st = .active) ∧
    (let s := (running (cmd 1 8 (leBytes 2 9))).setQueue 9 { queueA with resetBy := [(4, 2)] }
     commandRuns s 8 (cmd 1 8 (leBytes 2 9)) ∧ (s.queue 9).resetBy ≠ [] ∧ ((0 : BitVec 10), 1) ∉ (s.queue 9).resetBy) := by
  simp only [commandRuns]; decide +kernel

/-- Queue 9 in its reset, asked for by command 2 of queue `g`. -/
def resetting (g : BitVec 10) (cs : List Cmd) : State :=
  { cellOn with input := { queue := 9 } }.setQueue 9 { queueA with resetBy := [(g, 2)], cmds := cs }

/-- Its work still runs; it has a command to discard; only its own QRESET is left; another queue's QRESET is to be answered; and it is. -/
theorem witness_CommandEvents_report :
    (let s := { cellOn with input := { queue := 0 } }.setQueue 0 { queueA with resetBy := [(9, 2)] }
     (s.queue 0).resetBy ≠ [] ∧ s.fwReady = true ∧ s.elapse.freeDead.drained 0 = false) ∧
    (∀ cs ∈ [[cmd 2 8 (leBytes 2 9)], [cmd 1 4 [], cmd 2 8 (leBytes 2 9)]],
      let s := resetting 9 cs
      (s.queue 9).resetBy ≠ [] ∧ s.fwReady = true ∧ s.elapse.freeDead.drained 9 = true ∧ s.elapse.freeDead.host.records = [] ∧
      s.elapse.freeDead.recordRoom = true ∧ (s.elapse.freeDead.queue 9).resetBy = [(9, 2)] ∧ (s.elapse.freeDead.queue 9).cmds = cs) ∧
    (resetting 9 [cmd 2 8 (leBytes 2 9)]).elapse.freeDead.cmdAt 9 2 = some (cmd 2 8 (leBytes 2 9)) ∧
    (let s := (resetting 0 []).setQueue 0 { queueA with cmds := [cmd 2 8 (leBytes 2 9)] }
     s.elapse.freeDead.cmdAt 0 2 = some (cmd 2 8 (leBytes 2 9)) ∧ (s.elapse.freeDead.queue 9).cmds = []) ∧
    (let s := resetting 0 []
     s.elapse.freeDead.drained 9 = true ∧ (s.elapse.freeDead.queue 9).resetBy = [(0, 2)] ∧ s.elapse.freeDead.cmdAt 0 2 = none) := by
  decide +kernel

def recordA : Record := { (default : Record) with queue := 0, succs := [7] }

theorem witness_CommandEvents_record :
    (let s := { cellOn with host := { cellOn.host with records := [recordA] }, input := { queue := 0, num := 0 },
                            sched := { cellOn.sched with tasks := [{ taskA with deps := 1, st := .waiting }] } }
     s.host.records.find? (fun r => r.queue.toNat == 0) = some recordA ∧ s.fwReady = true ∧ (s.queue 0).st ≠ .faulting ∧
     (s.queue 0).written < 0 + 2 ^ (s.queue 0).cqLog.toNat ∧ recordA.frees = none ∧
     recordA.status = 0 ∧ recordA.succs.Nodup ∧ s.findTask 7 = some { taskA with deps := 1, st := .waiting }) ∧
    ({ recordA with frees := some 9 } : Record).frees = some 9 ∧
    ({ recordA with status := 1 } : Record).status ≠ 0 ∧ ({ recordA with status := 1 } : Record).status ≠ 3 := by decide +kernel

/-- A queue that faults, whose work has drained; its ring has no room, or it has no record. -/
theorem witness_CommandEvents_faulting :
    (let s := ({ cellOn with input := { queue := 9, num := 0 } }).setQueue 9 { queueA with st := .faulting, cmds := [cmd 1 4 []], written := 16 }
     (s.queue 9).st = .faulting ∧ (s.queue 9).resetBy = [] ∧ s.freeDead.drained 9 = true ∧ 0 + 2 ^ (s.queue 9).cqLog.toNat ≤ (s.queue 9).written) := by
  decide +kernel

/-! ### Tasks -/

def tasksAre (ts : List Task) (x : Input) : State := { cellOn with sched := { cellOn.sched with tasks := ts }, input := x }

/-- A LAUNCH of a graph at an address that nothing maps. -/
theorem witness_TaskEvents_launch :
    commandRuns (running (cmd 1 1 (leBytes 8 0x200000000000000))) 1 (cmd 1 1 (leBytes 8 0x200000000000000)) ∧
    (cmd 1 1 []).left = 0 := by
  simp only [commandRuns]; decide +kernel

theorem witness_TaskEvents_pool :
    (let s := tasksAre [{ taskA with st := .ready }] {}
     s.elapse.freeDead.fwReady = true ∧ s.elapse.freeDead.sched.paused = false ∧ s.elapse.freeDead.candidates.length = 1) ∧
    (let s := { cellOn with sched := { cellOn.sched with paused := true } }
     s.elapse.freeDead.sched.paused = true) ∧ State.reset.elapse.freeDead.fwReady = false := by decide +kernel

def waitingTask : Task := { taskA with st := .ready, cmdN := 1, regions := [{ regionA with info := 0xFF01, placed := false, released := false }] }

/-- One task in the pool, of one region of one cell that may stand on any die, and its LAUNCH. -/
def dispatching : State :=
  { cellOn with
    cores := [], boot := { cellOn.boot with test := allPass }, sched := { cellOn.sched with tasks := [waitingTask] }
    host := { cellOn.host with queues := [(0, { queueA with cmds := [{ cmd 1 1 [] with left := 1 }] })] } }

/-- A task that the mapper maps (assumption 8) is dispatched, and the LAUNCH of one that it cannot map is refused. -/
theorem witness_TaskEvents_dispatch (h : Config.graphInfo [] allPass.shape = ⟨true, [], [], [], [], 0, [], [], []⟩) :
    let s1 := dispatching.elapse.freeDead.takeAsked
    dispatching.elapse.freeDead.fwReady = true ∧ dispatching.elapse.freeDead.sched.paused = false ∧ ∃ c, s1.candidates = [c] ∧
      (Config.mapRegion [] allPass.shape [(0, 0, [1])] 0 = some [⟨[(portSite 0, portFrames)], [], [], [], [], []⟩] →
        ∃ p regs s2, dispatches s1 c waitingTask p regs s2) ∧
      (Config.mapRegion [] allPass.shape [(0, 0, [1])] 0 = none → ∃ p, c.region = none ∧ s1.findTask c.uid = some waitingTask ∧
        waitingTask.sprint &&& s1.heldChannels [] = 0 ∧ s1.placeTask waitingTask [] = some p ∧
        s1.mapPlacement (s1.dispatched waitingTask p) p p = none ∧ s1.recordRoom = true ∧ s1.cmdAt 0 1 = some { cmd 1 1 [] with left := 1 } ∧
        s1.sched.tasks = [waitingTask]) := by
  have ht : dispatching.elapse.freeDead.takeAsked.boot.test = allPass := by decide +kernel
  have hg : dispatching.elapse.freeDead.takeAsked.graphInfo [] = ⟨true, [], [], [], [], 0, [], [], []⟩ := by
    rw [← h, ← ht]; rfl
  have hw : waitingTask.graph = [] := rfl
  have hp : dispatching.elapse.freeDead.takeAsked.placeTask waitingTask [] = some [(0, 0, [1])] := by
    simp only [State.placeTask, hw, hg]; decide +kernel
  have hv : (dispatching.elapse.freeDead.takeAsked.dispatched waitingTask [(0, 0, [1])]).graph = [] := rfl
  refine ⟨by decide +kernel, by decide +kernel, ⟨dispatching.elapse.freeDead.takeAsked.effective waitingTask, 0, 0, 0, 7, none⟩, rfl,
    fun hm => ?_, fun hm => ?_⟩
  · have hm2 : dispatching.elapse.freeDead.takeAsked.mapPlacement (dispatching.elapse.freeDead.takeAsked.dispatched waitingTask [(0, 0, [1])])
        [(0, 0, [1])] [(0, 0, [1])] = some [(0, 0, [(1, ⟨[(portSite 0, portFrames)], [], [], [], [], []⟩)])] := by
      simp only [State.mapPlacement, hv, hg, List.mapM_cons, List.mapM_nil, ht, hm]
      decide +kernel
    exact ⟨_, _, _, rfl, rfl, by decide +kernel, hp, hm2, by decide +kernel, by simp only [hw, hg]; rfl⟩
  · refine ⟨_, rfl, by decide +kernel, by decide +kernel, hp, ?_, by decide +kernel, by decide +kernel, by decide +kernel⟩
    simp only [State.mapPlacement, hv, hg, List.mapM_cons, List.mapM_nil, ht, hm]
    rfl

/-- A pre-emption's trap at a core that runs, has ended, and has stopped. -/
theorem witness_TaskEvents_trap :
    [RunMode.running, .ended, .halted, .off, .stopped].all (fun r =>
      let s := { cellOn with input := { core := ⟨0, 1⟩ } }.setCtlAt 1 { cellOn.ctl with run := r, preempt := true }
      s.input.core.ix == 1 && (s.ctlAt 1).preempt && s.fwActs (1 / 16) && (s.ctlAt 1).run == r && (s.ctlAt 1).wait == .none &&
      !(s.ctlAt 1).r.firmware && !s.countsOpen 1 && s.plane.ports == [] && s.plane.queued == []) = true ∧
    (let s := { coreAt 1 [] with net := { State.reset.net with accesses := [{ (default : Access) with agent := .ctl ⟨0, 1⟩, op := .read, dest := .reg 2 .d }] } }
     s.countsOpen 1 = true) ∧
    (let a : Arm := ⟨.node ⟨⟨0, 1⟩, 0, 0⟩, false, 5, 0, true, 0, 0, false, 0⟩
     let s := { cellOn with input := { core := ⟨0, 1⟩ }, plane := { State.reset.plane with ports := [(16 * 1 + 3, a)] } }
     let s := s.setCtlAt 1 { cellOn.ctl with run := .ended, preempt := true }
     (s.ctlAt 1).preempt = true ∧ s.fwActs 0 = true ∧ s.plane.queued = [] ∧ s.countsOpen 1 = false ∧ (s.ctlAt 1).run = .ended ∧
     (16 * 1 + 3, a) ∈ s.plane.ports ∧ a.entered = false) := by decide +kernel

/-- A draining task whose core is quiet with sinks that have not reported, one that is not quiet, and one whose sinks have all reported. -/
def draining (run : RunMode) (reported : Bool) : State :=
  let s := tasksAre [{ taskA with st := .draining }] { num := 7 }
  let c := s.core 1
  (s.setCore 1 { c with ctl := { c.ctl with run := run }, occ := some { cellA with quiescing := true } }).setPort 1 0
    { Port.reset with reported := reported }

theorem witness_TaskEvents_drain :
    (let s := draining .stopped false
     s.findTask s.input.num = some { taskA with st := .draining } ∧ (∀ d ∈ ({ taskA with st := .draining } : Task).dies, s.fwActs d = true) ∧
     s.allReported 7 = false ∧ (∀ j ∈ s.taskCores 7, s.cellQuiet j = true ∧ s.saveBad j = none) ∧ s.addersEmpty 7 = true ∧ (s.queue 0).st = .active ∧
     (s.queue 0).resetBy = []) ∧
    (let s := draining .running false
     s.allReported 7 = false ∧ ∃ j ∈ s.taskCores 7, s.cellQuiet j = false) ∧
    (let s := ((draining .ended true).setPort 1 1 { Port.reset with reported := true })
     s.allReported 7 = true) := by decide +kernel

/-- The same task with a save block of 80 KiB where nothing is mapped. -/
def savable : Task := { taskA with st := .draining, desc := List.replicate 16 0 ++ leBytes 8 (2 ^ 50) ++ leBytes 8 81920 }

def stored : State :=
  let s := draining .stopped false
  { s with sched := { s.sched with tasks := [savable] } }

def withdrawn (s : State) : State := (s.taskCores 7).foldl (fun s j => (s.withdraw j).cleanLines j) s

def saving : State := { withdrawn stored with draws := (withdrawn stored).draws + 81920 }

/-- What the save of its cells takes. -/
def needs (s : State) : Nat :=
  (((s.taskCores 7).filterMap (fun j => (((withdrawn s).core j).occ).map ((withdrawn s).saveCell j))).map
    (fun c => 81920 + 128 * (c.units.map (fun v => v.2.length)).sum)).sum

/-- A save block without room is written at once; one of 80 KiB where nothing is mapped faults. -/
theorem witness_TaskEvents_save :
    (let s := draining .stopped false
     min ({ taskA with st := .draining } : Task).saveLen (needs s) = 0 ∧
     ∃ s2, (withdrawn s).fwWrite 5 0 (freeBytes (withdrawn s).draws 0) = (.done, s2) ∧ s2.findTask 7 = some { taskA with st := .draining } ∧
        s2.taskCores 7 = s.taskCores 7 ∧ ∀ j ∈ s.taskCores 7, ((withdrawn s).core j).occ = (s.core j).occ) ∧
    (stored.findTask stored.input.num = some savable ∧ stored.allReported 7 = false ∧
      (∀ j ∈ stored.taskCores 7, stored.cellQuiet j = true ∧ stored.saveBad j = none) ∧ stored.addersEmpty 7 = true ∧
      min savable.saveLen (needs stored) = 81920 ∧
      ∃ c va s2, saving.fwWrite 5 (2 ^ 50) (freeBytes (withdrawn stored).draws 81920) = (.fault c va, s2) ∧ (s2.queue 0).st = .active ∧
        (s2.queue 0).resetBy = []) := by
  refine ⟨⟨by decide +kernel, _, rfl, by decide +kernel⟩, by decide +kernel, by decide +kernel, by decide +kernel, by decide +kernel,
    by decide +kernel, ?_⟩
  have hl : (freeBytes (withdrawn stored).draws 81920).length = 81920 := by simp [freeBytes]
  have hp : pageParts (2 ^ 50) 81920 = (2 ^ 50, 65536) :: (pageParts (2 ^ 50) 81920).tail := by decide +kernel
  refine ⟨4, BitVec.ofNat 64 (2 ^ 50), (saving.fwTranslate 0 5 (BitVec.ofNat 64 (2 ^ 50)) .write).2, ?_, by decide +kernel, by decide +kernel⟩
  have ht : saving.fwTranslate 0 5 (BitVec.ofNat 64 (2 ^ 50)) .write =
      (.fault 4, (saving.fwTranslate 0 5 (BitVec.ofNat 64 (2 ^ 50)) .write).2) := Prod.ext (by decide +kernel) rfl
  rw [State.fwWrite, hl, hp, State.fwPutParts, ht]

theorem witness_TaskEvents_start :
    (let s := tasksAre [{ taskA with st := .configuring }] { num := 7 }
     s.findTask s.input.num = some { taskA with st := .configuring } ∧ s.fwReady = true ∧ (∀ j ∈ s.taskCores 7, s.coreLoaded j = true) ∧
     1 ∈ s.taskCores 7 ∧ (s.core 1).occ = some cellA ∧ taskA.regions[0]? = some regionA ∧ regionA.placed = true ∧
     ({ taskA with st := .configuring } : Task).savedCell 0 0 = none) ∧
    (let x : SavedCell := { (default : SavedCell) with region := 0, cell := 0 }
     ({ taskA with saved := [x] } : Task).savedCell 0 0 = some x ∧ x.ctl.run ≠ .ended) := by decide +kernel

/-- A region that core 1 waits for: one that its load has placed, and one that nothing can place. -/
def asked (placed : Bool) (t : SelfTest) : State :=
  let g : RegionSt := { regionA with info := BitVec.ofNat 64 (2 ^ 63), placed := placed, released := false, waiters := [(⟨0, 1⟩, none)] }
  let s := tasksAre [{ taskA with regions := [regionA, g] }] { num := 7, region := 1 }
  { s.setCtlAt 1 { cellOn.ctl with wait := .cfgreq 3 1 } with boot := { s.boot with test := t } }

theorem witness_TaskEvents_request :
    (let s := asked true allPass
     ∃ u g, s.findTask s.input.num = some u ∧ u.regions[1]? = some g ∧ s.fwReady = true ∧ g.onDemand = true ∧ u.st = .running ∧
       g.released = false ∧ g.waiters = [(⟨0, 1⟩, none)] ∧ (s.ctlAt 1).wait = .cfgreq 3 1 ∧ (s.core 1).occ = some cellA ∧
       cellA.region.toNat ≠ 1 ∧ g.placed = true ∧ (∀ j ∈ s.taskCores u.uid, s.coreLoaded j = true)) ∧
    (let t := { allPass with failedBase := [0, 1, 2, 3, 4, 5, 6, 7, 8, 9, 10, 11, 12, 13, 14, 15] }
     let s := asked false t
     s.boot.test.cores.filter (fun j => j % 16 != 0) = [] ∧
     ∃ u g, s.findTask s.input.num = some u ∧ u.regions[1]? = some g ∧ g.placed = false ∧ g.waiters = [(⟨0, 1⟩, none)]) := by
  refine ⟨⟨_, _, rfl, rfl, ?_⟩, ?_, _, _, rfl, rfl, ?_⟩ <;> try decide +kernel

theorem witness_TaskEvents_report :
    (let s := { cellOn with input := { core := ⟨0, 1⟩ } }.setCtlAt 1 { cellOn.ctl with run := .ended }
     (s.ctlAt 1).run = .ended ∧ s.lcnt 1 = 0 ∧ s.scnt 1 = 0 ∧ s.ccnt 1 = 0 ∧ s.tcnt 1 = 0 ∧ s.claimed 1 = false) := by decide +kernel

/-- The last region of a task, and one beside another that is still open. -/
def reporting (rs : List RegionSt) : State :=
  let s := tasksAre [{ taskA with regions := rs, cmdN := 1 }] { num := 7, region := 0 }
  let s1 := (s.setPort 1 0 { Port.reset with reported := true }).setPort 1 1 { Port.reset with reported := true }
  { s1.setCore 1 { s1.core 1 with occ := some { cellA with ctlDone := true } } with
    host := { s.host with queues := [(0, { queueA with cmds := [{ cmd 1 1 [] with left := 1 }] })] } }

theorem witness_TaskEvents_complete :
    (let s := reporting [regionA]
     s.findTask 7 = some { taskA with cmdN := 1 } ∧ regionA.placed = true ∧ regionA.released = true ∧ regionA.done = false ∧
     regionA.onDemand = false ∧ taskA.st = .running ∧ s.regionReported [1] = true ∧ s.taskCores 7 = [1] ∧ s.jobsOf 7 = [] ∧ s.ckpt.asked = [] ∧
     s.recordRoom = true ∧ s.cmdAt 0 1 = some { cmd 1 1 [] with left := 1 }) ∧
    (let s := reporting [regionA, regionA]
     s.regionReported [1] = true ∧ ∃ u, s.findTask 7 = some u ∧ ∃ x, u.regions[1]? = some x ∧ (if x.onDemand then x.placed else !x.done) = true) := by
  refine ⟨?_, ?_, _, rfl, _, rfl, ?_⟩ <;> try decide +kernel

/-- STOP of no task, of one that runs, of one that waits, and of one that has been named. -/
def stopping (c : Cmd) (ts : List Task) : State := { running c with sched := { cellOn.sched with tasks := ts } }

def stopAll : Cmd := cmd 1 7 (leBytes 4 0 ++ [0xFF, 0xFF])

theorem witness_TaskEvents_stop :
    (commandRuns (stopping stopAll []) 7 stopAll ∧ stopAll.left = 0 ∧ (stopping stopAll []).namedTasks 0 0 0xFFFF = []) ∧
    (let s := stopping stopAll [taskA]
     commandRuns s 7 stopAll ∧ s.namedTasks 0 (fieldAt stopAll.bytes 8 4) (fieldAt stopAll.bytes 0x0C 2) = [taskA] ∧ taskA.st = .running ∧
     taskA.stopping = false ∧ (∀ j ∈ s.taskCores 7, s.claimed j = false)) ∧
    (let u := { taskA with st := .waiting, cmdN := 1 }
     let s := stopping stopAll [u]
     commandRuns s 7 stopAll ∧ s.namedTasks 0 (fieldAt stopAll.bytes 8 4) (fieldAt stopAll.bytes 0x0C 2) = [u] ∧ s.cmdAt 0 u.cmdN = some stopAll) ∧
    (let c := { stopAll with left := 1 }
     let s := stopping c [taskA]
     commandRuns s 7 c ∧ c.left ≠ 0 ∧ (∀ u ∈ s.namedTasks 0 0 0xFFFF, u.stopping = true → u.st = .running)) := by
  simp only [commandRuns]; decide +kernel

theorem witness_TaskEvents_serve :
    (let s := { cellOn with input := { core := ⟨0, 1⟩ } }.setCtlAt 1 { cellOn.ctl with run := .stopped, r := { cellOn.ctl.r with trapCause := 4 } }
     s.serves 1 = true ∧ (s.core 1).occ = some cellA ∧ s.findTask 7 = some taskA ∧ (s.queue 0).st = .active ∧ (s.queue 0).resetBy = []) := by
  decide +kernel

/-- A region whose load is not finished, one that no die could ever take, and one that the mapper maps once there is room (assumption 8). -/
theorem witness_TaskEvents_unplaced :
    (let s := asked true allPass
     let s := s.setCore 2 { s.core 2 with
       occ := some { cellA with region := 1 }, sites := [(0, { Site.reset with path := [default] })] }
     2 ∈ s.taskCores 7 ∧ (∃ o, (s.core 2).occ = some o ∧ o.region.toNat = 1) ∧ s.coreLoaded 2 = false) ∧
    (let s := asked false { allPass with failedBase := [0, 1, 2, 3, 4, 5, 6, 7, 8, 9, 10, 11, 12, 13, 14, 15] }
     ∃ u, s.findTask 7 = some u ∧ s.fwReady = true ∧
       ((s.placeEver u 1).any (fun p => (s.mapPlacement u (u.placement ++ p) p).isSome)) = false) ∧
    (Config.graphInfo [] allPass.shape = ⟨true, [], [], [], [], 0, [], [], []⟩ →
     Config.mapRegion [] allPass.shape [(0, 0, [1]), (1, 0, [])] 1 = some [] →
     let s := asked false allPass
     ∃ u, s.findTask 7 = some u ∧ ((s.placeEver u 1).any (fun p => (s.mapPlacement u (u.placement ++ p) p).isSome)) = true) := by
  refine ⟨by decide +kernel, ⟨_, rfl, by decide +kernel, by decide +kernel⟩, fun h hm => ⟨_, rfl, ?_⟩⟩
  have ht : (asked false allPass).boot.test = allPass := by decide +kernel
  have hg : (asked false allPass).graphInfo [] = ⟨true, [], [], [], [], 0, [], [], []⟩ := by
    rw [← h, ← ht]; rfl
  have hu : ∀ u : Task, u.graph = [] → u.regions[1]? = some { regionA with info := BitVec.ofNat 64 (2 ^ 63), placed := false, released := false, waiters := [(⟨0, 1⟩, none)] } →
      u.scopeDies = [0] → u.placement = [(0, 0, [1])] → u.uid = 7 →
      ((asked false allPass).placeEver u 1).any (fun p => ((asked false allPass).mapPlacement u (u.placement ++ p) p).isSome) = true := by
    intro u h1 h2 h3 h4 h5
    have hp : (asked false allPass).placeEver u 1 = some [(1, 0, [])] := by
      simp only [State.placeEver, h1, h2, h3, hg]; decide +kernel
    have hm2 : (asked false allPass).mapPlacement u [(0, 0, [1]), (1, 0, [])] [(1, 0, [])] = some [(1, 0, [])] := by
      simp only [State.mapPlacement, h1, hg, List.mapM_cons, List.mapM_nil, ht, hm, State.mappingSound, h5]
      rfl
    simp only [hp, h4, Option.any_some, List.singleton_append, hm2, Option.isSome_some]
  exact hu _ rfl rfl (by decide +kernel) (by decide +kernel) rfl

/-- A graph of one task of one region of one cell, whose canonical graph and operands are empty. -/
def graphImage : List Byte :=
  leBytes 4 0x47525048 ++ leBytes 2 1 ++ leBytes 2 1 ++ leBytes 8 0 ++ leBytes 8 0x100100 ++ leBytes 40 0 ++ List.replicate 192 0 ++
  leBytes 12 0 ++ [1] ++ leBytes 51 0 ++ leBytes 8 (1 + 255 * 2 ^ 8) ++ leBytes 56 0

def launching : State :=
  { running (cmd 1 1 (leBytes 8 0x100000)) with m := { cellOn.m with mem := memStore cellOn.m.mem 0x100000 graphImage } }.elapse

def okIs (r : FwRead) (bs : List Byte) : Bool :=
  match r with
  | .ok x => x == bs
  | .error _ => false

theorem eq_of_okIs {r : FwRead} {bs : List Byte} (h : okIs r bs = true) : r = .ok bs := by
  cases r <;> simp_all [okIs]

theorem pair_of_okIs {r : FwRead × State} {bs : List Byte} (h : okIs r.1 bs = true) : r = (.ok bs, r.2) := by
  rw [← eq_of_okIs h]

def headRead : FwRead × State := launching.fwRead 5 0x100000 64
def descRead : FwRead × State := headRead.2.fwRead 5 0x100100 128

theorem test_graph_head : okIs headRead.1 (graphImage.take 64) = true := by decide +kernel
theorem test_graph_desc : okIs descRead.1 (graphImage.drop 256) = true := by decide +kernel
theorem test_graph_header : headerOk (graphImage.take 64) = true := by decide +kernel
theorem test_graph_descriptor : descOk (graphImage.drop 256) = true := by decide +kernel
def imageA : TaskImage := ⟨graphImage.drop 256, [], []⟩

theorem test_graph_place :
    placeRegions descRead.2.boot.test ⟨true, [], [], [], [], 0, [], [], []⟩ descRead.2.boot.test.cores (dispatchRegions (descRegions imageA.desc)) [] []
      [] = some [(0, 0, [1])] := by decide +kernel

/-- A graph that the mapper accepts and maps (assumption 8) enters one task. -/
theorem witness_TaskEvents_graph (h : Config.graphInfo [] launching.boot.test.shape = ⟨true, [], [], [], [], 0, [], [], []⟩)
    (hm : Config.mapRegion [] launching.boot.test.shape [(0, 0, [1])] 0 = some [⟨[(portSite 0, portFrames)], [], [], [], [], []⟩]) :
    launching.readGraph 5 0x100000 = (.ok ([imageA], []), descRead.2) ∧ [imageA].length ≤ descRead.2.poolFree := by
  have e1 : launching.fwRead 5 0x100000 64 = (.ok (graphImage.take 64), headRead.2) := by
    rw [← headRead]; exact pair_of_okIs test_graph_head
  have e2 : headRead.2.fwRead 5 0x100100 128 = (.ok (graphImage.drop 256), descRead.2) := by
    rw [← descRead]; exact pair_of_okIs test_graph_desc
  have f1 : fieldAt (graphImage.take 64) 6 2 = 1 := by decide +kernel
  have f2 : fieldAt (graphImage.take 64) 0x10 8 = 0x100100 := by decide +kernel
  have f3 : fieldAt (graphImage.take 64) 8 4 = 0 := by decide +kernel
  have f4 : fieldAt (graphImage.take 64) 0x18 8 = 0 := by decide +kernel
  have f5 : (graphImage.drop 256).take 128 = graphImage.drop 256 := by decide +kernel
  have f6 : fieldAt (graphImage.drop 256) 8 4 = 0 ∧ fieldAt (graphImage.drop 256) 0x2C 4 = 0 := by decide +kernel
  have f7 : edgesOk 1 [] = true := by decide
  have r0 (s : State) (asn : BitVec 16) (va : Nat) : s.fwRead asn va 0 = (.ok [], s) := by
    have : pageParts va 0 = [] := by
      simp only [pageParts, List.filter_map, List.map_eq_nil_iff, List.filter_eq_nil_iff, List.mem_range, Function.comp]
      intro i hi
      simp
    simp [State.fwRead, this, State.fwParts]
  have snd : descRead.2.taskSound imageA = true := by
    have e : descRead.2.boot.test.shape = launching.boot.test.shape := by decide +kernel
    have g : descRead.2.graphInfo imageA.graph = ⟨true, [], [], [], [], 0, [], [], []⟩ := by rw [← h, ← e]; rfl
    have hr : descRegions imageA.desc = [1 + 255 * 2 ^ 8] := by decide +kernel
    have m : mapFull descRead.2.boot.test ⟨true, [], [], [], [], 0, [], [], []⟩ imageA.graph (descRegions imageA.desc) =
        some [⟨[(portSite 0, portFrames)], [], [], [], [], []⟩] := by
      have hm2 : Config.mapRegion imageA.graph descRead.2.boot.test.shape [(0, 0, [1])] 0 =
          some [⟨[(portSite 0, portFrames)], [], [], [], [], []⟩] := by rw [e]; exact hm
      have od : rgOnDemand ([1 + 255 * 2 ^ 8].getD 0 0) = false := by decide
      rw [mapFull, test_graph_place, hr]
      simp only [Option.bind_some, List.length_singleton, List.range_one, List.mapM_cons, List.mapM_nil, od, Bool.false_eq_true, if_false, hm2]
      decide +kernel
    simp only [State.taskSound, g, m]
    decide +kernel
  refine ⟨?_, by decide +kernel⟩
  simp only [State.readGraph, e1, test_graph_header, f1, f2, f3, f4, e2, r0, List.range_one, List.map, State.readTasks]
  simp [f5, test_graph_descriptor, f7, f6, r0, edgesOf]
  simpa [imageA] using snd

theorem witness_TaskEvents_bounds : State.writeBounds 5 [imageA] descRead.2 = (.done, descRead.2) := by
  have : fieldAt imageA.desc 0x20 8 = 0 := by decide +kernel
  simp [State.writeBounds, this]

/-- R136's example: 180 + 24 + 10 + 2 + 18 cycles and 4 firings of 4; a path takes the greatest of its ways. -/
theorem test_path_bound :
    pathBound [⟨[(0xC, 1), (5, 1), (1, 10), (2, 1), (3, 3)], 4⟩] = 250 ∧
    pathBound [⟨[(1, 1)], 0⟩, ⟨[(0xC, 1), (5, 1), (1, 10), (2, 1), (3, 3)], 4⟩] = 250 := by decide

/-! ### Residency -/

def armA : Arm := { (default : Arm) with who := .ctl, id := 3, key := 9, entered := true }

/-- A die whose arbiter is on; cell 0 of the task at core 1 and another at core 3, which may not move, with sillage between them. -/
def crowded (w : Nat) : State :=
  let t : Task := { taskA with desc := List.replicate 13 0 ++ [1] }
  let s := { cellOn with sched := { cellOn.sched with tasks := [t] },
                         swap := { State.reset.swap with sill := [(16 * 1 + 3, BitVec.ofNat 32 w)], arb := [(0, { Arbiter.reset with en := true, elig := 0, hyst := 1, maxP := 1, next := 0 })] } }
  s.setCore 3 { s.core 3 with occ := some { cellA with cell := 1, frozen := 2 } }

theorem witness_ResidencyEvents :
    (let s := { cellOn with plane := { State.reset.plane with latched := true, ports := [(16 * 1 + 2, armA)] } }
     s.plane.latched = true ∧ s.time.cycle ≤ 128 * (s.plane.frame + 1) ∧ s.plane.high = 0 ∧ s.plane.winner 2 = some (16 * 1 + 2, armA) ∧
     tabFind s.plane.ports (16 * 1 + 2) = some armA) ∧
    (let s := { cellOn with plane := { State.reset.plane with ports := [(16 * 1 + 2, armA)] } }.setCtlAt 1 { cellOn.ctl with wait := .sprint 4 2 0 }
     s.plane.latched = false ∧ s.time.cycle ≤ 128 * s.plane.frame + 106 ∧ s.plane.queued = [] ∧ s.plane.gone = [] ∧ (s.ctlAt 1).wait = .sprint 4 (BitVec.ofNat 4 2) 0) ∧
    (let s := crowded 0
     (s.arbiter 0).en = true ∧ s.boot.warming = false ∧ (s.arbiter 0).next ≤ 128 * s.plane.frame + 127 ∧ s.swapList 0 (s.arbiter 0) = [] ∧
     (s.core 1).occ = some cellA ∧ cellA.frozen = 0 ∧ cellA.age ≠ 15 ∧ (s.core 3).occ = some { cellA with cell := 1, frozen := 2 }) ∧
    (let s := crowded 100
     s.swapList 0 (s.arbiter 0) = [(-100, 1, 2)] ∧ 1 ≤ (s.arbiter 0).maxP.toNat) ∧
    tabFind [((3 : Nat), (9 : BitVec 32))] 3 = some 9 := by decide +kernel

theorem test_idleHigh_none (s : State) (h : s.plane.high = 0) : Config.idleHigh s.draws &&& s.plane.high = 0 := by simp [h]

/-- Cycles that pass on a claimed core, whose timers pause, and on one whose timers count; an instant on either side of a frame's delivery. -/
theorem witness_ResidencyEvents_timers :
    (let s := cellOn.setArbiter 0 { Arbiter.reset with claimed := 2 }
     s.timerPaused 1 = true ∧ cellOn.timerPaused 1 = false ∧ (cellOn.thr (1 / 16)).toNat = 16 ∧
     s.time.cycle < { s with time := { s.time with cycle := 128 } }.time.cycle) ∧
    (let s := (crowded 0).setArbiter 0 { ((crowded 0).arbiter 0) with next := 110 }
     128 * s.plane.frame + 106 ≤ (s.arbiter 0).next ∧ s.plane.latched = false ∧ (s.arbiter 0).next ≤ 128 * s.plane.frame + 127) ∧
    (crowded 100).plane.latched = false ∧ ((crowded 100).arbiter 0).next < 106 := by decide +kernel

/-- R367: a node's own firing counts no cycle; R98, R251: a timer that is not paused counts the cycles in which its die issues, none while paused. -/
theorem test_timer_counts :
    (let x : Site := { Site.reset with ct := { Site.reset.ct with node0 := { NodeSt.reset with firing := true, blocked := some 5 } } }
     (x.later x 9 0 128).ct.node0.blocked) = some 133 ∧
    timerLater 9 128 (some 10) = some 10 ∧ cellOn.leftOut 128 1 = 0 ∧
    (cellOn.setArbiter 0 { Arbiter.reset with claimed := 2 }).leftOut 128 1 = 128 ∧
    { cellOn with mon := { cellOn.mon with forced := 1 } }.leftOut 20 1 = 12 := by decide +kernel

/-- An exchange of cores 1 and 2, of which neither, one, and both have drained. -/
def exchA (drained : Bool) : Exchange := ⟨0, 1, 2, 0, drained, []⟩

def exchanging (drained : Bool) (run : RunMode) : State :=
  let s := { cellOn with swap := { State.reset.swap with exchanges := [exchA drained] }, input := { core := ⟨0, 1⟩ } }
  s.setCore 1 { (s.core 1) with ctl := { (s.core 1).ctl with run := run }, sites := [], ports := [] }

theorem witness_ResidencyEvents_exchange :
    (let s := exchanging false .ended
     s.exchange = some (exchA false) ∧ s.coreDrained 1 = true ∧ s.coreDrained 2 = true ∧ (exchA false).ka = 1 ∧ (exchA false).kb = 2) ∧
    (let s := exchanging true .ended
     s.exchange = some (exchA true) ∧ s.holdsInstall 1 = false ∧ s.holdsInstall 2 = false ∧ Memory.wf s.m.mem = true ∧ s.plane.ports = []) ∧
    (let s := { exchanging false .ended with
        net := { State.reset.net with accesses := [{ (default : Access) with agent := .ctl ⟨0, 1⟩, op := .read, dest := .reg 2 .d }] } }
     s.coreDrained 1 = false) ∧
    (let s := { exchanging true .ended with plane := { State.reset.plane with ports := [(16 * 1 + 2, armA)] } }
     s.holdsInstall 1 = true) := by decide +kernel

/-- A route update at core 1, and a flip that waits for it. -/
def routeA : Packet := { (default : Packet) with cls := 3, kind := 13, src := 1, dst := coreNode 1, addr := 1 }

theorem witness_ResidencyEvents_flips :
    (let f : Flip := ⟨2, 0, 0, 0, 1, 1, 4, 5, false, false⟩
     let s := { cellOn with swap := { State.reset.swap with flips := [f] }, input := { num := 0 }, net := { State.reset.net with packets := [routeA] } }
     s.findPacket 0 = some routeA ∧ routeA.isRoute = true ∧ s.deliverable routeA = true ∧ nodeCore routeA.dst = some 1 ∧ f ∈ s.swap.flips ∧
     f.src = 1 ∧ f.sent = false) := by decide +kernel

/-! ### Checkpoints -/

def ckptCmd (index : Nat) : Cmd := cmd 1 5 (leBytes 4 0 ++ leBytes 4 index ++ leBytes 8 0x100000)

def asking (index : Nat) (ts : List Task) (bs : List Byte) : State :=
  { stopping (ckptCmd index) ts with m := { cellOn.m with mem := memStore cellOn.m.mem 0x100000 bs } }

/-- Index 0xFFFF, a task that waits, and a task that runs, without and with an area. -/
theorem witness_CheckpointEvents_request :
    (let s := asking 0xFFFF [taskA] []
     commandRuns s 5 (ckptCmd 0xFFFF) ∧ s.ckpt.jobs = [] ∧ fieldAt (ckptCmd 0xFFFF).bytes 0x0C 2 = 0xFFFF) ∧
    (let s := asking 0 [{ taskA with st := .waiting }] []
     commandRuns s 5 (ckptCmd 0) ∧ ∀ u ∈ s.namedTasks 0 (fieldAt (ckptCmd 0).bytes 8 4) 0, u.st ≠ .running ∧ u.st ≠ .draining) ∧
    (let s := asking 0 [taskA] []
     commandRuns s 5 (ckptCmd 0) ∧ fieldAt (ckptCmd 0).bytes 0x0C 2 = 0 ∧ s.namedTasks 0 0 0 = [taskA] ∧ taskA.st = .running ∧
     s.rootOf (s.queue 0).asn = some 0x40000 ∧
     (BitVec.ofNat 64 (fieldAt (ckptCmd 0).bytes 0x10 8)).toNat = 0x100000 ∧ BitVec.ofNat 2 (fieldAt (ckptCmd 0).bytes 0x18 1) = 0 ∧
     (s.elapse.requestFails taskA 0x40000 (s.queue 0).asn 0x100000 0).1 = true) ∧
    (let s := asking 0 [taskA] areaBytes
     commandRuns s 5 (ckptCmd 0) ∧ s.namedTasks 0 0 0 = [taskA] ∧
     (s.elapse.requestFails taskA 0x40000 (s.queue 0).asn 0x100000 0).1 = false ∧
     (s.elapse.requestFails taskA 0x40000 (s.queue 0).asn 0x100000 0).2.jobsOf taskA.uid = []) := by
  simp only [commandRuns]; decide +kernel

def jobA : Ckpt := { (default : Ckpt) with task := 7, asn := 5, root := 0x40000, area := 0x100000, records := [(0, default)] }

/-- Task 7 with a job, its sinks with or without their reports; the first 2^40 bytes copied on a write where `leaf` is 0x1F. -/
def jobOn (j : Ckpt) (reported : Bool) (leaf : Byte) : State :=
  let s := { cellOn with ckpt := { State.reset.ckpt with jobs := [j] }, m := { cellOn.m with mem := [(0x40000, leaf)] }, input := { num := 7 } }
  (s.setPort 1 0 { Port.reset with reported := reported }).setPort 1 1 { Port.reset with reported := reported }

theorem witness_CheckpointEvents_cut :
    [true, false].all (fun r =>
      let s := jobOn jobA r 0x0F
      s.findTask 7 == some taskA && (s.jobsOf 7).head? == some jobA && s.fwReady && !jobA.cut && taskA.st == .running &&
      s.elapse.savedPages jobA.root (s.elapse.savedRanges jobA.root taskA) == [] && s.elapse.atBoundary jobA [] == r) = true := by decide +kernel

/-- A job behind its cut whose one page is still to copy, with a range of one block and its slot at an address. -/
def copyingAt (ranges : List (Word × Nat × BitVec 8)) (slot : Word) : Ckpt :=
  { jobA with cut := true, started := true, slotVa := slot, ranges := ranges, pages := [(0, 2 ^ 40, 0)] }

/-- How the copy of the page ends: none to copy, a slot outside, a source that nothing maps, and a slot on a page that is being copied. -/
def copyEnds (j : Ckpt) : CopyOut :=
  let s := jobOn j true 0x1F
  (State.copyBlocks 0 j (j.blocksOfPage s.elapse 0 (2 ^ 40)) s.elapse).1

theorem witness_CheckpointEvents_copy :
    ([copyingAt [] 0x300000, copyingAt [(0x200000, 4096, 0)] (2 ^ 52), copyingAt [(0x200000, 4096, 0)] 0x300000].all (fun j =>
      let s := jobOn j true 0x1F
      s.ckpt.jobs.find? (fun j => j.cut && !j.abort && j.pages.any (fun p => p.2.2 == s.input.reticle.toNat)) == some j &&
      j.pages.find? (fun p => p.2.2 == s.input.reticle.toNat) == some (0, 2 ^ 40, 0) && (s.elapse.startCopy j).1 == some j &&
      s.leafPlace 0 3 0x40000 == some (0x40000, 0x1F, 2) && (0x1F).testBit 4 && s.elapse.m.banks == [])) = true ∧
    copyEnds (copyingAt [] 0x300000) = .done ∧ copyEnds (copyingAt [(0x200000, 4096, 0)] 0x300000) = .wait ∧
    (match copyEnds (copyingAt [(0x200000, 4096, 0)] (2 ^ 52)) with | .dest _ => true | _ => false) = true ∧
    ((jobOn { copyingAt [] 0 with started := false } true 0x1F).elapse.startCopy { copyingAt [] 0 with started := false }).1.isNone = true := by
  decide +kernel

theorem witness_CheckpointEvents_commit :
    (let j := { copyingAt [] (2 ^ 52) with pages := [] }
     let s := jobOn j true 0x0F
     (s.jobsOf 7).head? = some j ∧ s.fwReady = true ∧ j.cut = true ∧ j.abort = false ∧ j.pages = [] ∧ s.recordRoom = true ∧
     (s.elapse.startCopy j).1 = some j) := by decide +kernel

/-- A write to the slot that is on its way, that has been answered, and that has met an error; the manifest's own; and a source with an error. -/
theorem witness_CheckpointEvents_slot :
    (let j := copyingAt [] 0x300000
     let x : Access := { (default : Access) with dest := .fetch, op := .write, asn := 5, ea := 0x300000 }
     let sent := fun (x : Access) => { jobOn j true 0x1F with net := { State.reset.net with accesses := [x] } }
     (sent x).slotError j = none ∧ (sent x).slotOpen j (fun x => x.ea == j.slotVa) = true ∧ (sent x).slotOpen j (fun _ => true) = true ∧
     (sent { x with done := true }).slotOpen j (fun _ => true) = false ∧ (sent { x with err := 5 }).slotError j = some 0x300000 ∧
     (sent { x with agent := .firmware 0, done := true }).manifestSent j = true ∧
     (sent { x with agent := .ckptEng 0 7, done := true }).manifestSent j = false) ∧
    (let j := copyingAt [(0x200000, 4096, 0)] (2 ^ 52)
     let s := { jobOn j true 0x1F with m := { (jobOn j true 0x1F).m with poison := [0x200000] } }
     (match (State.copyBlocks 0 j (j.blocksOfPage s.elapse 0 (2 ^ 40)) s.elapse).1 with | .source .. => true | _ => false) = true) := by
  decide +kernel

def restoring (area : Nat) (bs : List Byte) : State :=
  { running (cmd 1 6 (leBytes 8 area)) with m := { cellOn.m with mem := memStore cellOn.m.mem 0x100000 bs } }

def areaKind (s : State) (area : Nat) : Nat :=
  match (s.elapse.readArea 5 area).1 with
  | .error _ => 0
  | .ok none => 1
  | .ok (some (_, m0, m1)) => match newest m0 m1 with | none => 2 | some _ => 3

theorem witness_CheckpointEvents_restore :
    (let c := cmd 1 6 (leBytes 8 0x100000)
     let s := restoring 0x100000 areaBytes
     commandRuns s 6 c ∧ c.left = 0 ∧ (s.queue 0).st = .active ∧ (s.queue 0).asn = 5 ∧ fieldAt c.bytes 8 8 = 0x100000 ∧
     areaKind s 0x100000 = 2) ∧
    areaKind (restoring 0x100000 []) 0x100000 = 1 ∧ areaKind (restoring (2 ^ 53) []) (2 ^ 53) = 0 := by
  simp only [commandRuns]; decide +kernel

/-- The first bytes of a manifest of slot 0, with a shape record, and the manifest with its check value. -/
def manifestHead (shape : List Byte) : List Byte :=
  leBytes 4 0x4D414E49 ++ [1, 0, 0, 0] ++ leBytes 8 1 ++ List.replicate 80 0 ++ shape ++ List.replicate (0xFFF8 - 96 - 36) 0

def manifestWith (shape : List Byte) : List Byte := manifestHead shape ++ leBytes 8 (crc64xz 0 (manifestHead shape)).toNat

theorem leBytes_length (n v : Nat) : (leBytes n v).length = n := by
  induction n generalizing v with
  | zero => rfl
  | succ n ih => simp [leBytes, ih]

theorem leNat_leBytes (n v : Nat) : leNat (leBytes n v) = v % 256 ^ n := by
  induction n generalizing v with
  | zero => simp [leBytes, leNat, Nat.mod_one]
  | succ n ih =>
    rw [leBytes, leNat, ih, Nat.pow_succ', Nat.mod_mul]
    simp

/-- Manifests that are valid, with a shape that is and one that is not the package's. -/
theorem witness_CheckpointEvents_newest (shape : List Byte) (h : shape.length = 36) :
    newest (manifestWith shape) [] = some 0 ∧ ((manifestWith shape).drop 0x60).take 36 = shape := by
  have l : (manifestHead shape).length = 0xFFF8 := by
    simp only [manifestHead, List.length_append, leBytes_length, List.length_replicate, List.length_cons, List.length_nil, h]
  have e : manifestWith shape = leBytes 4 0x4D414E49 ++ ([1, 0, 0, 0] ++ (leBytes 8 1 ++ List.replicate 80 0 ++ shape ++
      List.replicate (0xFFF8 - 96 - 36) 0 ++ leBytes 8 (crc64xz 0 (manifestHead shape)).toNat)) := by
    simp only [manifestWith, manifestHead, List.append_assoc]
  have a : fieldAt (manifestWith shape) 0 4 = 0x4D414E49 := by
    rw [e, fieldAt, List.drop_zero, List.take_left' (leBytes_length 4 _)]; decide
  have b : fieldAt (manifestWith shape) 4 2 = 1 ∧ fieldAt (manifestWith shape) 6 1 = 0 := by
    rw [e]; constructor <;> rfl
  have c : fieldAt (manifestWith shape) 0xFFF8 8 = (crc64xz 0 (manifestHead shape)).toNat := by
    rw [fieldAt, manifestWith, List.drop_left' l, List.take_of_length_le (Nat.le_of_eq (leBytes_length 8 _)), leNat_leBytes]
    exact Nat.mod_eq_of_lt (by omega)
  have d : (manifestWith shape).take 0xFFF8 = manifestHead shape := List.take_left' l
  refine ⟨?_, ?_⟩
  · have : manifestOk (manifestWith shape) 0 = true := by rw [manifestOk, a, b.1, b.2, c, d]; simp
    simp only [newest, this]
    rfl
  · rw [manifestWith, manifestHead, List.append_assoc, List.append_assoc, List.drop_left' (by simp [leBytes_length]), List.take_left' h]

theorem witness_CheckpointEvents_shape :
    State.reset.boot.test.shapeRecord.length = 36 ∧ (List.replicate 36 (0xFF : Byte)) ≠ State.reset.boot.test.shapeRecord := by decide +kernel

/-- A manifest without ranges, and a task without a place for its bounds. -/
theorem witness_CheckpointEvents_ranges (shape : List Byte) :
    manifestRanges (manifestWith shape) = [] ∧ fieldAt (⟨[], [], []⟩ : TaskImage).desc 0x20 8 = 0 := by
  have h : fieldAt (manifestWith shape) 0x26 2 = 0 := by
    simp only [manifestWith, manifestHead, List.append_assoc]
    rfl
  exact ⟨by rw [manifestRanges, h]; rfl, rfl⟩

/-- A restored task whose index the manifest gives. -/
theorem witness_CheckpointEvents_enter :
    (cellOn.enterRestored 0 (cmd 3 6 []) [] [⟨[], [], []⟩] []).sched.tasks.any (fun u =>
      u.queue.toNat == 0 && u.cmdN == 3 && u.index.toNat == fieldAt [] 0x24 2) = true := by decide +kernel

/-! ### Faults and translation -/

def streamA : StreamSt := { (default : StreamSt) with num := 0, op := 4, unit := 6, started := true }

/-- Port 0 of core 1 with a recorded fault, in a stream that has gone past the unit that faulted. -/
def faultedPort : State :=
  let p : Port := { Port.reset with items := [.stream streamA], fault := { (default : FaultRec) with valid := true, cause := 4, unit := 5 } }
  { cellOn with input := { fault := .port ⟨0, 1⟩ 0 } }.setPort 1 0 p

def faultedCopy : EngOp := { doneCopy (some (0, 1)) none with unit := 9, fault := { (default : FaultRec) with valid := true, cause := 5, unit := 3 } }

theorem witness_FaultEvents_records :
    (let s := faultedPort
     s.input.fault = .port ⟨0, 1⟩ 0 ∧ s.fwActs 0 = true ∧ (s.port 1 0).fault.valid = true ∧ (s.port 1 0).items = [.stream streamA] ∧
     streamA.started = true ∧ (s.port 1 0).fault.cause ≠ 0x0E ∧ (s.port 1 0).fault.unit.toNat < streamA.unit ∧
     (s.core 1).occ = some cellA ∧ s.findTask cellA.task = some taskA ∧ (s.queue 0).st = .active ∧ (s.queue 0).resetBy = []) ∧
    [true, false].all (fun copy =>
      let s := { cellOn with input := { fault := if copy then .copyEng 0 1 else .gatherEng 0 1 } }.setEngOp copy 0 1 faultedCopy
      s.engOp copy 0 1 == some faultedCopy && s.fwActs (2 * 0) && faultedCopy.fault.valid && faultedCopy.cmd == some (0, 1)) = true := by
  decide +kernel

/-- A record with another fault behind it. -/
theorem witness_FaultEvents_late :
    (let r : FaultRec := { (default : FaultRec) with valid := true, cause := 4, unit := 9 }
     let s := faultedPort.setPort 1 0 { faultedPort.port 1 0 with late := [r] }
     s.input.fault = .port ⟨0, 1⟩ 0 ∧ s.fwActs 0 = true ∧ (s.port 1 0).fault.valid = true ∧ (s.port 1 0).late = r :: [] ∧
     ∀ e ∈ s.x.multis, e.2.stoppedAt 1 = false) ∧ (faultedPort.port 1 0).late = [] := by decide +kernel

/-- A multicast of core 1 that has stopped at line 2 with its record at port block 0, and one that has not. -/
theorem witness_FaultEvents_multicast :
    (let r : FaultRec := { (default : FaultRec) with valid := true, cause := 4, unit := 2 }
     let e : EngOp := { newEngOp .multicast multiBytes 5 (some ⟨0, 1⟩) none 3 [] with unit := 5, lines := [0, 1, 2, 3, 4], fault := r }
     let s := { cellOn.setPort 1 0 { Port.reset with fault := r } with x := { State.reset.x with multis := [(90, e)] }, input := { fault := .port ⟨0, 1⟩ 0 } }
     s.fwActs 0 = true ∧ (s.port 1 0).fault.valid = true ∧ (90, e) ∈ s.x.multis ∧ e.stoppedAt 1 = true ∧ e.fault = (s.port 1 0).fault) ∧
    (∀ e ∈ cellOn.x.multis, e.2.stoppedAt 1 = false) := by decide +kernel

/-- A translation that gives a place, one above the space, and one on a page that is being copied. -/
theorem witness_FaultEvents_translate :
    (cellOn.translate 0 5 0x100000 .write).1 = .at (.hbm 0x100000) (leafAttr 0xF 2) ∧ bits (0xFFF0000000000000 : Word) 63 52 ≠ 0 ∧
    ((jobOn (copyingAt [] 0) true 0x1F).translate 0 5 0x100000 .write).1 = .stall := by decide +kernel

/-- A deferred leaf, with core 1 stopped at an address of its page. -/
def deferring : State :=
  let s := { cellOn with m := { cellOn.m with mem := [(0x40000, 0x8E)] }, input := { asn := 5, addr := 0x1234 } }
  s.setCtlAt 1 { cellOn.ctl with run := .stopped, r := { cellOn.ctl.r with trapCause := 4, trapVal := 0x2000 } }

theorem witness_FaultEvents_deferred :
    deferring.fwActs 0 = true ∧ deferring.rootOf deferring.input.asn = some 0x40000 ∧
    deferring.leafPlace deferring.input.addr.toNat 3 0x40000 = some (0x40000, 0x8E, 2) ∧ deferredLeaf 0x8E 2 = true ∧ deferring.m.banks = [] ∧
    (deferring.ctlAt 1).run = .stopped ∧ deferring.asnOf 1 = deferring.input.asn ∧ (deferring.ctlAt 1).r.trapCause = 4 ∧
    (deferring.ctlAt 1).r.trapVal.toNat / 2 ^ levelBit 2 = deferring.input.addr.toNat / 2 ^ levelBit 2 := by decide +kernel

/-- An invalidation that core 1 waits for, with and without an access that uses its range. -/
def invalidating (xs : List Access) : State :=
  let v : Inval := ⟨3, 5, 0, 16, some ⟨0, 1⟩, []⟩
  { cellOn with x := { State.reset.x with invals := [v] }, net := { State.reset.net with accesses := xs }, input := { num := 3 } }.setCtlAt 1
    { cellOn.ctl with wait := .tinv 3 }

theorem witness_FaultEvents_invalidation :
    (invalidating []).x.invals.find? (fun v => v.k == (invalidating []).input.num) = some ⟨3, 5, 0, 16, some ⟨0, 1⟩, []⟩ ∧
    (invalidating []).waitsFor [] = false ∧ (invalidating []).usesRange 5 0 16 = false ∧ ((invalidating []).ctlAt 1).wait = .tinv 3 ∧
    (invalidating [{ (default : Access) with asn := 5, ea := 0x20000, loc := .hbm 0x20000 }]).usesRange 5 0 16 = true := by decide +kernel

/-! ### The memory network -/

/-- An access of core 1 at address 0x100000 of HBM, and its request or answer, the input's packet. -/
def accessA (op : ReqOp) (fe fePage : Bool) : Access :=
  { (default : Access) with id := 50, agent := .ctl ⟨0, 1⟩, op := op, loc := .hbm 0x100000, ea := 0x100000, size := 8, data := leBytes 8 9,
                            expect := leBytes 8 0, fe := fe, fePage := fePage, dest := .reg 4 .d, asn := 5 }

def packetA (cls : BitVec 2) (kind : BitVec 4) : Packet :=
  { (default : Packet) with id := 60, cls := cls, kind := kind, src := 1, dst := if cls = 0 then 16 else 1, access := 50, payload := leBytes 8 9 }

def onWay (p : Packet) (xs : List Access) (f : MemSys → MemSys) : State :=
  { cellOn with net := { State.reset.net with accesses := xs, packets := [p] }, m := f cellOn.m, input := { num := 60 } }

theorem witness_HomeEvents_request :
    [((0 : BitVec 4), ReqOp.read), (1, .write), (2, .amo 0), (3, .cas), (4, .cas16)].all (fun r =>
      [true, false].all (fun fePage =>
        let x := accessA r.2 true fePage
        let p := packetA 0 r.1
        let s := onWay p [x] id
        s.findPacket s.input.num == some p && s.served p && !s.heldBack p && !p.badHeader && !p.transits && s.findAccess p.access == some x &&
        !x.loc.outside &&
        s.poisonStops x == none && x.fePage == fePage && !x.splits && !s.isFull x.loc.key && !(granuleKeys x.loc.key x.size).any s.isFull &&
        s.m.deferred == [])) = true ∧
    (∀ op : ReqOp, ∀ c i o, (accessA op true true).loc ≠ .tile c i o) ∧
    (let s := onWay (packetA 0 0) [accessA .read false false] (fun m => { m with poison := [0x100000] })
     s.poisonStops (accessA .read false false) = some 0x100000) ∧
    (let s := onWay (packetA 0 0) [accessA .read true true] (fun m => { m with full := [0x100000 / 8] })
     s.isFull (accessA .read true true).loc.key = true ∧
     (granuleKeys (accessA .write true true).loc.key (accessA .write true true).size).any s.isFull = true) := by
  refine ⟨?_, fun _ _ _ _ => nofun, ?_, ?_⟩ <;> try decide +kernel

/-- Accesses of two granules, with both left and with one, on a page that is no FE page, on one, and on one with a full granule. -/
theorem witness_HomeEvents_split :
    [([], false, []), ([], true, []), ([0x100008], false, []), ([], true, [0x100008 / 8])].all (fun c =>
      [((0 : BitVec 4), ReqOp.read), (1, .write)].all (fun r =>
        let x := { accessA r.2 false c.2.1 with size := 16, data := leBytes 16 9, part := c.1 }
        let p := packetA 0 r.1
        let s := onWay p [x] (fun m => { m with full := c.2.2 })
        s.findPacket s.input.num == some p && s.served p && !s.heldBack p && !p.badHeader && !p.transits && s.findAccess p.access == some x &&
        !x.loc.outside && s.poisonStops x == none && x.splits && x.part.all (granuleKeys x.loc.key x.size).contains && s.m.deferred == [] &&
        x.data.length == x.size && granuleKeys x.loc.key x.size == [0x100000, 0x100008])) = true ∧
    (let s := onWay (packetA 0 0) [] (fun m => { m with full := [0x100008 / 8] })
     s.isFull 0x100008 = true) := by decide +kernel

theorem witness_HomeEvents_answer :
    [(5 : BitVec 4), 6, 7].all (fun kind =>
      let x := accessA .read false false
      let p := packetA 1 kind
      let s := onWay p [x] id
      s.findPacket s.input.num == some p && s.deliverable p && !p.badHeader && !p.leaves && s.findAccess p.access == some x &&
      x.agent == .ctl ⟨0, 1⟩ && x.dest == .reg 4 .d && (s.ctlAt 1).late == none) = true ∧
    (let x := { accessA .write false false with dest := .store }
     x.dest = .store ∧ x.acquire = none ∧ x.dest ≠ .fetch ∧ ∀ o i, x.dest ≠ .multi o i) := by
  refine ⟨by decide +kernel, rfl, rfl, nofun, nofun⟩

/-- A delivery at a core that holds the line, and at one that does not; a bank that hits, and one that fetches. -/
def lineB : BankLine := ⟨1, 0, 5, 0x100000 / 128, 0x100000, 0, 0, true, true, true, 0, false⟩

def delivering (banks : List BankLine) : State :=
  { onWay { packetA 1 1 with asn := 5, addr := 0x100008 } [] (fun m => { m with banks := banks }) with
    input := { num := 60, core := ⟨0, 1⟩, addr := 0x100000 } }

theorem witness_HomeEvents_delivery :
    (let s := delivering [lineB]
     let p := { packetA 1 1 with asn := 5, addr := 0x100008 }
     s.findPacket 60 = some p ∧ p.isPub = true ∧ s.deliverable p = true ∧ nodeCore p.dst = some 1 ∧
     s.bankLine 1 p.asn p.addr.toNat = some lineB ∧ s.bankLine 1 (s.asnOf 1) 0x100000 = some lineB) ∧
    (let s := delivering []
     s.bankLine 1 5 0x100008 = none ∧ s.bankLine 1 (s.asnOf 1) 0x100000 = none) ∧
    (let s := { delivering [] with net := State.reset.net }.setSite 1 1 { Site.reset with frames := [4] }
     s.bankSites 1 = [1] ∧ (s.translate (reticleOf 1) (s.asnOf 1) 0x100000 .read).1 = .at (.hbm 0x100000) (leafAttr 0xF 2) ∧
     (leafAttr 0xF 2).cp = 0 ∧ (leafAttr 0xF 2).fe = false ∧ s.poisonedIn (0x100000 / 128 * 128) 128 = [] ∧
     s.fillSafe 1 (s.asnOf 1) 0x100000 0x100000 = true) := by decide +kernel

/-- A token of class 5 at port 0 of core 1, whose handler entry leads to the port's own input 0, and to nothing. -/
def tokenP : Packet := { packetA 2 8 with rclass := 5, dport := 0, src := 2, payload := lineBytes 7 }

def receiving (handler : Nat) (mask : BitVec 16) : State :=
  let s := onWay tokenP [] id
  let frames : List Frame := [0, 0, 0, 0, BitVec.ofNat 256 (handler * 2 ^ (16 * 5)), 1, 0, 0]
  (s.setSite 1 (portSite 0) { Site.reset with frames := frames }).setPort 1 0 { Port.reset with mask := mask }

theorem witness_PacketEvents_token :
    (let s := receiving (1 + 2 * portSite 0) 0
     s.findPacket 60 = some tokenP ∧ s.deliverable tokenP = true ∧ tokenP.badHeader = false ∧ nodeCore tokenP.dst = some 1 ∧
     s.adderFor tokenP = none ∧ s.swap.flips = [] ∧ s.claimed 1 = false ∧ tokenP.isCut 1 = false ∧ (s.port 1 0).held = [] ∧
     s.handler 1 0 5 % 2 = 1 ∧
     s.accepts 1 tokenP.token (nbits (s.handler 1 0 5) 8 1, 48 + nbits (s.handler 1 0 5) 10 9) = true) ∧
    ((receiving 0 0x20).port 1 0).mask.getLsbD tokenP.rclass.toNat = true ∧ tokenP.cls = 2 ∧ tokenP.kind = 8 ∧
    (receiving 0 0).handler 1 0 5 % 2 = 0 ∧ ((receiving 0 0).site 1 (portSite 0)).frames ≠ [] := by decide +kernel

/-- An adder on the way of a token, with a token at each input. -/
def adderA (l u : List Packet) : Adder :=
  { (default : Adder) with lFrom := 50, uFrom := some 3, lCls := 5, uCls := 5, cls := 6, dst := 1, dport := 0, task := 7, l := l, u := u }

def summing : State :=
  let s := receiving 0 0
  { s with net := { s.net with adders := [(4, adderA [tokenP] [{ tokenP with src := 3 }])] }, input := { num := 4 } }

theorem witness_PacketEvents_adder :
    tabFind summing.net.adders summing.input.num = some (adderA [tokenP] [{ tokenP with src := 3 }]) ∧ tokenP.token.isMark = false ∧
    (adderA [tokenP] []).cause = 0 ∧ (adderA [tokenP] []).runL = 0 ∧ (adderA [tokenP] []).runU = 0 ∧ (adderA [tokenP] []).uFrom ≠ none ∧
    (summing.adderFor tokenP).isSome = true := by decide +kernel

/-- A flip marker at the old core and at the new one, a credit at a port's binding and at an Ethernet port, and a SYS packet. -/
theorem witness_PacketEvents_control :
    (let f : Flip := ⟨2, 0, 0, 2, 2, 2, 1, 5, true, false⟩
     let p := { packetA 2 9 with src := 2, addr := 2 }
     let s := { onWay p [] id with swap := { State.reset.swap with flips := [f] } }
     s.findPacket 60 = some p ∧ p.badHeader = false ∧ s.deliverable p = true ∧ s.adderHolds p = false ∧ nodeCore p.dst = some 1 ∧
     s.flipOf p = some f ∧ f.oldCore = 1 ∧ f.newCore ≠ 1 ∧ f.gone = false) ∧
    (let f : Flip := ⟨2, 0, 0, 2, 2, 2, 3, 1, true, true⟩
     let p := { packetA 2 9 with src := 2, addr := 2 }
     let s := { onWay p [] id with swap := { State.reset.swap with flips := [f] } }
     s.flipOf p = some f ∧ f.oldCore ≠ 1 ∧ f.newCore = 1) ∧
    (let f : Flip := ⟨0, 0, 0, 2, 2, 2, 1, 5, true, false⟩
     let p := { packetA 0 9 with src := 2, dst := 1, addr := 2 }
     let s := { onWay p [] id with swap := { State.reset.swap with flips := [f] } }
     s.served p = true ∧ s.flipOf p = some f) ∧
    (let p := { packetA 1 12 with tag := 5 }
     let s := (onWay p [] id).setSite 1 (portSite 0) { Site.reset with frames := [0, 0, 0, 0, 0, 1, 1 + 5 * 2, 0] }
     s.findPacket 60 = some p ∧ s.deliverable p = true ∧ p.leaves = false ∧ nodeCore p.dst = some 1 ∧ s.bindingOf 1 p.dport.toNat p.tag.toNat = some 0) ∧
    (let p := { packetA 1 12 with dst := 16 + 2, src := 1, tag := 5 }
     nodeCore p.dst = none ∧ nodeCore p.src = some 1 ∧ p.leaves = false) ∧
    (let p := packetA 3 13
     let s := onWay p [] id
     s.findPacket 60 = some p ∧ s.input.flag = false ∧ p.isRoute = false ∧ nodeCore p.dst = some 1) := by decide +kernel

theorem witness_PacketEvents_sc :
    [ReqOp.read, .write].all (fun op =>
      let x := { accessA op false false with sc := true }
      let s := onWay (packetA 0 0) [x] id
      s.scLive (scStops.getD (s.net.scStop.toNat % 24) 0) && s.net.packets == [packetA 0 0] &&
      s.scQueued (scStops.getD (s.net.scStop.toNat % 24) 0) == some (packetA 0 0, x) && !x.fePage && !x.loc.outside && s.poisonStops x == none &&
      !x.splits && s.net.scWait == none) = true ∧
    (let s := { onWay (packetA 1 5) [accessA .read false false] id with net := { State.reset.net with accesses := [accessA .read false false], scWait := some 50 } }
     s.net.scWait = some 50 ∧ s.scOpen 50 = true ∧ ∀ q ∈ s.net.packets, q.cls ≠ 0 ∨ q.access ≠ 50) ∧
    (let s := onWay (packetA 0 0) [] id
     s.scQueued (scStops.getD (s.net.scStop.toNat % 24) 0) = none) := by decide +kernel

theorem witness_PacketEvents_landing :
    (let e : EthPort := { (default : EthPort) with buffer := [(16 * 1 + 5, tokenP.token)], credits := [(16 * 1 + 5, 3)] }
     let s := { cellOn with links := { cellOn.links with eth := [(0, e)] }, input := { num := 16 * 1 + 5 } }
     (s.eth 0).buffer.find? (fun b => b.1 == s.input.num) = some (16 * 1 + 5, tokenP.token) ∧ tabGet 0 (s.eth 0).credits s.input.num = 2 + 1) := by
  decide +kernel

/-! ### Multicast, links, and the time -/

/-- Multicasts of two lines to core 1, not yet read, merging and going alone, and after their reads. -/
def multiOp (alone : Bool) (lines : List Nat) : EngOp :=
  { newEngOp .multicast (leBytes 8 0x200000 ++ leBytes 8 256 ++ leBytes 8 0x4000 ++ leBytes 2 2 ++ [if alone then 1 else 0]) 5 (some ⟨0, 1⟩) none 3 [] with
    lines := lines, unit := lines.length, index := some 1 }

def casting (e : EngOp) (p : List Packet) (num : Nat) : State :=
  { cellOn with x := { State.reset.x with multis := [(90, e)] }, net := { State.reset.net with packets := p }, input := { num := num } }

def multiReq : Packet := { packetA 0 10 with access := 90, dst := 16, lines := 1, addr := 0x200000, dset := 2 }
def multiDat : Packet := { packetA 1 11 with access := 90, tag := 1, payload := lineBytes 3 }

theorem witness_MulticastEvents :
    (let s := casting (multiOp false []) [] 90
     let e := multiOp false []
     s.multi 90 = some e ∧ e.core = some ⟨0, 1⟩ ∧ e.fault.valid = false ∧ s.waitsFor e.after = false ∧ e.unit < e.units ∧
     s.claimed 1 = false ∧ fieldAt e.desc 0x1A 1 % 2 = 0 ∧
     (s.translate (reticleOf 1) e.asn (BitVec.ofNat 64 (fieldAt e.desc 0 8 + 128 * e.unit)) .read).1 = .at (.hbm 0x200000) (leafAttr 0xF 2)) ∧
    [true, false].all (fun alone =>
      let s := casting (multiOp alone [0, 1]) [multiReq] 60
      s.multi 60 == none && s.findPacket 60 == some multiReq && s.served multiReq && !multiReq.badHeader && nodeCore multiReq.src == some 1 &&
      s.multi 90 == some (multiOp alone [0, 1]) && (multiOp alone [0, 1]).alone == alone) = true ∧
    (let m : Merge := ⟨0x200000 / 128, 2, 5, 2, 0, [(1, 90, 0)], lineBytes 1 ++ lineBytes 2, [1], 0⟩
     let s := { cellOn with net := { State.reset.net with merges := [(3, { MergeUnit.reset with entries := [(2, m)] })] }, input := { num := 3, slot := 2 } }
     tabFind (s.mergeUnit s.input.num).entries s.input.slot.toNat = some m ∧ m.closes ≤ s.time.cycle ∧ 0 < m.lines) ∧
    (let s := casting (multiOp false [0, 1]) [multiDat] 60
     s.findPacket 60 = some multiDat ∧ s.deliverable multiDat = true ∧ multiDat.badHeader = false ∧
     s.multi 90 = some (multiOp false [0, 1]) ∧ multiDat.tag.toNat ∈ (multiOp false [0, 1]).lines ∧ s.m.banks = []) ∧
    (let s := casting { multiOp false [] with desc := leBytes 8 0xFFFF000000000 ++ (multiOp false []).desc.drop 8 } [] 90
     let e := { multiOp false [] with desc := leBytes 8 0xFFFF000000000 ++ (multiOp false []).desc.drop 8 }
     s.multi 90 = some e ∧ e.unit < e.units ∧ fieldAt e.desc 0x1A 1 % 2 = 0 ∧
     ∃ l a, (s.translate (reticleOf 1) e.asn (BitVec.ofNat 64 (fieldAt e.desc 0 8 + 128 * e.unit)) .read).1 = .at l a ∧ ∀ q, l ≠ .hbm q) ∧
    (let s := { cellOn with input := { num := 143 } }
     s.input.num < 144 ∧ s.scrubs s.input.num = true) := by
  refine ⟨?_, ?_, ?_, ?_, ⟨?_, ?_, ?_, .dt 0, { Attr.plain with w := false }, ?_, nofun⟩, ?_⟩ <;> decide +kernel

/-- A pod link that is up, with one flit not acknowledged, and a flit on its way in. -/
def podOn (fails : Nat) (nak : Bool) (f : Frame) : State :=
  let l : PodLink := { PodLink.reset with up := true, fails := fails, nakSent := nak, rxSince := 1, unacked := [dataFlit 4 0 true [9]] }
  { up { num := 3, bytes := leBytes 32 f.toNat } with links := { State.reset.links with pod := [(3, l)] } }

theorem witness_LinkEvents_pod :
    (podOn 0 false 0).podUp 3 = true ∧ flitGood (inFlit (podOn 0 false (3 * 2 ^ 254))) = false ∧ ((podOn 0 false 0).podLink 3).fails + 1 < 8 ∧
    8 ≤ ((podOn 7 false 0).podLink 3).fails + 1 ∧
    (let f := dataFlit 0 0 true [1, 2]
     let s := podOn 0 false f
     inFlit s = f ∧ flitGood f = true ∧ flitKind f = 1 ∧ flitSeq f = (s.podLink 3).rxNext) ∧
    (let f := dataFlit 1 0 true [1, 2]
     flitGood f = true ∧ flitSeq f ≠ ((podOn 0 false f).podLink 3).rxNext ∧ ((podOn 0 true f).podLink 3).nakSent = true ∧
     ((podOn 0 false f).podLink 3).nakSent = false) ∧
    (let f := controlFlit 4 true 2 5
     let s := podOn 0 false f
     inFlit s = f ∧ flitGood f = true ∧ flitKind f = 2 ∧ (s.podLink 3).unacked = [] ++ dataFlit 4 0 true [9] :: [] ∧
     flitSeq (dataFlit 4 0 true [9]) = flitSeq f) ∧
    ((podOn 0 false 0).podLink 3).rxSince ≠ 0 ∧ ((podOn 0 false 0).podLink 3).unacked ≠ [] ∧
    ((podOn 0 false 0).podLink 3).ackDue ≤ (podOn 0 false 0).time.cycle := by decide +kernel

theorem witness_LinkEvents_access :
    (let x := { accessA .read false false with loc := .remote 2 0x1000, done := false }
     let s := { podOn 0 false 0 with
       boot := { (podOn 0 false 0).boot with test := { allPass with routes := [(8, 3)] } }, net := { State.reset.net with accesses := [x] } }
     x ∈ s.net.accesses ∧ s.routeLink 2 0 = some 3 ∧ s.podUp 3 = true ∧ s.net.packets = []) ∧
    (let q := { packetA 0 0 with src := 512 * 2 }
     let l := { (podOn 0 false 0).podLink 3 with through := [q] }
     let s := { podOn 0 false 0 with links := { State.reset.links with pod := [(3, l)] } }
     s.podUp 3 = true ∧ (s.podLink 3).through = [q] ∧ q.cls = 0 ∧ (s.podLink 3).unacked ≠ [] ∧ (s.podLink 3).ackDue ≤ s.time.cycle) := by decide +kernel

theorem witness_LinkEvents_host :
    (let x := { accessA .read false false with loc := .host 0x1000 }
     let r : PcieReq := { (default : PcieReq) with id := 8, access := 50 }
     let s := { cellOn with host := { cellOn.host with pcie := [r] }, net := { State.reset.net with accesses := [x] }, input := { num := 8, status := .sc } }
     s.host.pcie.find? (fun r => r.id == s.input.num) = some r ∧ s.findAccess r.access = some x ∧ s.input.status = .sc ∧ x.op = .read) ∧
    PcieStatus.ca ≠ .sc ∧
    (let r : PcieReq := { (default : PcieReq) with id := 8, access := 50, since := 3 }
     let s := { cellOn with time := { State.reset.time with cycle := 100000003 } }
     r.since + 100000000 ≤ s.time.cycle) := by decide +kernel

/-- A frame of `n` bytes with a type and its check sequence. -/
def frameOf (etype : List Byte) (n : Nat) (good : Bool) : List Byte :=
  let h := List.replicate 12 0x11 ++ etype ++ List.replicate (n - 4 - 12 - etype.length) 0
  h ++ (if good then leBytes 4 (crc32 h).toNat else leBytes 4 ((crc32 h).toNat + 1))

/-- Port 2 with flow entry 0, which takes every frame to ring 1 of core 1's vault. -/
def ethOn (flow : List Byte) (slots : Nat) (bs : List Byte) : State :=
  { up { port := 2, bytes := bs } with
    links := { State.reset.links with eth := [(2, { (State.reset.eth 2) with flows := [(0, flow)] })], rings := [(8 * 1 + 1, ⟨0, slots, [], 0, 0⟩)] } }

def flowA : List Byte := [1, 0] ++ List.replicate 50 0 ++ [0, 0x11] ++ List.replicate 10 0

theorem witness_LinkEvents_frames :
    (let bs := frameOf [0x08, 0x06] 64 false
     let s := ethOn flowA 16 bs
     s.boot.test.ethLive 2 = true ∧ (s.eth 2).counters.length = 8 ∧ fieldAt bs (bs.length - 4) 4 ≠ (crc32 (bs.take (bs.length - 4))).toNat) ∧
    (let bs := frameOf [0x08, 0x06] 64 true
     let h := bs.take (bs.length - 4)
     let s := ethOn flowA 16 bs
     fieldAt bs (bs.length - 4) 4 = (crc32 h).toNat ∧ 64 ≤ bs.length ∧ bs.length ≤ 9216 ∧ isPause h = false ∧ isPtp h = false ∧
     (s.eth 2).flows.find? (fun e => flowMatches e.2 h) = some (0, flowA) ∧ (byteAt flowA 0).getLsbD 1 = false ∧
     s.landRing 1 1 = some ⟨0, 16, [], 0, 0⟩ ∧ LandRing.filled ⟨0, 16, [], 0, 0⟩ + (2 + ((delivered flowA h).length + 127) / 128) ≤ 16 ∧
     2 < LandRing.filled ⟨0, 2, [], 0, 0⟩ + (2 + ((delivered flowA h).length + 127) / 128) ∧
     (∀ e ∈ ((ethOn [] 16 bs).eth 2).flows, flowMatches e.2 h = false)) ∧
    (let bs := frameOf [0x88, 0x08, 0, 1] 64 true
     fieldAt bs (bs.length - 4) 4 = (crc32 (bs.take (bs.length - 4))).toNat ∧ isPause (bs.take (bs.length - 4)) = true) ∧
    (let bs := frameOf [0x88, 0xF7] 64 true
     fieldAt bs (bs.length - 4) 4 = (crc32 (bs.take (bs.length - 4))).toNat ∧ isPause (bs.take (bs.length - 4)) = false ∧
     isPtp (bs.take (bs.length - 4)) = true) := by decide +kernel

/-- A frame above 9,216 bytes with its check sequence. -/
theorem witness_LinkEvents_long (h : List Byte) (e : h.length = 9300) :
    let bs := h ++ leBytes 4 (crc32 h).toNat
    fieldAt bs (bs.length - 4) 4 = (crc32 (bs.take (bs.length - 4))).toNat ∧ 9216 < bs.length := by
  intro bs
  have l : bs.length = 9304 := by simp [bs, leBytes_length, e]
  have d : bs.take (bs.length - 4) = h := by rw [l]; exact List.take_left' e
  refine ⟨?_, by omega⟩
  rw [d, l, fieldAt, List.drop_left' e, List.take_of_length_le (Nat.le_of_eq (leBytes_length 4 _)), leNat_leBytes]
  exact Nat.mod_eq_of_lt (by omega)

theorem witness_LinkEvents_time : cellOn.fwActs 0 = true := by decide +kernel

/-! ### The fabric -/

def dataA (v : Nat) : Token := mkData (BitVec.ofNat 1024 v) 1 15 1
def eorA (level : Nat) : Token := mkMark kEor level 1 0 0

/-- Core 1's site 0, a C tile: operator 0 has a kind, its inputs are bound, and its output 0 leads to input 0 of the tile where `out` says so;
tokens wait at its inputs. -/
def boxed (kind : Nat) (out : Bool) (o : OpSt) (heads : List (Nat × Token)) : State :=
  let sinks := 0x80 * (2 ^ 160 + 2 ^ 168 + 2 ^ 176 + 2 ^ 184) + (if out then (128 + 52) * 2 ^ 128 else 0)
  let x : Site := { Site.reset with frames := List.replicate 19 0 ++ [BitVec.ofNat 256 kind, 0, BitVec.ofNat 256 sinks, 0] }
  let s := { cellOn.setSite 1 0 x with input := { node := ⟨⟨0, 1⟩, 0, 2⟩ } }
  (heads.foldl (fun s h => s.setChan 1 0 (52 + h.1) [⟨h.2, 4, []⟩]) s).setOp 1 0 0 o

theorem witness_FabricEvents_node :
    (let s := { tile cellOn (16 * 1) (fun n => { n with firing := false }) [] with input := { node := ⟨⟨0, 1⟩, 0, 0⟩ } }
     ({ s with curNode := s.input.node }).mayFire = true) ∧ ({ cellOn with curNode := cellOn.input.node }).mayFire = false := by decide +kernel

theorem witness_FabricEvents_moves :
    [true, false].all (fun out =>
      let room := fun (s : State) (t : Token) => s.outRoom 1 0 t 52 && s.roomFor 1 0 ((s.outs 1 0 2).map (fun x => (x, t)))
      (let s := boxed 1 out OpSt.reset [(0, dataA 7)]
       s.opReady 1 0 0 1 && s.head 1 0 (opPort 0 0) == some (dataA 7) && !(dataA 7).isMark && room s (dataA 7) &&
       s.outs 1 0 2 == if out then [52] else []) &&
      (let s := boxed 2 out OpSt.reset [(0, dataA 7)]
       s.opReady 1 0 0 2 && s.head 1 0 (opPort 0 0) == some (dataA 7) && room s (dataA 7)) &&
      (let s := boxed 3 out OpSt.reset [(0, dataA 7), (1, dataA 0)]
       s.opReady 1 0 0 3 && s.opData 1 0 0 0 == some (dataA 7) && s.opData 1 0 0 1 == some (dataA 0) && room s (dataA 7) &&
       (dataA 0).lane 0 % 8 == 0) &&
      (let s := boxed 4 out OpSt.reset [(0, dataA 7), (1, dataA 0)]
       s.opReady 1 0 0 4 && s.opData 1 0 0 0 == some (dataA 7) && s.opData 1 0 0 1 == some (dataA 0) && !(s.outs 1 0 2).contains (opPort 0 1) &&
       decide ((s.op 1 0 0).kept.lanes.length < 32)) &&
      (let s := boxed 5 out OpSt.reset [(0, dataA 7), (1, eorA 0), (3, dataA 0)]
       s.opReady 1 0 0 5 && s.opData 1 0 0 3 == some (dataA 0) && (List.range 3).filter (fun n => (s.site 1 0).sinkOn 0 (opPort 0 n)) == [0, 1, 2] &&
       s.head 1 0 (opPort 0 0) == some (dataA 7) && s.head 1 0 (opPort 0 1) == some (eorA 0) && (eorA 0).isMark && room s (dataA 7)) &&
      (let s := boxed 6 out OpSt.reset [(1, dataA 7)]
       s.opReady 1 0 0 6 && s.opData 1 0 0 1 == some (dataA 7) && room s (dataA 7) &&
       nextServed 4 (s.op 1 0 0).served (fun n => (s.site 1 0).sinkOn 0 (opPort 0 n) && (s.opData 1 0 0 n).isSome) == some 1)) = true := by
  decide +kernel

/-- An output that leads nowhere has room for every token (STEER by lane). -/
theorem witness_FabricEvents_lane (x : Token) : (boxed 4 false OpSt.reset [(0, dataA 7), (1, dataA 0)]).outRoom 1 0 x (opPort 0 0) = true := by
  have : (boxed 4 false OpSt.reset [(0, dataA 7), (1, dataA 0)]).dests 1 0 (opPort 0 0) = [] := by decide +kernel
  have t : isTileOut 0 (opPort 0 0) = false := by decide
  simp [State.outRoom, this, t]

theorem witness_FabricEvents_loops :
    [true, false].all (fun isOpen =>
      let o := { OpSt.reset with isOpen := isOpen }
      let s := boxed 7 true o [(0, dataA 7), (1, dataA 8), (2, dataA 1)]
      s.opReady 1 0 0 7 && (s.site 1 0).sinkOn 0 (opPort 0 2) && s.opData 1 0 0 2 == some (dataA 1) && (s.op 1 0 0).pend == [] &&
      s.opData 1 0 0 0 == some (dataA 7) && s.opData 1 0 0 1 == some (dataA 8) && s.outRoom 1 0 (dataA 7) 52 && s.outRoom 1 0 (dataA 8) 52 &&
      s.roomFor 1 0 (sendIf (s.outs 1 0 2) (opPort 0 1) (dataA 8)) && (s.op 1 0 0).isOpen == isOpen) = true ∧
    (let s := boxed 7 true { OpSt.reset with pend := [eorA 2] } [(1, eorA 2)]
     s.opReady 1 0 0 7 = true ∧ s.head 1 0 (opPort 0 1) = some (eorA 2) ∧ (eorA 2).isMark = true ∧ (eorA 2).badMark = false ∧ (eorA 2).kind = 0 ∧
     (s.op 1 0 0).pend.any (fun t => t.sameMark (eorA 2)) = true ∧ s.roomFor 1 0 (sendIf (s.outs 1 0 2) (opPort 0 1) (eorA 2)) = true) ∧
    ((boxed 7 true OpSt.reset [(1, eorA 2)]).op 1 0 0).pend.any (fun t => t.sameMark (eorA 2)) = false ∧
    (let s := boxed 8 true OpSt.reset [(0, dataA 7)]
     s.opReady 1 0 0 8 = true ∧ s.opData 1 0 0 0 = some (dataA 7) ∧ (s.op 1 0 0).held = none) ∧
    (let s := boxed 8 true { OpSt.reset with held := some (dataA 6) } [(0, dataA 7)]
     s.opData 1 0 0 0 = some (dataA 7) ∧ (s.op 1 0 0).held = some (dataA 6) ∧ (s.op 1 0 0).wait = none) ∧
    (let s := boxed 8 true { OpSt.reset with held := some (dataA 6) } [(1, dataA 7)]
     s.opReady 1 0 0 8 = true ∧ s.opData 1 0 0 0 = none ∧ s.opData 1 0 0 1 = some (dataA 7) ∧
     s.outRoom 1 0 ((dataA 6).withRound (dataA 7).round) (opPort 0 0) = true) := by decide +kernel

/-! ### M tiles -/

/-- Core 1's site 1, an M tile with a first frame and the rings of frame 2, and tokens at its inputs. -/
def memTile (f0 f2 : Nat) (mt : MTile) (heads : List (Nat × Token)) : State :=
  let x : Site := { Site.reset with frames := [BitVec.ofNat 256 f0, 0, BitVec.ofNat 256 f2, 0, 0, 0, 0], mt := mt }
  let s := { cellOn.setSite 1 1 x with input := { node := ⟨⟨0, 1⟩, 1, 6⟩ } }
  heads.foldl (fun s h => s.setChan 1 1 (48 + h.1) [⟨h.2, 4, []⟩]) s

/-- Addresses of every lane: word `w` in lane 0 and none in the others. -/
def addrA (w : Nat) : Token := mkData (lineOfLanes (w :: List.replicate 31 0xFFFFFFFF)) 1 15 1

theorem witness_TileEvents_buffer :
    (let s := memTile 1 0 MTile.reset [(2, addrA 5)]
     s.tileReady 1 1 1 = true ∧ s.tileTurn 1 1 = some 1 ∧ s.tileData 1 1 2 = some (addrA 5) ∧
     (∀ p ∈ (addrA 5).indices.filter (fun p => p.2 != 0xFFFFFFFF), (s.site 1 1).rBase + 4 * p.2 < 131072 ∧
       s.tileUe 1 1 ((s.site 1 1).rBase + 4 * p.2) 4 = none)) ∧
    (let s := memTile 1 0 MTile.reset [(2, addrA 32768)]
     s.tileTurn 1 1 = some 1 ∧ ∃ p ∈ (addrA 32768).indices.filter (fun p => p.2 != 0xFFFFFFFF), 131072 ≤ (s.site 1 1).rBase + 4 * p.2) ∧
    (let s := memTile 1 0 MTile.reset [(3, dataA 7)]
     s.tileReady 1 1 1 = true ∧ s.tileTurn 1 1 = some 2 ∧ s.tileData 1 1 3 = some (dataA 7) ∧ (s.site 1 1).wBase + 128 * (s.site 1 1).mt.w < 131072) ∧
    (let s := memTile 1 0 MTile.reset [(0, addrA 5), (1, dataA 7)]
     s.tileReady 1 1 1 = true ∧ s.tileTurn 1 1 = some 0 ∧ s.tileData 1 1 0 = some (addrA 5) ∧ s.tileData 1 1 1 = some (dataA 7) ∧
     (addrA 5).indices.drop (s.site 1 1).mt.acc = (0, 5) :: (addrA 5).indices.drop 1 ∧ (s.site 1 1).aBase + 4 * 5 ≤ 131068 ∧
     s.tileUe 1 1 ((s.site 1 1).aBase + 4 * 5) 4 = none) := by decide +kernel

/-- An accumulation at its last element, at an element that takes no part, and at one beyond the tile. -/
theorem witness_TileEvents_accumulate :
    (let s := memTile 1 0 { MTile.reset with acc := 31 } [(0, addrA 5), (1, dataA 7)]
     s.tileReady 1 1 1 = true ∧ s.tileTurn 1 1 = some 0 ∧ (addrA 5).indices.drop (s.site 1 1).mt.acc = (31, 0xFFFFFFFF) :: []) ∧
    (let s := memTile 1 0 MTile.reset [(0, addrA 32768), (1, dataA 7)]
     s.tileTurn 1 1 = some 0 ∧ (addrA 32768).indices.drop (s.site 1 1).mt.acc = (0, 32768) :: (addrA 32768).indices.drop 1 ∧
     131068 < (s.site 1 1).aBase + 4 * 32768) := by decide +kernel

/-- Ring 0 of two slots: with room, full, and with a token to deliver. -/
def ringTile (toks : List Token) (heads : List (Nat × Token)) : State :=
  memTile 2 (2 ^ 10) { MTile.reset with rings := ⟨0, toks, ⟨[], []⟩⟩ :: List.replicate 3 ⟨0, [], ⟨[], []⟩⟩ } heads

theorem witness_TileEvents_ring :
    (let s := ringTile [] [(0, dataA 7)]
     s.input.num = 0 ∧ s.tileReady 1 1 2 = true ∧ ((s.site 1 1).mt.ring 0).toks.length < (s.site 1 1).ringSlots 0 ∧
     s.head 1 1 48 = some (dataA 7) ∧ (dataA 7).isMark = false) ∧
    (let s := ringTile [dataA 1, dataA 2] []
     (s.site 1 1).ringSlots 0 ≠ 0 ∧ (s.site 1 1).ringSlots 0 ≤ ((s.site 1 1).mt.ring 0).toks.length ∧
     ((s.site 1 1).mt.ring 0).toks = dataA 1 :: [dataA 2] ∧ ((s.site 1 1).mt.ring 0).run = ⟨[], []⟩ ∧
     s.roomFor 1 1 (sendIf (s.outs 1 1 6) (48 + 0) (dataA 1)) = true ∧ (dataA 1).isMark = false ∧ s.ringUe 1 1 0 1 = none) ∧
    (let s := { ringTile [dataA 1] [] with m := { cellOn.m with poison := [Loc.key (.tile 1 1 0)] } }
     s.ringUe 1 1 0 1 = some (Loc.key (.tile 1 1 0))) := by decide +kernel

theorem witness_TileEvents_repeat :
    (let s := memTile 3 0 MTile.reset [(1, dataA 2)]
     s.tileReady 1 1 3 = true ∧ (s.site 1 1).mt.count = none ∧ s.tileData 1 1 1 = some (dataA 2)) ∧
    (let s := memTile 3 0 { MTile.reset with count := some 2 } [(0, dataA 7)]
     (s.site 1 1).mt.count = some 2 ∧ s.tileData 1 1 0 = some (dataA 7) ∧ (s.site 1 1).mt.buf.length < 1024 ∧
     s.roomFor 1 1 (sendIf (s.outs 1 1 6) 48 (dataA 7)) = true) := by decide +kernel

/-- A REPEAT whose inputs have waited for 2^10 cycles with T = 0. -/
theorem witness_TileEvents_timeout :
    (let s := { memTile 3 0 { MTile.reset with blocked := some 0 } [] with time := { State.reset.time with cycle := 1024 } }
     s.input.node.slot.toNat < 7 ∧ s.blockedSince 1 1 6 = some 0 ∧ s.timeoutOf 1 1 6 ≠ 15 ∧ s.timerPaused 1 = false ∧ 2 ≤ s.joinSize 1 1 6 ∧
     0 + 2 ^ (s.timeoutOf 1 1 6 + 10) ≤ s.time.cycle ∧ (s.core 1).occ = some cellA ∧ s.findTask cellA.task = some taskA ∧
     (s.queue 0).st = .active ∧ (s.queue 0).resetBy = []) := by decide +kernel

/-! ### Marks -/

/-- A mark of a kind; a TSC, MOD or any other with its least payload. -/
def markOf (kind : Nat) : Token := mkMark kind 0 1 0 0

/-- Core 1's site 0 with node 0's inputs 0 and 1 bound, and marks at them. -/
def noded (hdr : Nat) (n : NodeSt → NodeSt) (a b : Token) : State :=
  let s := tile cellOn (hdr + 2 ^ 32 + 2 ^ 33) (fun m => n { m with firing := false }) []
  ({ s with input := { node := ⟨⟨0, 1⟩, 0, 0⟩ } }.setChan 1 0 48 [⟨a, 4, []⟩]).setChan 1 0 49 [⟨b, 4, []⟩]

def hasRoom (s : State) (k i slot n : Nat) (t : Token) : Bool :=
  s.roomFor k i (markCopies t (((s.runsIn k i slot).map (fun p => p.2)).sum + n) (s.markOuts k i slot))

theorem witness_MarkEvents_node :
    markKinds.all (fun e =>
      let t := markOf e.2
      let s := noded 0 id t t
      let x := s.site 1 0
      x.frames != [] && x.rst == [] && s.partCause 1 0 0 == 0 && s.partRun 1 0 0 == ⟨[], []⟩ && (x.ct.node 0).release.isNone &&
      !(x.ct.node 0).firing && !(x.ct.node 0).reported && decide (s.aligned 1 0 0 = .mark t) && t.kind == e.2 && !x.releases 0 t &&
      hasRoom s 1 0 0 (if e.2 = 5 ∨ e.2 = 10 then s.nodeUnits 1 0 0 e.2 else []).length t) = true ∧
    (let s := noded (2 ^ 59) id (markOf 0) (markOf 0)
     s.aligned 1 0 0 = .mark (markOf 0) ∧ (s.site 1 0).releases 0 (markOf 0) = true) ∧
    (let s := noded (2 ^ 59) (fun n => { n with firing := true, slot := 4, release := some (markOf 0) }) (markOf 0) (markOf 0)
     ((s.site 1 0).ct.node 0).release = some (markOf 0) ∧
     (s.site 1 0).nodeFirst 0 + (s.site 1 0).nodeCount 0 ≤ ((s.site 1 0).ct.node 0).slot ∧ hasRoom s 1 0 0 0 (markOf 0) = true) ∧
    (noded 0 id (markOf 0) (markOf 2)).aligned 1 0 0 = .skew ∧ (noded 0 id (mkMark 2 0 1 0 5) (markOf 2)).aligned 1 0 0 = .bad := by
  decide +kernel

theorem witness_MarkEvents_operator :
    markKinds.all (fun e => [3, 5, 6, 7, 8].all (fun kind =>
      let t := markOf e.2
      let s := boxed kind true OpSt.reset [(0, t), (1, t), (2, t), (3, t)]
      s.input.node.slot.toNat == 0 + 2 && (s.site 1 0).opKind 0 0 == kind && s.partCause 1 0 2 == 0 && s.partRun 1 0 2 == ⟨[], []⟩ &&
      decide (s.aligned 1 0 2 = .mark t) && hasRoom s 1 0 2 (if e.2 = 5 ∨ e.2 = 10 then s.opUnits 1 0 0 e.2 else []).length t)) = true := by
  decide +kernel

/-- An addressed buffer whose input 0 is bound. -/
def buffer (t : Token) : State :=
  let s := memTile 1 0 MTile.reset [(0, t)]
  s.setSite 1 1 { s.site 1 1 with frames := [1, 0, 0, 0, 0, BitVec.ofNat 256 (128 * 2 ^ 128), 0] }

theorem witness_MarkEvents_tile :
    markKinds.all (fun e =>
      let t := markOf e.2
      let s := buffer t
      s.input.node.slot.toNat == 6 && (s.site 1 1).role == 1 && s.tileBad 1 1 e.2 == none && decide (s.aligned 1 1 6 = .mark t) && s.partCause 1 1 6 == 0 &&
      s.partRun 1 1 6 == ⟨[], []⟩ && hasRoom s 1 1 6 (if e.2 = 5 ∨ e.2 = 10 then s.tileUnits 1 1 e.2 else []).length t) = true := by
  decide +kernel

/-- A port block with a mark to emit, with one to apply, and with one that has arrived. -/
def porting (items : List PortItem) (store : Bool) (arrived : List Queued) : State :=
  let s := { cellOn with input := { node := ⟨⟨0, 1⟩, BitVec.ofNat 8 (portSite 0), 7⟩ } }
  let frames : List Frame := [0, 0, BitVec.ofNat 256 (128 * 2 ^ 128), 0, 0, 1, 0, 0]
  ((s.setSite 1 (portSite 0) { Site.reset with frames := frames }).setPort 1 0 { Port.reset with items := items, isStore := store }).setChan 1
    (portSite 0) 48 arrived

theorem witness_MarkEvents_port :
    markKinds.all (fun e =>
      let t := markOf e.2
      (let s := porting [.mark t 5 false] false []
       let p := s.port 1 0
       sitePort (portSite 0) == some 0 && !s.portStopped 1 0 && s.marksGo 1 0 t && !p.isStore && p.slots == [] && p.outq == []) &&
      (let s := porting [.mark t 5 false] true []
       (s.port 1 0).isStore && s.marksGo 1 0 t && !s.portStopped 1 0 && !s.portWaits 1 0 t) &&
      (let s := porting [] false [⟨t, 4, []⟩]
       let p := s.port 1 0
       p.items == [] && !p.reported && !p.owed && !s.indexed 1 0 &&
       decide (alignHeads ((s.portJoins 1 0).map (fun d => s.head 1 d.1 d.2)) = .mark t))) = true := by decide +kernel

/-- The header of a saved unit of a part: how many tokens follow. -/
def unitHdr (u n : Nat) : Token := mkData (BitVec.ofNat 1024 (u * 2 ^ 16 + n * 2 ^ 32)) 0 15 0

/-- A site of core 1 whose saved unit has come. -/
def unitsCome (i : Nat) (x : Site) (u : Nat × List Token) : State :=
  { cellOn with input := { node := ⟨⟨0, 1⟩, BitVec.ofNat 8 i, 0⟩ } }.setSite 1 i { x with rst := unitHdr u.1 u.2.length :: u.2 }

/-- The premises of a restore, and a condition on the site. -/
def restores (i : Nat) (x : Site) (u : Nat × List Token) (c : Site → Bool) : Bool :=
  let y := (unitsCome i x u).site 1 i
  y.rst != [] && y.frames != [] && y.ct.v.length == 8 && y.ops.length == 4 && y.mt.rings.length == 4 && unitsOf y.rst.length y.rst == [] ++ u :: [] && c y

def nodeSite (hdr : Nat) : Site := { Site.reset with frames := BitVec.ofNat 256 hdr :: List.replicate 22 0 }
def opSite (kind : Nat) : Site := { Site.reset with frames := List.replicate 19 0 ++ [BitVec.ofNat 256 kind, 0, 0, 0] }
def tileSite (f0 : Nat) : Site := { Site.reset with frames := [BitVec.ofNat 256 f0, 0, 0, 0, 0, 0, 0] }

/-- A unit of each kind: a matrix unit, registers with and without RLEN, operators, an addressed buffer, a ring and a REPEAT. -/
theorem witness_MarkEvents_restore :
    restores 0 (nodeSite 0) (0, List.replicate 384 (dataA 1)) (fun _ => true) = true ∧
    restores 0 (nodeSite 0) (0, [dataA 1]) (fun y => !y.nodeRlen 0) = true ∧
    restores 0 (nodeSite (2 ^ 59 + 2 * 2 ^ 18)) (0, [dataA 1, dataA 2, dataA 3]) (fun y => y.nodeRlen 0 && y.share 0 == [0, 1]) = true ∧
    restores 0 (opSite 8) (2, [dataA 1, mkData 0 0 0 0]) (fun y => y.opKind 0 0 == 8) = true ∧
    restores 0 (opSite 7) (2, [dataA 1]) (fun y => y.opKind 0 0 != 8) = true ∧
    restores 1 (tileSite 1) (6, [dataA 1]) (fun y => y.role == 1) = true ∧
    restores 1 (tileSite 2) (6, [dataA 1, mkData 0 0 15 0]) (fun y => y.role == 2 && decide ((mkData 0 0 15 0).lane 4 < 4)) = true ∧
    restores 1 (tileSite 3) (6, [dataA 1, mkData 0 0 15 0]) (fun y => y.role == 3) = true := by decide +kernel

/-- Core 1's site 7, which waits for its four frames behind a CFG mark, on its path or by an input. -/
def framing (loading path : List Token) (via : Option Nat) (expect : Nat) : State :=
  { cellOn with input := { node := ⟨⟨0, 1⟩, 7, 0⟩ } }.setSite 1 7
    { Site.reset with frames := [1], loading := loading.flatMap Token.frames, path := path, via := via, expect := expect }

/-- A whole token of frames, zero but for the low bits of the first, of which 68 names a source that there is not. -/
def frames4 (v : Nat) : Token := mkData (BitVec.ofNat 1024 v) 0 15 0

theorem witness_MarkEvents_cfg :
    [(23, none), (22, none), (23, some 2)].all (fun c =>
      let t := mkMark 1 0 1 0 c.1
      let s := noded 0 id t t
      let s := s.setSite 1 0 { s.site 1 0 with frames := (s.site 1 0).frames.set 21 (BitVec.ofNat 256 (0x80 * (2 ^ 128 + 2 ^ 136))) }
      let s := if c.2 = some 2 then { s with input := { node := ⟨⟨0, 1⟩, 0, 0⟩ } }.setSite 1 0 { s.site 1 0 with
          frames := (s.site 1 0).frames.set 19 4, ops := (s.site 1 0).ops.set 0 { OpSt.reset with kept := { OpSt.reset.kept with lanes := [3] } } } else s
      let ins := (s.siteIns 1 0).filter (fun snk => !(s.site 1 0).backEdge 0 snk)
      (sitePort 0).isNone && (s.site 1 0).via.isNone && (s.site 1 0).path == [] && decide (alignHeads (ins.map (s.head 1 0)) = .mark t) &&
      t.kind == 1 && t.pl == c.1 && s.cfgReady 1 0 && ins == [48, 49] && (frameSet 0).length == 23 && s.steerHolds 1 0 == c.2.map (fun _ => 0)) = true ∧
    [4, 3].all (fun n =>
      let s := framing [] [mkMark 1 0 1 0 n, frames4 0] none 0
      let x := s.site 1 7
      (sitePort 7).isNone && x.via.isNone && x.path == mkMark 1 0 1 0 n :: [frames4 0] && x.expect == 0 && s.siteQuiet 1 7 && (frameSet 7).length == 4 &&
      (mkMark 1 0 1 0 n).pl == n) = true ∧
    ((framing [] [mkMark 1 0 1 0 4] none 0).setChan 1 7 48 [⟨dataA 1, 4, []⟩]).siteQuiet 1 7 = false ∧
    (let s := framing [] [frames4 0] none 4
     frameToken s 1 7 (frames4 0) (s.setSite 1 7 { s.site 1 7 with path := [] })) ∧
    [(dataA 1, false, false), (frames4 0, true, true), (frames4 68, true, false)].all (fun p =>
      let s := (framing [] [] (some 48) 4).setChan 1 7 48 [⟨p.1, 4, []⟩]
      let s1 := s.pop 1 7 48
      let x := s.site 1 7
      let y := s1.site 1 7
      x.expect != 0 && x.via == some 48 && ((s.chan 1 7 48).head?).map Queued.tok == some p.1 &&
      p.1.carriesFrames (y.expect - y.loading.length) == p.2.1 && decide (y.expect ≤ (y.loading ++ p.1.frames).length) &&
      (s1.badFrame { y with loading := p.1.frames, frames := p.1.frames } 7 y.role).isNone == p.2.2 && (s.core 1).occ == some cellA &&
      s.findTask cellA.task == some taskA && (s.queue 0).st == .active && (s.queue 0).resetBy == []) = true ∧
    (let s := (framing [] [] (some 48) 23).setChan 1 7 48 [⟨frames4 0, 4, []⟩]
     let y := (s.pop 1 7 48).site 1 7
     (frames4 0).carriesFrames (y.expect - y.loading.length) = true ∧ (y.loading ++ (frames4 0).frames).length < y.expect) ∧
    (((noded (2 ^ 23) id (markOf 2) (markOf 2)).site 1 0).frames ≠ [] ∧ ((noded (2 ^ 23) id (markOf 2) (markOf 2)).site 1 0).ownsMatrix 0 = true) := by
  simp only [frameToken]
  refine ⟨by decide +kernel, by decide +kernel, by decide +kernel, ⟨by decide +kernel, .inl ⟨[], ?_, by decide +kernel, by decide +kernel, rfl⟩⟩,
    by decide +kernel, by decide +kernel, by decide +kernel⟩
  intro n h
  have : sitePort 7 = none := by decide
  simp [this] at h

/-! ### Streams -/

/-- A stream block: base, mode, store, lanes, target, units of 128 bytes, and an index port. -/
def spbOf (base mode : Nat) (store : Bool) (lanes target units : Nat) (index : Option Nat) : BitVec 512 :=
  BitVec.ofNat 512 (base + (if store then 2 ^ 66 else 0) + mode * 2 ^ 67 + lanes * 2 ^ 72 + (match index with | some x => x * 2 ^ 96 + 2 ^ 100 | none => 0) +
    target * 2 ^ 112 + units * 2 ^ 128 + 128 * 2 ^ 160 + 2 ^ 192 + 2 ^ 256 + 2 ^ 320)

def streamOf (b : BitVec 512) : StreamSt := { (default : StreamSt) with spb := b, op := 9, started := true }

/-- Port 0 of core 1 has one stream; the port changes by `f`, and tokens wait at its inputs. -/
def streaming (t : StreamSt) (f : Port → Port) (heads : List (Nat × Token)) : State :=
  let s := { cellOn with input := { core := ⟨0, 1⟩, port := 0 } }.setPort 1 0 (f { Port.reset with items := [.stream t] })
  let s := s.setCtlAt 1 { cellOn.ctl with tops := [(9, 1)] }
  heads.foldl (fun s h => s.setChan 1 (portSite 0) (48 + h.1) [⟨h.2, 4, []⟩]) s

/-- The stream is active at the port. -/
def atPort (s : State) (t : StreamSt) : Bool :=
  (s.site s.input.core.ix (portSite s.input.port.toNat)).frames != [] && (s.port s.input.core.ix s.input.port.toNat).active == some t &&
  !s.pastCut s.input.core.ix s.input.port.toNat

def checkOk (c : Checked) : Bool := match c with | .ok .. => true | _ => false

/-- A unit that passes its checks finds room in the response slots and no error in the banks; and one that meets an error. -/
def fits (r : Checked × State) (k n : Nat) : Bool :=
  match r with
  | (.ok _ _ ps, s1) => decide ((s1.port k n).slotsUsed + linesOf ps ≤ 8) && (s1.bankError k n ps false).isNone
  | _ => false

def strikes (r : Checked × State) (k n : Nat) : Bool :=
  match r with
  | (.ok _ _ ps, s1) => decide ((s1.port k n).slotsUsed + linesOf ps ≤ 8) && (s1.bankError k n ps false).isSome
  | _ => false

def checkFault (c : Checked) : Bool := match c with | .fault .. => true | _ => false

theorem witness_StreamEvents_start :
    (let t := { streamOf (spbOf 0x100000 0 false 1 0 2 none) with started := false }
     let s := streaming t id []
     (s.port 1 0).items = [.stream t] ∧ t.started = false ∧ (s.port 1 0).stopped = false ∧ (s.quietens 1 && !sbStore t.spb) = false ∧
     s.generates 1 0 = true ∧ s.gateOpen 1 t = true ∧ s.waitsFor t.before = false) ∧
    (let b := spbOf 0x100000 0 false 1 0 0 none ||| BitVec.ofNat 512 (2 ^ 84)
     sbUnits b = 0 ∧ sbEnd7 b = true ∧ sbStore b = false) := by decide +kernel

theorem witness_StreamEvents_load :
    (let t := streamOf (spbOf 0x100000 0 false 1 0 2 none)
     let s := streaming t id []
     atPort s t = true ∧ sbMode t.spb = 0 ∧ sbStore t.spb = false ∧ (s.port 1 0).readyUnit = none ∧ s.generates 1 0 = true ∧
     (s.port 1 0).stopped = false ∧ t.unit < sbUnits t.spb ∧ fits (s.unitCheck 1 t.spb (unitAddr t.spb t.unit) .read false 15) 1 0 = true) ∧
    (let t := streamOf (spbOf 0x100000 0 false 1 0 2 none)
     let b := { lineB with bad := 1 }
     let s := { streaming t id [] with m := { cellOn.m with banks := [b] } }
     strikes (s.unitCheck 1 t.spb (unitAddr t.spb t.unit) .read false 15) 1 0 = true) ∧
    (let t := streamOf (spbOf (2 ^ 52) 0 false 1 0 2 none)
     checkFault ((streaming t id []).unitCheck 1 t.spb (unitAddr t.spb t.unit) .read false 15).1 = true) ∧
    [(none : Option (BitVec 3)), some 2].all (fun eor =>
      let t := streamOf (spbOf 0x100000 0 false 1 0 2 none)
      let w : SlotSt := ⟨0, 1, 0x100000, [], lineBytes 5, 0, eor⟩
      let s := streaming { t with unit := 1 } (fun p => { p with slots := [w] }) []
      atPort s { t with unit := 1 } && (s.port 1 0).readyUnit == some w && w.eor == eor) = true := by decide +kernel

theorem witness_StreamEvents_store :
    (let t := streamOf (spbOf 0x100000 0 true 1 0 2 none)
     let s := streaming t id [(0, dataA 7)]
     atPort s t = true ∧ sbMode t.spb = 0 ∧ sbStore t.spb = true ∧ s.generates 1 0 = true ∧ t.unit < sbUnits t.spb ∧ sbTarget t.spb ≠ 3 ∧
     s.storeHead 1 0 t = some (dataA 7) ∧
     checkOk (s.unitCheck 1 t.spb (unitAddr t.spb t.unit) .write ((s.port 1 0).inRun (sbTarget t.spb)) (dataA 7).valid).1 = true ∧
     (s.unitCheck 1 t.spb (unitAddr t.spb t.unit) .write ((s.port 1 0).inRun (sbTarget t.spb)) (dataA 7).valid).2.m.banks = []) := by
  decide +kernel

theorem witness_StreamEvents_index :
    (let t := streamOf (spbOf 0x100000 1 false 1 0 2 (some 0))
     let s := streaming t (fun p => { p with ixq := [9] }) [(3, addrA 5)]
     atPort s t = true ∧ t.indexPort = some 0 ∧ s.generates 1 0 = true ∧ s.holdsIndex 1 t = true ∧ t.unit < sbUnits t.spb ∧ sbMode t.spb = 1 ∧
     (s.port 1 0).readyUnit = none ∧ (s.port 1 0).stopped = false ∧ (s.port 1 0).idxLanes = [] ∧ s.head 1 (portSite 0) 51 = some (addrA 5) ∧
     (addrA 5).isMark = false ∧ (s.port 1 0).runLeft.getD 3 0 = 0) ∧
    (let t := streamOf (spbOf 0x100000 1 false 1 0 2 (some 0))
     let s := streaming t (fun p => { p with ixq := [9], idxLanes := [3, 4] }) []
     (s.port 1 0).idxLanes = 3 :: [4] ∧ fits (s.unitCheck 1 t.spb (indexAddr t.spb 3) .read false 15) 1 0 = true) ∧
    (let t := streamOf (spbOf 0x100000 2 true 1 0 2 (some 0))
     let s := streaming t (fun p => { p with ixq := [9], idxLanes := [3] }) [(0, eorA 0)]
     atPort s t = true ∧ s.holdsIndex 1 t = true ∧ sbMode t.spb = 2 ∧ sbTarget t.spb ≠ 3 ∧ (s.port 1 0).idxLanes = 3 :: [] ∧
     s.dataBlocked 1 0 t = true) ∧
    (let t := streamOf (spbOf 0x100000 2 true 1 0 2 (some 0))
     let s := streaming t (fun p => { p with ixq := [9], idxLanes := [3] }) [(0, dataA 7)]
     s.dataBlocked 1 0 t = false ∧ s.storeHead 1 0 t = some (dataA 7) ∧
     checkOk (s.unitCheck 1 t.spb (indexAddr t.spb 3) .write ((s.port 1 0).inRun (sbTarget t.spb)) (dataA 7).valid).1 = true ∧
     (s.unitCheck 1 t.spb (indexAddr t.spb 3) .write ((s.port 1 0).inRun (sbTarget t.spb)) (dataA 7).valid).2.m.banks = []) := by
  decide +kernel

/-- A run at a SCAT's index input, its tokens behind the data, and a TARGET 3 store that no index input of the port holds back. -/
theorem witness_StreamEvents_runs :
    (let t := streamOf (spbOf 0x100000 2 true 1 0 2 (some 0))
     let s := streaming t (fun p => { p with ixq := [9], runLeft := [0, 0, 0, 2] }) [(3, addrA 5)]
     atPort s t = true ∧ s.holdsIndex 1 t = true ∧ sbMode t.spb = 2 ∧ (s.port 1 0).idxLanes = [] ∧ s.head 1 (portSite 0) 51 = some (addrA 5) ∧
     0 < (s.port 1 0).runLeft.getD 3 0) ∧
    (let t := streamOf (spbOf 0x100000 2 true 1 0 2 (some 0))
     let s := streaming t (fun p => { p with ixq := [9] }) [(3, addrA 5)]
     (s.port 1 0).runLeft.getD 3 0 = 0 ∧ (addrA 5).isMark = false ∧ s.dataBlocked 1 0 t = false) ∧
    (let t := streamOf (spbOf 0x100000 2 true 1 0 2 (some 0))
     let s := streaming t (fun p => { p with ixq := [9], idxLanes := [3], runLeft := [0, 0, 0, 0], idxRun := [dataA 9] }) []
     (s.port 1 0).fromRun (sbTarget t.spb) = true ∧ (s.port 1 0).idxLanes = 3 :: [] ∧ s.lanesLeft 1 0 t = false ∧ s.storeHead 1 0 t = some (dataA 9)) ∧
    (let t := streamOf (spbOf 0x100000 0 true 1 3 2 none)
     let s := streaming t id [(3, dataA 7)]
     s.indexTaken 1 0 = false ∧ s.storeHead 1 0 t = some (dataA 7)) := by decide +kernel

/-- A core whose banks hold nothing stores well whatever it stores. -/
theorem witness_StreamEvents_storesWell (s : State) (k n : Nat) (t : StreamSt) (h : Token) (f : UnitForm) (page : Nat) (ps : List Piece)
    (hb : s.m.banks = []) : storesWell s k n t h f page ps := by
  have : ∀ p, s.portBank k n p true = none := by
    intro p
    simp only [State.portBank, State.bankFor, State.bankLine, hb, List.find?_nil]
    split <;> simp
  simp [storesWell, State.bankError, this]

theorem witness_StreamEvents_retire :
    (let t := { streamOf (spbOf 0x100000 0 false 1 0 2 none) with unit := 2 }
     let s := streaming t id []
     s.cutOff 1 0 = false ∧ (s.port 1 0).active = some t ∧ s.streamDone 1 0 t = true ∧ (s.ctlAt 1).tops = [(t.op, 1)]) ∧
    (let t := streamOf (spbOf 0x100000 0 false 1 0 2 none)
     let s := streaming t (fun p => { p with stopped := true }) []
     let s := { s with sched := { s.sched with tasks := [{ taskA with stopping := true }] } }
     s.cutOff 1 0 = true ∧ (s.port 1 0).items = .stream t :: []) := by decide +kernel

theorem witness_StreamEvents_packets :
    (let t := streamOf (spbOf (2 ^ 29) 3 false 1 0 2 none)
     let g : LandRing := ⟨0, 16, [[dataA 1, dataA 2]], 2, 0⟩
     let s := streaming t id []
     let s := { s with links := { s.links with rings := [(8 * 1 + 0, g)] } }
     atPort s t = true ∧ sbMode t.spb = 3 ∧ sbStore t.spb = false ∧ pktRing t.spb = (1, 0) ∧ s.landRing 1 0 = some g ∧
     nextTaker g.served (s.ringTakers (1, 0)) = some (16 * 1 + 0) ∧ g.packets = [dataA 1, dataA 2] :: []) ∧
    [dataA 7, eorA 0].all (fun h =>
      let t := streamOf (spbOf 0 3 true 1 2 2 none)
      let s := streaming t (fun p => { p with frame := [dataA 7] }) [(0, h)]
      let s := s.setSite 1 (portSite 0) { s.site 1 (portSite 0) with frames := [0, 0, BitVec.ofNat 256 (128 * 2 ^ 128), 0, 0, 1, 0, 0] }
      atPort s t && sbMode t.spb == 3 && sbStore t.spb && s.head 1 (portSite 0) 48 == some h && s.generates 1 0 && !(s.port 1 0).reported &&
      !(s.port 1 0).saving && decide (t.unit < sbUnits t.spb) && (s.port 1 0).frame != [] && !h.badMark == h.isMark &&
      (s.port 1 0).runLeft.getD 0 0 == 0 && (!h.isMark || decide (alignHeads ((s.portJoins 1 0).map (fun d => s.head 1 d.1 d.2)) = .mark h))) = true ∧
    (let t := streamOf (spbOf 0 3 true 1 2 2 none)
     let s := streaming t (fun p => { p with runLeft := [3, 0, 0, 0] }) [(0, dataA 7)]
     0 < (s.port 1 0).runLeft.getD 0 0 ∧ s.head 1 (portSite 0) 48 = some (dataA 7) ∧ (dataA 7).isMark = false) ∧
    (let t := streamOf (spbOf 0 3 true 1 2 2 none)
     let s := streaming t id [(0, eorA 0)]
     let s := (s.setSite 1 (portSite 0) { s.site 1 (portSite 0) with frames := [0, 0, BitVec.ofNat 256 (128 * (2 ^ 128 + 2 ^ 136)), 0, 0, 1, 0, 0] }).setChan 1
       (portSite 0) 49 [⟨eorA 1, 4, []⟩]
     s.head 1 (portSite 0) 48 = some (eorA 0) ∧ alignHeads ((s.portJoins 1 0).map (fun d => s.head 1 d.1 d.2)) = .skew) ∧
    txFrame false 0 [dataA 7] = none ∧
    (txFrame false 0 [mkData (BitVec.ofNat 1024 14) 1 15 1, dataA 7]).isSome = true := by decide +kernel

/-! ### Engines -/

/-- A copy and a gather of 8 bytes from 0x210000, and a copy from an address that nothing maps. -/
def copy8 : EngOp := newEngOp .copy (leBytes 8 0x200000 ++ leBytes 8 0x210000 ++ leBytes 8 8) 5 none none 3 []
def copyBad : EngOp := newEngOp .copy (leBytes 8 0x210000 ++ leBytes 8 (2 ^ 52) ++ leBytes 8 8) 5 none none 3 []
def gather8 : EngOp := newEngOp .gather gatherBytes 5 (some ⟨0, 1⟩) none 3 []

def engined (copy : Bool) (e : EngOp) : State := cellOn.setEngOp copy 0 0 e

/-- The answers to an engine's reads of some pieces have come. -/
def answeredReads (copy : Bool) (s : State) (ps : List Piece) : State :=
  { s with net := { s.net with accesses := ps.mapIdx (fun i p => { (default : Access) with
      id := i + 1, agent := engAgent copy 0 0, op := .read, loc := p.loc, size := p.n, data := List.replicate p.n 7, dest := .fetch, done := true }) } }

/-- The state in which an engine has its answers for a range of addresses. -/
def engRead (copy : Bool) (e : EngOp) (acc : Acc) (va : Word) (n : Nat) : State :=
  answeredReads copy (engined copy e) (State.placeIn 0 e.asn acc (pieces va n) Placed.none (engined copy e)).1.ps

def sound (a : Placed) : Bool := a.bad.isNone && a.hole.isNone && !a.stall

/-- Places are read at once: the agent has no writes of its own on their way there, their bytes have come, and no slot's CRC is wrong. -/
def readsPlaces (s : State) (copy : Bool) (e : EngOp) (va n : Nat) (ps : List Piece) : Bool :=
  !s.ownWrites (engAgent copy 0 0) ps &&
  (match s.fetchAll (engAgent copy 0 0) e.asn true ps with
  | (some (.ok _), s1) => (s1.slotCheck 0 e.asn va n).1.isNone
  | _ => false)

/-- The checks of a unit, in their order, all pass. -/
def unitPasses (copy : Bool) (e : EngOp) (x : Nat) : Bool :=
  let r := e.range x
  let a := State.placeIn 0 e.asn .read (pieces r.1 r.2.2) Placed.none (engRead copy e .read r.1 r.2.2)
  let b := State.placeIn 0 e.asn .write (pieces r.2.1 r.2.2) Placed.none a.2
  sound a.1 && sound b.1 && b.2.firstBad 0 e x == none && (b.2.destBad b.1.ps).isNone && readsPlaces b.2 copy e r.1.toNat r.2.2 a.1.ps

theorem witness_EngineEvents :
    [(true, copy8), (false, { gather8 with index := some (BitVec.ofNat 32 3) })].all (fun p =>
      let r := p.2.range (if p.1 then 0 else 3)
      let s := engRead p.1 p.2 .read r.1 r.2.2
      s.engOp p.1 s.input.reticle.toNat s.input.slot.toNat == some p.2 && !p.2.fault.valid && !s.waitsFor p.2.after && p.2.writes == [] &&
      decide (p.2.unit < p.2.units) && unitPasses p.1 p.2 (if p.1 then 0 else 3)) = true ∧
    (State.placeIn 0 5 .read (pieces (copyBad.range 0).1 (copyBad.range 0).2.2) Placed.none (engined true copyBad)).1.bad.isSome = true ∧
    (let e := gather8
     let va : Word := BitVec.ofNat 64 (fieldAt e.desc 0 8 + 4 * (e.unit / fieldAt e.desc 0x24 4))
     let a := State.placeIn 0 e.asn .index (pieces va 4) Placed.none (engRead false e .index va 4)
     e.kind = .gather ∧ e.index = none ∧ e.unit < e.units ∧ e.writes = [] ∧ sound a.1 = true ∧ readsPlaces a.2 false e va.toNat 4 a.1.ps = true) ∧
    (let e := { copy8 with unit := 1, core := some ⟨0, 1⟩ }
     let s := (engined true e).setCtlAt 1 { cellOn.ctl with cops := [3] }
     e.units ≤ e.unit ∧ s.engDone true 0 0 e = true ∧ e.cmd = none ∧ e.core = some ⟨0, 1⟩ ∧ e.op ∈ (s.ctlAt 1).cops) := by decide +kernel

/-- A destination on a page that may not be written, and formats of two pages that differ. -/
theorem witness_EngineEvents_pages :
    (let s := { engined true copy8 with m := { cellOn.m with mem := [(0x40000, 0x07)] } }
     let a := State.placeIn 0 5 .read (pieces (copy8.range 0).1 8) Placed.none s
     a.1.bad = none ∧ (State.placeIn 0 5 .write (pieces (copy8.range 0).2.1 8) Placed.none a.2).1.bad.isSome = true) ∧
    pairOk { leafAttr 0xF 2 with fmt := 1 } { leafAttr 0xF 2 with fmt := 2 } = false := by decide +kernel

/-! ### The machine as a whole -/

theorem witness_EncodingRoundTrip : (Instr.addi 3 4 7).wf = true ∧ encode (.addi 3 4 7) ≠ none := by decide +kernel

theorem witness_DecodeThenEncode :
    0x08000000 < 2 ^ 32 ∧ decode 0x08000000 = some (.addi 0 0 0) ∧ decodeMicro 0x06001005 = some (.vmax (.v 0) (.v 0) (.v 1) false false .tile) := by
  decide +kernel

/-- Core 1 with a word at its pc, and its turn first on the agenda. -/
def fetching (pc : Word) (w : Nat) : State :=
  let s := coreAt 1 []
  { s.setCtl { s.ctl with run := .running, r := { s.cr with pc := pc } } with m := { s.m with mem := memStore s.m.mem (codeKey 1 pc.toNat) (leBytes 4 w) }, agenda := [.core ⟨0, 1⟩] }

theorem witness_StepRunsDecodedInstruction :
    State.reset.agenda = [] ∧ State.reset.boot.supply = true ∧
    (let s := fetching 0x40 0x08000000
     s.boot.supply = true ∧ s.agenda = [.core ⟨0, 1⟩] ∧ s.ctl.late = none ∧ s.lostAt s.me = none ∧ s.issues = true ∧ s.pc.toNat < 0x10000 ∧
     decode s.fetchWord = some (.addi 0 0 0) ∧ s.ctl.withdrawn = []) ∧
    (let s := fetching 0x40 0x08000000
     let s := s.setCtl { s.ctl with withdrawn := [default] }
     s.ctl.late = none ∧ s.lostAt s.me = none ∧ s.issues = true ∧ s.ctl.withdrawn ≠ []) ∧
    decode (fetching 0x40 0).fetchWord = none ∧ 0x10000 ≤ (fetching 0x10000 0).pc.toNat ∧
    State.reset.issues = false ∧
    (let s := { tile cellOn 0 id [] with agenda := [.node ⟨⟨0, 1⟩, 0, 0⟩] }
     s.boot.supply = true ∧ { s with agenda := [] }.microAt ⟨⟨0, 1⟩, 0, 0⟩ = none) ∧
    (let s := { fetching 0x40 0 with m := { (fetching 0x40 0).m with lost := [(1, 0x100000)] } }
     s.ctl.late = none ∧ s.lostAt s.me = some 0x100000) ∧
    (let s := fetching 0x40 0
     let s := s.setCtl { s.ctl with late := some (0x0A, 0x100000) }
     s.ctl.late = some (0x0A, 0x100000) ∧ s.ctl.run = .running ∧
       ((s.setCtl { s.ctl with late := none }).interrupt s.me 0x0A 0x100000 s.ctl.lateOp).isSome = true) ∧
    (let s := tile cellOn 16 id []
     let s := s.setSite 1 0 { s.site 1 0 with frames := 16 :: BitVec.ofNat 256 0x06001005 :: List.replicate 21 0 }
     s.microAt ⟨⟨0, 1⟩, 0, 0⟩ = some 0x06001005 ∧ decodeMicro 0x06001005 = some (.vmax (.v 0) (.v 0) (.v 1) false false .tile)) ∧
    encode .coldReset = none ∧ { State.reset.boot with supply := false }.supply = false := by decide +kernel

/-- The invariants hold at reset, and a step from a state that meets them gives a next state. -/
theorem witness_MemoryStaysCanonical :
    State.reset.MemOk ∧ (match step (fetching 0x40 0x08000000) with | .next t => Memory.wf t.m.mem | _ => false) = true := by
  refine ⟨by simp only [State.MemOk]; decide +kernel, by decide +kernel⟩

theorem test_mode_at_reset : State.reset.ModeOk := by
  intro k
  have : State.reset.core k = CoreSt.reset (isHub k) := rfl
  rw [State.ctlAt, this]
  rfl

theorem witness_ModeStays :
    encode (.addi 1 0 5) ≠ none ∧ (match exec (.addi 1 0 5) State.reset with | .next _ => true | _ => false) = true := by decide +kernel

end Sys2Proof.Tests
end

section
/-! SUPPORT. The scalar instructions of chapter 18 that only compute or jump: the ALU group of two sources and the immediate forms (R318, R319),
LIZ and LIK (R320), and branches and jumps (R332, R333). First what each value of the model is in the spec's terms, then what an instruction of each
shape does, then the statements. -/

namespace Sys2Proof.Machine

/-! ## Waiting at issue -/

/-- Register s0 never awaits a result (R238). -/
@[simp] theorem State.isPending_zero (s : State) : s.isPending 0#5 = false := rfl

@[simp] theorem State.ready_cons (s : State) (r : Reg) (rs : List Reg) : s.ready (r :: rs) ↔ s.isPending r = false ∧ s.ready rs :=
  List.forall_mem_cons

@[simp] theorem State.ready_nil (s : State) : s.ready [] := List.forall_mem_nil _

/-- A result issues no access, so the registers that wait are those that waited before. -/
@[simp] theorem State.isPending_result (s : State) (d : Reg) (v : Word) (n : Reg) : (s.result d v).isPending n = s.isPending n := rfl

theorem State.reg_result_same (s : State) {d : Reg} (hd : d ≠ 0) (v : Word) : (s.result d v).reg d = v := by
  rw [(State.result_spec s d v).1, if_neg hd, if_pos rfl]

@[simp] theorem State.reg_zero (s : State) : s.reg 0#5 = 0 := CtlRegs.get_zero _

/-! ## Comparisons and the lesser and greater of two values (R318) -/

theorem flagWord_sltCond (x y : Word) : flagWord (sltCond x y) = if x.toInt < y.toInt then 1 else 0 := by
  simp [flagWord, sltCond]

theorem flagWord_ultCond (x y : Word) : flagWord (ultCond x y) = if x.toNat < y.toNat then 1 else 0 := by
  simp [flagWord, ultCond]

theorem not_sltCond (x y : Word) : (!sltCond x y) = decide (y.toInt ≤ x.toInt) := by
  rw [sltCond, ← decide_not, decide_eq_decide, not_lt]

theorem not_ultCond (x y : Word) : (!ultCond x y) = decide (y.toNat ≤ x.toNat) := by
  rw [ultCond, ← decide_not, decide_eq_decide, not_lt]

/-- The one of two words whose value is lesser, by any reading `f` of words as values that `g` undoes. -/
theorem ite_lt_eq_min {α : Type} [LinearOrder α] {f : Word → α} {g : α → Word} (hg : ∀ x, g (f x) = x) (x y : Word) :
    (if decide (f y < f x) then y else x) = g (min (f x) (f y)) := by
  by_cases h : f y < f x
  · simp [h, min_eq_right h.le, hg]
  · simp [h, min_eq_left (not_lt.1 h), hg]

/-- The one whose value is greater. -/
theorem ite_lt_eq_max {α : Type} [LinearOrder α] {f : Word → α} {g : α → Word} (hg : ∀ x, g (f x) = x) (x y : Word) :
    (if decide (f x < f y) then y else x) = g (max (f x) (f y)) := by
  by_cases h : f x < f y
  · simp [h, max_eq_right h.le, hg]
  · simp [h, max_eq_left (not_lt.1 h), hg]

theorem ofNat_toNat_word (x : Word) : BitVec.ofNat 64 x.toNat = x := (BitVec.ofNat_toNat 64 x).trans x.setWidth_eq

/-! ## Division (R318) -/

/-- The divisor −1 of the overflowing quotient is the word of ones. -/
theorem eq_allOnes_iff_toInt (y : Word) : y = BitVec.allOnes 64 ↔ y.toInt = -1 := by
  rw [← BitVec.toInt_inj]; rfl

/-- DIV with its corners, the divisor of the second one given as a signed value. -/
theorem divValue_eq (x y : Word) :
    divValue x y =
      if y = 0 then BitVec.allOnes 64 else if x = 0x8000000000000000 ∧ y.toInt = -1 then x else BitVec.ofInt 64 (x.toInt.tdiv y.toInt) := by
  simp only [divValue, eq_allOnes_iff_toInt]

/-- Modulo 2^64 the truncated remainder is the dividend less the divisor times the quotient, whether or not the quotient fits its word. -/
theorem ofInt_tmod_eq (x y : Word) :
    BitVec.ofInt 64 (x.toInt.tmod y.toInt) = BitVec.ofInt 64 (x.toInt - y.toInt * (BitVec.ofInt 64 (x.toInt.tdiv y.toInt)).toInt) := by
  simp only [Int.tmod_def, Int.sub_eq_add_neg, BitVec.ofInt_add, BitVec.ofInt_neg, BitVec.ofInt_mul, BitVec.ofInt_toInt]

/-- REM with its corners, by the quotient that DIV writes. -/
theorem remValue_eq (x y : Word) :
    remValue x y =
      if y = 0 then x else if x = 0x8000000000000000 ∧ y.toInt = -1 then 0
      else BitVec.ofInt 64 (x.toInt - y.toInt * (divValue x y).toInt) := by
  simp only [remValue, divValue_eq, eq_allOnes_iff_toInt]
  by_cases h0 : y = 0
  · simp only [h0, if_true]
  · by_cases hc : x = 0x8000000000000000 ∧ y.toInt = -1
    · simp only [if_neg h0, if_pos hc]
    · simp only [if_neg h0, if_neg hc, ofInt_tmod_eq]

/-! ## What an instruction that only computes does (R316, R318) -/

section Computing

variable {s : State} {i : Instr} {d a b : Reg} {v : Word}

/-- An instruction of two sources writes the value of its operation and goes on at the next word. -/
theorem wrote_of_compute3 {f : Word → Word → Word} (h : s.ready [d, a, b]) (he : exec i s = .next (s.compute3 d a b f))
    (hv : f (s.reg a) (s.reg b) = v) : ∃ t, exec i s = .next t ∧ s.wrote t d v (s.pc + 4) := by
  rw [State.compute3_spec f h, hv] at he
  exact ⟨_, he, State.wrote_result s d v⟩

/-- The same of an instruction of one source. -/
theorem wrote_of_compute2 {f : Word → Word} (h : s.ready [d, a]) (he : exec i s = .next (s.compute2 d a f)) (hv : f (s.reg a) = v) :
    ∃ t, exec i s = .next t ∧ s.wrote t d v (s.pc + 4) := by
  rw [State.compute2_spec f h, hv] at he
  exact ⟨_, he, State.wrote_result s d v⟩

theorem exec_aluResults (k : BitVec 2) (h : s.ready [d, a, b]) :
    ∀ c ∈ aluResults d a b k (s.reg a) (s.reg b), ∃ t, exec c.1 s = .next t ∧ s.wrote t d c.2 (s.pc + 4) := by
  simp only [aluResults, List.forall_mem_cons]
  exact ⟨
    -- ADD, SUB, AND, OR, XOR, SHL, SHR, SRA: the model's operation is the table's
    wrote_of_compute3 h rfl rfl, wrote_of_compute3 h rfl rfl, wrote_of_compute3 h rfl rfl, wrote_of_compute3 h rfl rfl,
    wrote_of_compute3 h rfl rfl, wrote_of_compute3 h rfl rfl, wrote_of_compute3 h rfl rfl, wrote_of_compute3 h rfl rfl,
    -- SLT, SLTU
    wrote_of_compute3 h rfl (flagWord_sltCond _ _), wrote_of_compute3 h rfl (flagWord_ultCond _ _),
    -- MIN, MAX, MINU, MAXU
    wrote_of_compute3 h rfl (ite_lt_eq_min (fun _ => BitVec.ofInt_toInt) _ _),
    wrote_of_compute3 h rfl (ite_lt_eq_max (fun _ => BitVec.ofInt_toInt) _ _),
    wrote_of_compute3 h rfl (ite_lt_eq_min ofNat_toNat_word _ _), wrote_of_compute3 h rfl (ite_lt_eq_max ofNat_toNat_word _ _),
    -- MUL, MULH, MULHU, LEA
    wrote_of_compute3 h rfl rfl, wrote_of_compute3 h rfl rfl, wrote_of_compute3 h rfl rfl, wrote_of_compute3 h rfl rfl,
    List.forall_mem_nil _⟩

theorem exec_divResults (h : s.ready [d, a, b]) :
    ∀ c ∈ divResults d a b (s.reg a) (s.reg b), ∃ t, exec c.1 s = .next t ∧ s.wrote t d c.2 (s.pc + 4) := by
  simp only [divResults, ← divValue_eq, List.forall_mem_cons]
  exact ⟨wrote_of_compute3 h rfl rfl, wrote_of_compute3 h rfl (remValue_eq _ _), wrote_of_compute3 h rfl rfl,
    wrote_of_compute3 h rfl rfl, List.forall_mem_nil _⟩

theorem exec_immResults (i : BitVec 16) (n : BitVec 6) (h : s.ready [d, a]) :
    ∀ c ∈ immResults d a i n (s.reg a), ∃ t, exec c.1 s = .next t ∧ s.wrote t d c.2 (s.pc + 4) := by
  simp only [immResults, List.forall_mem_cons]
  exact ⟨wrote_of_compute2 h rfl rfl, wrote_of_compute2 h rfl rfl, wrote_of_compute2 h rfl rfl, wrote_of_compute2 h rfl rfl,
    wrote_of_compute2 h rfl (flagWord_sltCond _ _), wrote_of_compute2 h rfl (flagWord_ultCond _ _),
    wrote_of_compute2 h rfl rfl, wrote_of_compute2 h rfl rfl, wrote_of_compute2 h rfl rfl, List.forall_mem_nil _⟩

end Computing

/-- The no-operation is ADDI of s0 to itself: it writes zero to s0 (R319). -/
theorem exec_nop (s : State) : ∃ t, exec (.addi 0 0 0) s = .next t ∧ s.wrote t 0 0 (s.pc + 4) :=
  wrote_of_compute2 (by simp) rfl (by simp [immS])

/-! ## LIZ and LIK (R320) -/

section Constants

variable {s : State} {d : Reg}

theorem exec_liz (p : BitVec 2) (i : BitVec 16) (h : s.ready [d]) : exec (.liz d p i) s = .next (s.result d (lizValue p i)) :=
  congrArg Host.Outcome.next (State.compute2_spec _ (by simpa using h))

theorem exec_lik (p : BitVec 2) (i : BitVec 16) (h : s.ready [d]) : exec (.lik d p i) s = .next (s.result d (likValue (s.reg d) p i)) :=
  congrArg Host.Outcome.next (State.compute2_spec _ (by simpa using h))

theorem exec_lik_of_pending (p : BitVec 2) (i : BitVec 16) (h : s.isPending d = true) : exec (.lik d p i) s = .next s :=
  congrArg Host.Outcome.next (State.whenReady_of_pending _ ⟨d, List.mem_cons_self, h⟩)

/-- The bits of an immediate at its position: its own there, zeros elsewhere. -/
theorem getLsbD_lizValue (p : BitVec 2) (i : BitVec 16) {j : Nat} (hj : j < 64) :
    (lizValue p i).getLsbD j = (decide (16 * p.toNat ≤ j) && decide (j < 16 * p.toNat + 16) && i.getLsbD (j - 16 * p.toNat)) := by
  by_cases h1 : 16 * p.toNat ≤ j
  · by_cases h2 : j < 16 * p.toNat + 16
    · simp [lizValue, immZ, piecePos, hj, h1, h2]
    · simp [lizValue, immZ, piecePos, hj, h2, BitVec.getLsbD_of_ge i (j - 16 * p.toNat) (by omega)]
  · simp [lizValue, immZ, piecePos, h1, Nat.lt_of_not_le h1]

/-- LIK is LIZ over the old value, of which it clears the position's bits: those of LIZ of an immediate of ones. -/
theorem likValue_eq (old : Word) (p : BitVec 2) (i : BitVec 16) :
    likValue old p i = (old &&& ~~~lizValue p (BitVec.allOnes 16)) ||| lizValue p i := rfl

/-- The bits of a LIK: the immediate's at its position, the old ones elsewhere. -/
theorem getLsbD_likValue (old : Word) (p : BitVec 2) (i : BitVec 16) {j : Nat} (hj : j < 64) :
    (likValue old p i).getLsbD j =
      if 16 * p.toNat ≤ j ∧ j < 16 * p.toNat + 16 then i.getLsbD (j - 16 * p.toNat) else old.getLsbD j := by
  rw [likValue_eq, BitVec.getLsbD_or, BitVec.getLsbD_and, BitVec.getLsbD_not, getLsbD_lizValue p _ hj, getLsbD_lizValue p i hj,
    BitVec.getLsbD_allOnes]
  by_cases hin : 16 * p.toNat ≤ j ∧ j < 16 * p.toNat + 16
  · simp [hin, show j - 16 * p.toNat < 16 by omega]
  · rw [← Bool.decide_and, decide_eq_false hin]
    simp [hin, hj]

/-- The rule's example: each LIK finds its register ready, since no result makes a register wait. -/
theorem constant_of_four_words (h : s.ready [5]) :
    ∃ t1 t2 t3 t4, exec (.liz 5 0 0xCDEF) s = .next t1 ∧ exec (.lik 5 1 0x89AB) t1 = .next t2 ∧
      exec (.lik 5 2 0x4567) t2 = .next t3 ∧ exec (.lik 5 3 0x0123) t3 = .next t4 ∧ t4.reg 5 = 0x0123456789ABCDEF := by
  have h5 : (5 : Reg) ≠ 0 := by decide
  refine ⟨_, _, _, _, exec_liz 0 _ h, exec_lik 1 _ (by simpa using h), exec_lik 2 _ (by simpa using h), exec_lik 3 _ (by simpa using h), ?_⟩
  simp only [State.reg_result_same _ h5]
  decide

end Constants

/-! ## Branches and jumps (R332, R333) -/

section Branches

variable {s : State} {i : Instr} {a b : Reg} {off : BitVec 16} {taken : Word → Word → Bool} {c : Bool}

/-- A branch goes on at its target or at the next word and changes nothing else. -/
theorem wrote_of_branchIf (h : s.ready [a, b]) (he : exec i s = .next (s.branchIf a b off taken)) (hc : taken (s.reg a) (s.reg b) = c) :
    ∃ t, exec i s = .next t ∧ s.wrote t 0 0 (if c then s.pc + 4 * off.signExtend 64 else s.pc + 4) := by
  rw [State.branchIf_spec off taken h, hc] at he
  exact ⟨_, he, State.wrote_setPc s _⟩

/-- A branch with a pending operand waits at issue (R316). -/
theorem next_of_branchIf_pending (h : s.isPending a = true ∨ s.isPending b = true) (he : exec i s = .next (s.branchIf a b off taken)) :
    exec i s = .next s := by
  rw [he, State.branchIf, State.whenReady_of_pending _ (by simpa using h)]

/-- Each branch of the table is a conditional branch whose condition is the table's. -/
theorem exec_branchResults (s : State) (a b : Reg) (off : BitVec 16) :
    ∀ c ∈ branchResults a b off (s.reg a) (s.reg b),
      ∃ taken, exec c.1 s = .next (s.branchIf a b off taken) ∧ taken (s.reg a) (s.reg b) = c.2 := by
  simp only [branchResults, List.forall_mem_cons]
  exact ⟨⟨_, rfl, rfl⟩, ⟨_, rfl, decide_not.symm⟩,
    ⟨_, rfl, rfl⟩, ⟨_, rfl, not_sltCond _ _⟩, ⟨_, rfl, rfl⟩, ⟨_, rfl, not_ultCond _ _⟩,
    List.forall_mem_nil _⟩

end Branches

/-- Clearing bits [1:0] rounds down to a multiple of four. -/
theorem toNat_jalrTarget (x : Word) (i : BitVec 16) : (jalrTarget x i).toNat = (x + i.signExtend 64).toNat / 4 * 4 := by
  have hmask : (~~~3 : Word) = BitVec.allOnes 64 <<< 2 := by decide
  rw [jalrTarget, immS, hmask, ← BitVec.shiftLeft_ushiftRight, BitVec.toNat_shiftLeft, BitVec.toNat_ushiftRight]
  omega

/-- JAL writes the link and goes on at its target. -/
theorem exec_jal {s : State} {d : Reg} (off : BitVec 21) (h : s.ready [d]) :
    ∃ t, exec (.jal d off) s = .next t ∧ s.wrote t d (s.pc + 4) (s.pc + 4 * off.signExtend 64) :=
  ⟨_, congrArg Host.Outcome.next (State.whenReady_of_ready _ h), State.wrote_link s d _ _⟩

/-- JALR's target is made from its operand as it was before the link is written. -/
theorem exec_jalr {s : State} {d a : Reg} (i : BitVec 16) (h : s.ready [d, a]) :
    ∃ t, exec (.jalr d a i) s = .next t ∧ s.wrote t d (s.pc + 4) (jalrTarget (s.reg a) i) :=
  ⟨_, congrArg Host.Outcome.next (State.whenReady_of_ready _ h), State.wrote_link s d _ _⟩

end Sys2Proof.Machine

/-! ## The statements -/

namespace Sys2Proof.Laws

open Sys2Proof.Machine

/-- Settles O1: the values of the three tables in the spec's terms, and one rule for what an instruction that only computes leaves behind. -/
theorem aluResults : Obligations.AluResults := fun _ _ _ _ k i n =>
  ⟨fun h => List.forall_mem_append.2 ⟨exec_aluResults k h, exec_divResults h⟩, exec_immResults i n, fun _ => ⟨by decide, exec_nop _⟩⟩

/-- Settles O3: the values bit by bit, and the four words of the rule executed one after the other. -/
theorem constantPieces : Obligations.ConstantPieces := fun s d p i =>
  ⟨fun h => ⟨⟨_, _, exec_liz p i h, State.wrote_result s d _, fun _ => getLsbD_lizValue p i⟩,
      ⟨_, _, exec_lik p i h, State.wrote_result s d _, fun _ => getLsbD_likValue _ p i⟩⟩,
    exec_lik_of_pending p i, constant_of_four_words⟩

/-- Settles O6: every branch is a conditional branch of the one shape, and a jump writes its link beside the pc. -/
theorem branchesAndJumps : Obligations.BranchesAndJumps := by
  refine ⟨fun s a b off h c hc => ?_, fun s a b off h c hc => ?_, fun s d a off i => ⟨exec_jal off, fun h => ?_⟩⟩
  · obtain ⟨taken, he, ht⟩ := exec_branchResults s a b off c hc
    exact wrote_of_branchIf h he ht
  · obtain ⟨taken, he, -⟩ := exec_branchResults s a b off c hc
    exact next_of_branchIf_pending h he
  · obtain ⟨t, he, ht⟩ := exec_jalr i h
    exact ⟨t, _, he, ht, toNat_jalrTarget _ i⟩

end Sys2Proof.Laws
end
